-- ==== Sys2Proof/Word.lean ====
section
/-!
DEFINITION. Word.lean: the word types of the manual (00_scope.md R11: bit 0 is the least significant bit, byte
order is little-endian) and the two plain containers every table and every memory of the model is built from.
-/
namespace Sys2Proof

abbrev Byte := BitVec 8
abbrev Word16 := BitVec 16
abbrev Word32 := BitVec 32
abbrev Word64 := BitVec 64
abbrev Word128 := BitVec 128

/-- A finite table: entries by rising key. -/
abbrev Table (α : Type) := List (Nat × α)

/-- Sparse cells of one width: (address, value) pairs by rising address. `Cells 8` is a list of `Host.Cell`. -/
abbrev Cells (n : Nat) := List (Nat × BitVec n)

/-- The entry of a table at a key. -/
def tfind {α : Type} : Table α → Nat → Option α
  | [], _ => none
  | (k', v) :: t, k => if k = k' then some v else tfind t k

/-- Put an entry, keeping the keys rising. -/
def tput {α : Type} : Table α → Nat → α → Table α
  | [], k, v => [(k, v)]
  | (k', v') :: t, k, v =>
    if k = k' then (k, v) :: t
    else if k < k' then (k, v) :: (k', v') :: t
    else (k', v') :: tput t k v

/-- Remove what stands at a key. -/
def tdel {α : Type} : Table α → Nat → Table α
  | [], _ => []
  | (k', v') :: t, k => if k = k' then tdel t k else (k', v') :: tdel t k

/-- The entry at a key, or a default. -/
def tgetD {α : Type} (t : Table α) (k : Nat) (d : α) : α := (tfind t k).getD d

/-- Read one cell: an unlisted address reads as `d`. -/
def cread {n : Nat} (d : BitVec n) (m : Cells n) (a : Nat) : BitVec n := tgetD m a d

/-- Write one cell, keeping the canonical form: writing what an unlisted address reads as removes the entry. -/
def cwrite {n : Nat} (d : BitVec n) (m : Cells n) (a : Nat) (v : BitVec n) : Cells n :=
  if v = d then tdel m a else tput m a v

/-- The canonical form of cells: addresses strictly rising, no entry equal to the default. -/
def cwf {n : Nat} (d : BitVec n) : Cells n → Bool
  | [] => true
  | (_, v) :: [] => v != d
  | (a, v) :: (a', v') :: t => decide (a < a') && (v != d) && cwf d ((a', v') :: t)

end Sys2Proof
end

