-- ==== Sys2Proof/Syntax.lean ====
section
/-!
DEFINITION. Syntax.lean: the commands of the block, one constructor per row of spec/opcode_table.json, with the operands
that come from outside the state: the group that issues, the message in flight that arrives, the flit or frame received,
the sample read, the word written.
-/
namespace Sys2Proof

/-- A group slot: global core, sub-core, slot (03 R54). -/
structure GroupAt where
  core : Nat
  sub  : Nat
  slot : Nat
  deriving DecidableEq, Repr

/-- The acting mark of a register access (15 R427), or an access over I3C (18 R503). -/
structure Mark where
  act  : Nat
  part : Nat
  i3c  : Bool
  deriving DecidableEq, Repr

/-- A tether flit: the four header words of 15 R423 and its data units' bytes. -/
structure Flit where
  w0 : Word64
  w1 : Word64
  w2 : Word64
  w3 : Word64
  data : List Byte
  deriving DecidableEq, Repr

/-- A Glinen frame: the eight header words of 16 R451 and its data units' bytes. -/
structure Frame where
  w0 : Word64
  w1 : Word64
  w2 : Word64
  w3 : Word64
  w4 : Word64
  w5 : Word64
  w6 : Word64
  w7 : Word64
  data : List Byte
  deriving DecidableEq, Repr

/-- What a memory read meets: nothing, an error corrected in each of some sectors of the line (10 R288, R294 LINK_CE), an uncorrectable
link error that `times` retries cured (10 R294), or an error that stays in some of the line's sectors. -/
inductive ReadOutcome where
  | clean
  | corrected (sectors : BitVec 4)
  | retried (times : Nat)
  | uncorrectable (sectors : BitVec 4)
  deriving DecidableEq, Repr

/-- What an L2 parity check finds on the line at hand (10 R311). -/
inductive ParityFind where
  | ok
  | dataSector
  | tagOrState
  | stateUnreadable
  | evictionEntry
  deriving DecidableEq, Repr

/-- What the probe of one LPDDR6 channel finds (01 R31, 10 R290): whether it answers, CAP and RANKS codes, and whether
its mode registers take the set rate. -/
structure ChannelAnswer where
  answers : Bool
  cap     : Nat
  ranks   : Nat
  rateOk  : Bool
  deriving DecidableEq, Repr

/-- The units that bear a role epoch (13 R394), slots apart. -/
inductive EpochUnit where
  | copyEngine (cluster part : Nat)
  | routingEngine (cluster part : Nat)
  | coreBinding (core : Nat)
  deriving DecidableEq, Repr

/-- One AVSBus sample: per core rail the output voltage in mV and current in A, none where the read failed (17 R469). -/
structure RailSample where
  rails : List (Option (Nat × Nat))
  deriving DecidableEq, Repr

/-- What PMBus reads of one rail (17 R469): output voltage in mV, current in mA, temperature in degrees C and the status word. -/
structure PmbusRead where
  mv : Nat
  ma : Nat
  temp : Nat
  status : BitVec 16
  deriving DecidableEq, Repr

/-- One PMBus sample: VDD_CORE0 to VDD_CORE3, VDD_HBD, VDD_LPIO, VDD_PORT, VDD_TETH, VDD_KEEL and VDDIO_KEEL, none where a read failed. -/
structure PmbusSample where
  rails : List (Option PmbusRead)
  deriving DecidableEq, Repr

/-- One update of the activity estimator (17 R472): it brings nothing from outside, since the estimate comes from the device's own counters. -/
structure EstimatorSample where
  deriving DecidableEq, Repr

/-- One temperature sample in degrees C (17 R481): the 12 sensors of fields 0 to 2 of each sail die, and the 4 of DRAM dies 0 to 5 of each sail
die. -/
structure TempSample where
  sail : List (List (List Nat))
  dram : List (List (List Nat))
  deriving DecidableEq, Repr

/-- The commands, in the table's order. -/
inductive Instr where
  /-- INTEGER_ARITHMETIC (R100). -/
  | integerArithmetic (g : GroupAt)
  /-- CMP (R100). -/
  | cmp (g : GroupAt)
  /-- PREDICATE_LOGIC (R100). -/
  | predicateLogic (g : GroupAt)
  /-- MOV (R100). -/
  | mov (g : GroupAt)
  /-- MOV_I32 (R90). -/
  | movI32 (g : GroupAt)
  /-- SEL (R100). -/
  | sel (g : GroupAt)
  /-- CVT (R248). -/
  | cvt (g : GroupAt)
  /-- XLANE (R100). -/
  | xlane (g : GroupAt)
  /-- FLOAT_ARITHMETIC (R247). -/
  | floatArithmetic (g : GroupAt)
  /-- SF_LOOKUP (R261). -/
  | sfLookup (g : GroupAt)
  /-- SF_ACCUMULATE (R276). -/
  | sfAccumulate (g : GroupAt)
  /-- SF_NORMALISE (R279). -/
  | sfNormalise (g : GroupAt)
  /-- SF_ROW_READ (R280). -/
  | sfRowRead (g : GroupAt)
  /-- SF_STATS_ACCUMULATE (R282). -/
  | sfStatsAccumulate (g : GroupAt)
  /-- SF_MEAN (R282). -/
  | sfMean (g : GroupAt)
  /-- SF_VARIANCE (R282). -/
  | sfVariance (g : GroupAt)
  /-- SF_RMS (R282). -/
  | sfRms (g : GroupAt)
  /-- LD (R143). -/
  | ld (g : GroupAt)
  /-- LOAD_COMPLETE (R145). -/
  | loadComplete (m : Nat)
  /-- ST (R143). -/
  | st (g : GroupAt)
  /-- LD_TR (R146). -/
  | ldTr (g : GroupAt)
  /-- ATOMIC (R327). -/
  | atomic (g : GroupAt)
  /-- LD_RES (R117). -/
  | ldRes (g : GroupAt)
  /-- ST_COND (R117). -/
  | stCond (g : GroupAt)
  /-- FRAG_LD (R107). -/
  | fragLd (g : GroupAt)
  /-- FRAG_ST (R107). -/
  | fragSt (g : GroupAt)
  /-- LOCK_ACQ (R122). -/
  | lockAcq (g : GroupAt)
  /-- LOCK_RETRY_TIMEOUT (R122). -/
  | lockRetryTimeout (g : GroupAt) (path : Nat)
  /-- LOCK_REL (R123). -/
  | lockRel (g : GroupAt)
  /-- MX_ISSUE (R102). -/
  | mxIssue (g : GroupAt)
  /-- CP_ISSUE (R102). -/
  | cpIssue (g : GroupAt)
  /-- RT_ISSUE (R102). -/
  | rtIssue (g : GroupAt)
  /-- DESCRIPTOR_CAPTURE_COMPLETE (R103). -/
  | descriptorCaptureComplete (m : Nat)
  /-- FENCE (R109). -/
  | fence (g : GroupAt)
  /-- CNT_SIG (R114). -/
  | cntSig (g : GroupAt)
  /-- CNT_CWAIT (R114). -/
  | cntCwait (g : GroupAt)
  /-- CNT_OWAIT (R114). -/
  | cntOwait (g : GroupAt)
  /-- CNT_SET (R114). -/
  | cntSet (g : GroupAt)
  /-- CNT_RD (R114). -/
  | cntRd (g : GroupAt)
  /-- BAR_BLK (R124). -/
  | barBlk (g : GroupAt)
  /-- NOP (R100). -/
  | nop (g : GroupAt)
  /-- BR (R97). -/
  | br (g : GroupAt)
  /-- BR_JOIN (R67). -/
  | brJoin (g : GroupAt)
  /-- BR_IND (R97). -/
  | brInd (g : GroupAt)
  /-- CALL (R97). -/
  | call (g : GroupAt)
  /-- EXIT (R97). -/
  | exit (g : GroupAt)
  /-- RD_SRC (R98). -/
  | rdSrc (g : GroupAt)
  /-- BLOCK_RESIDENT (R56). -/
  | blockResident (core : Nat)
  /-- STORE_BUFFER_ENTRY_TIMEOUT (R337). -/
  | storeBufferEntryTimeout (core sub entry : Nat)
  /-- STORE_ACK (R332). -/
  | storeAck (m : Nat)
  /-- PARK_DRAIN_COMPLETE (R77). -/
  | parkDrainComplete (g : GroupAt)
  /-- REPLAY (R80). -/
  | replay (mark : Mark) (die : Nat) (v : Word32)
  /-- KILL (R79). -/
  | kill (mark : Mark) (die : Nat) (v : Word32)
  /-- BLOCK_KILL_COMPLETE (R79). -/
  | blockKillComplete (core block : Nat)
  /-- SNAP (R47). -/
  | snap (mark : Mark) (die : Nat) (v : Word32)
  /-- SNAPSHOT_COMPLETE (R47). -/
  | snapshotComplete (die : Nat)
  /-- MATRIX_DESCRIPTOR_ACCEPT (R168). -/
  | matrixDescriptorAccept (core : Nat)
  /-- TILE_DECODE_COMPLETE (R203). -/
  | tileDecodeComplete (core : Nat)
  /-- FOLD_STEP_END (R172). -/
  | foldStepEnd (core : Nat)
  /-- GAP_LEN_EXPIRY (R188). -/
  | gapLenExpiry (core : Nat)
  /-- BALLAST_RAMP_STEP (R188). -/
  | ballastRampStep (core : Nat)
  /-- SHAPE_CHANGE_BUBBLE_END (R179). -/
  | shapeChangeBubbleEnd (core : Nat)
  /-- MATRIX_COMPLETE (R180). -/
  | matrixComplete (core : Nat)
  /-- COPY_DESCRIPTOR_ACCEPT (R151). -/
  | copyDescriptorAccept (cluster : Nat)
  /-- COPY_STEP_END (R403). -/
  | copyStepEnd (cluster : Nat)
  /-- COPY_WRITE_ACK (R155). -/
  | copyWriteAck (m : Nat)
  /-- ROUTE_DESCRIPTOR_ACCEPT (R212). -/
  | routeDescriptorAccept (cluster : Nat)
  /-- ROUTING_STEP_END (R547). -/
  | routingStepEnd (cluster : Nat)
  /-- GATHER_COMPLETE (R223). -/
  | gatherComplete (cluster expert : Nat)
  /-- ROUTING_COMPLETE (R227). -/
  | routingComplete (cluster : Nat)
  /-- COUNTER_OP_ARRIVAL (R353). -/
  | counterOpArrival (m : Nat)
  /-- WAIT_REQUEST_ARRIVAL (R359). -/
  | waitRequestArrival (m : Nat)
  /-- WAIT_RELEASE_ARRIVAL (R347). -/
  | waitReleaseArrival (m : Nat)
  /-- PAIR_PARTNER_REPORT (R364). -/
  | pairPartnerReport (m : Nat)
  /-- HOME_READ_REQUEST (R321). -/
  | homeReadRequest (m : Nat) (parity : ParityFind)
  /-- HOME_OWNERSHIP_REQUEST (R321). -/
  | homeOwnershipRequest (m : Nat) (parity : ParityFind)
  /-- HOME_WRITE_BACK (R321). -/
  | homeWriteBack (m : Nat)
  /-- HOME_CLEAN_EVICTION (R321). -/
  | homeCleanEviction (m : Nat)
  /-- FORWARDED_REQUEST (R322). -/
  | forwardedRequest (m : Nat)
  /-- FORWARD_NOTIFY (R322). -/
  | forwardNotify (m : Nat)
  /-- INVALIDATION (R321). -/
  | invalidation (m : Nat)
  /-- INVALIDATION_ACK (R321). -/
  | invalidationAck (m : Nat)
  /-- UNCACHED_AGENT_READ (R325). -/
  | uncachedAgentRead (m : Nat) (parity : ParityFind)
  /-- UNCACHED_AGENT_WRITE (R325). -/
  | uncachedAgentWrite (m : Nat)
  /-- HOME_ATOMIC (R327). -/
  | homeAtomic (m : Nat)
  /-- FAR_ATOMIC (R328). -/
  | farAtomic (m : Nat)
  /-- L2_FILL (R304). -/
  | l2Fill (m : Nat) (parity : ParityFind)
  /-- WRITE_BACK_ACK (R305). -/
  | writeBackAck (m : Nat)
  /-- RESERVATION_HOLD_EXPIRY (R341). -/
  | reservationHoldExpiry (die : Nat) (hold : Nat)
  /-- MEMORY_READ (R288). -/
  | memoryRead (m : Nat) (o : ReadOutcome)
  /-- PATROL_SCRUB (R289). -/
  | patrolScrub (sector : Nat) (o : ReadOutcome)
  /-- LPDDR_DRIFT_COMPENSATION (R293). -/
  | lpddrDriftCompensation (ch : Nat)
  /-- LPDDR_ONLINE_RETRAIN (R293). -/
  | lpddrOnlineRetrain (ch : Nat)
  /-- LPDDR_RETRAIN_COMPLETE (R293). -/
  | lpddrRetrainComplete (ch : Nat) (ok : Bool)
  /-- LPDDR_TEMPERATURE_READ (R290). -/
  | lpddrTemperatureRead (ch : Nat) (derated : Bool)
  /-- LPDDR_PROBE_COMPLETE (R31). -/
  | lpddrProbeComplete (answers : List ChannelAnswer)
  /-- LPDDR_TRAINING_COMPLETE (R292). -/
  | lpddrTrainingComplete (ch : Nat) (ok : Bool)
  /-- DOORBELL_RING (R429). -/
  | doorbellRing (mark : Mark) (page q : Nat) (v : Word32)
  /-- TAIL_READ_DATA (R380). -/
  | tailReadData (m : Nat)
  /-- COMMAND_READ_DATA (R384). -/
  | commandReadData (m : Nat)
  /-- COMMAND_START (R381). -/
  | commandStart (q j : Nat)
  /-- COMMAND_RETIRE (R385). -/
  | commandRetire (q j : Nat)
  /-- EVENT_RECORD_ACK (R430). -/
  | eventRecordAck (m : Nat)
  /-- LAUNCH (R383). -/
  | launch (q j : Nat)
  /-- COPY (R383). -/
  | copy (q j : Nat)
  /-- MATRIX (R383). -/
  | matrix (q j : Nat)
  /-- ROUTE (R383). -/
  | route (q j : Nat)
  /-- SIGNAL (R354). -/
  | counterSignal (q j : Nat)
  /-- DECREMENT (R354). -/
  | counterDecrement (q j : Nat)
  /-- SET (R354). -/
  | counterSet (q j : Nat)
  /-- RESET (R354). -/
  | counterReset (q j : Nat)
  /-- READ (R354). -/
  | counterRead (q j : Nat)
  /-- MARK (R383). -/
  | markCmd (q j : Nat)
  /-- OBJ_CREATE (R548). -/
  | objCreate (q j : Nat)
  /-- OBJ_CHANGE (R383). -/
  | objChange (q j : Nat)
  /-- OBJ_RETAIN (R372). -/
  | objRetain (q j : Nat)
  /-- OBJ_RELEASE (R372). -/
  | objRelease (q j : Nat)
  /-- CNT_ALLOC (R352). -/
  | cntAlloc (q j : Nat)
  /-- CNT_MAP (R349). -/
  | cntMap (q j : Nat)
  /-- CNT_PAIR (R362). -/
  | cntPair (q j : Nat)
  /-- CNT_RELEASE (R372). -/
  | cntRelease (q j : Nat)
  /-- FENCE_CREATE (R390). -/
  | fenceCreate (q j : Nat)
  /-- FENCE_FAIL (R391). -/
  | fenceFail (q j : Nat)
  /-- FENCE_RELEASE (R393). -/
  | fenceRelease (q j : Nat)
  /-- CTX_CREATE (R134). -/
  | ctxCreate (q j : Nat)
  /-- CTX_DESTROY (R400). -/
  | ctxDestroy (q j : Nat)
  /-- CONTEXT_TEARDOWN_COMPLETE (R400). -/
  | contextTeardownComplete (ctx : Nat)
  /-- QUEUE_CREATE (R383). -/
  | queueCreate (q j : Nat)
  /-- QUEUE_DESTROY (R383). -/
  | queueDestroy (q j : Nat)
  /-- PART_RESET (R398). -/
  | partReset (q j : Nat)
  /-- PARTITION_RESET_COMPLETE (R398). -/
  | partitionResetComplete (part : Nat)
  /-- EPOCH_ADVANCE (R396). -/
  | epochAdvance (unit : EpochUnit)
  /-- SFT_GO (R271). -/
  | sftGo (mark : Mark) (die : Nat) (v : Word32)
  /-- SFT_IMAGE_CHECKED (R271). -/
  | sftImageChecked (die : Nat)
  /-- SFT_PINS_CLEARED (R271). -/
  | sftPinsCleared (die : Nat)
  /-- FLAG_SCAN_START (R254). -/
  | flagScanStart (mark : Mark) (die : Nat) (v : Word32)
  /-- FLAG_SCAN_COMPLETE (R254). -/
  | flagScanComplete (die : Nat)
  /-- FLAG_SET_CLEAR (R252). -/
  | flagSetClear (mark : Mark) (die : Nat) (v : Word32)
  /-- FLAG_CLEAR_ALL (R254). -/
  | flagClearAll (mark : Mark) (die : Nat) (v : Word32)
  /-- L2_LOCK_APPLY (R306). -/
  | l2LockApply (mark : Mark) (die : Nat) (v : Word32)
  /-- L2_CLEAN_RANGE (R308). -/
  | l2CleanRange (mark : Mark) (die : Nat) (v : Word32)
  /-- L2_INVALIDATE_RANGE (R308). -/
  | l2InvalidateRange (mark : Mark) (die : Nat) (v : Word32)
  /-- L2_CLEAN_INVALIDATE_RANGE (R308). -/
  | l2CleanInvalidateRange (mark : Mark) (die : Nat) (v : Word32)
  /-- L2_CLEAN_SET_WAY (R308). -/
  | l2CleanSetWay (mark : Mark) (die : Nat) (v : Word32)
  /-- L2_INVALIDATE_SET_WAY (R308). -/
  | l2InvalidateSetWay (mark : Mark) (die : Nat) (v : Word32)
  /-- L2_CLEAN_INVALIDATE_SET_WAY (R308). -/
  | l2CleanInvalidateSetWay (mark : Mark) (die : Nat) (v : Word32)
  /-- L2_MAINTENANCE_COMPLETE (R309). -/
  | l2MaintenanceComplete (die : Nat) (parityLost : Bool)
  /-- FRAME_IN_EDGE (R535). -/
  | frameInEdge
  /-- FRAME_DOORBELL (R429). -/
  | frameDoorbell (mark : Mark) (v : Word32)
  /-- FRAME_EVENT (R412). -/
  | frameEvent (m : Nat)
  /-- SLOT_FRAME_START (R412). -/
  | slotFrameStart (die : Nat)
  /-- SLOT_BUDGET_EXPIRY (R413). -/
  | slotBudgetExpiry (die : Nat)
  /-- CS_RD (R426). -/
  | csRd (att : Nat) (f : Flit)
  /-- CS_WR (R426). -/
  | csWr (att : Nat) (f : Flit)
  /-- DMA_RD (R427). -/
  | dmaRd (att : Nat) (f : Flit)
  /-- DMA_WR (R426). -/
  | dmaWr (att : Nat) (f : Flit)
  /-- DMA_WRP (R426). -/
  | dmaWrp (att : Nat) (f : Flit)
  /-- DMA_ATOM (R424). -/
  | dmaAtom (att : Nat) (f : Flit)
  /-- CO_RDS (R424). -/
  | coRds (att : Nat) (f : Flit)
  /-- CO_OWN (R424). -/
  | coOwn (att : Nat) (f : Flit)
  /-- CO_WB (R424). -/
  | coWb (att : Nat) (f : Flit)
  /-- CO_EVICT (R424). -/
  | coEvict (att : Nat) (f : Flit)
  /-- SNP_RSP (R424). -/
  | snpRsp (att : Nat) (f : Flit)
  /-- MEM_RDATA (R424). -/
  | memRdata (att : Nat) (f : Flit)
  /-- MEM_WCMP (R424). -/
  | memWcmp (att : Nat) (f : Flit)
  /-- TETHER_RESPONSE_TIMEOUT (R439). -/
  | tetherResponseTimeout
  /-- PROBE_ANSWER (R512). -/
  | probeAnswer (record sig : List Byte)
  /-- PROBE_TIMEOUT (R433). -/
  | probeTimeout
  /-- MBOX_ACK (R434). -/
  | mboxAck
  /-- QUIESCE (R435). -/
  | quiesce
  /-- QUIESCE_DONE (R435). -/
  | quiesceDone
  /-- MODULES_DOWN (R439). -/
  | modulesDown (mask : BitVec 8)
  /-- LINK_TRAINING_COMPLETE (R436). -/
  | linkTrainingComplete (up repaired : BitVec 8)
  /-- ADAPTER_RETRY_THRESHOLD (R438). -/
  | adapterRetryThreshold (module : Nat)
  /-- SIDEBAND_RETRAIN_REQUEST (R438). -/
  | sidebandRetrainRequest (att : Nat)
  /-- RETRAIN (R438). -/
  | linkRetrain (mark : Mark) (v : Word32)
  /-- RETRAIN_COMPLETE (R438). -/
  | retrainComplete (att : Nat) (failed repaired : BitVec 8)
  /-- GLINEN_WR (R455). -/
  | glinenWr (port : Nat) (f : Frame)
  /-- GLINEN_RD (R455). -/
  | glinenRd (port : Nat) (f : Frame)
  /-- GLINEN_ATOM (R455). -/
  | glinenAtom (port : Nat) (f : Frame)
  /-- GLINEN_SIG (R455). -/
  | glinenSig (port : Nat) (f : Frame)
  /-- XWR (R457). -/
  | xwr (port : Nat) (f : Frame)
  /-- XEND (R456). -/
  | xend (port : Nat) (f : Frame)
  /-- TRANSFER_COMPLETE (R456). -/
  | transferComplete (port src xfer : Nat)
  /-- GLINEN_FRAME (R464). -/
  | glinenFrame (port : Nat) (f : Frame)
  /-- LINKCTL (R444). -/
  | linkctl (port : Nat) (f : Frame)
  /-- WACK (R453). -/
  | wack (port : Nat) (f : Frame)
  /-- RDATA (R453). -/
  | rdata (port : Nat) (f : Frame)
  /-- SIGACK (R453). -/
  | sigack (port : Nat) (f : Frame)
  /-- XACK (R458). -/
  | xack (port : Nat) (f : Frame)
  /-- CODEWORD_UNCORRECTABLE (R444). -/
  | codewordUncorrectable (port : Nat)
  /-- PORT_RETRAIN_TRIGGER (R445). -/
  | portRetrainTrigger (port : Nat)
  /-- LANE_LOCK_LOST (R445). -/
  | laneLockLost (port lane : Nat)
  /-- PORT_RETRAIN_COMPLETE (R445). -/
  | portRetrainComplete (port : Nat) (ok : Bool)
  /-- TRAIN (R445). -/
  | portTrain (mark : Mark) (port : Nat) (v : Word32)
  /-- PORT_TRAINING_COMPLETE (R442). -/
  | portTrainingComplete (port : Nat) (ok : Bool)
  /-- ROUTE_TIMEOUT (R461). -/
  | routeTimeout (route : Nat)
  /-- FRAME_AGE_EXPIRY (R462). -/
  | frameAgeExpiry (port m : Nat)
  /-- ENABLE (R462). -/
  | routeEnable (mark : Mark) (pdie : Nat) (v : Word32)
  /-- AVSBUS_SAMPLE (R469). -/
  | avsbusSample (r : RailSample)
  /-- PMBUS_SAMPLE (R469). -/
  | pmbusSample (r : PmbusSample)
  /-- VOLTAGE_STEP (R470). -/
  | voltageStep (rail : Nat) (up : Bool)
  /-- ESTIMATOR_UPDATE (R473). -/
  | estimatorUpdate (e : EstimatorSample)
  /-- POWER_LIMIT_TIMEOUT (R473). -/
  | powerLimitTimeout
  /-- LEVEL_SLOPE_STEP (R475). -/
  | levelSlopeStep (die field : Nat)
  /-- DROOP_TRIP (R476). -/
  | droopTrip (die field : Nat)
  /-- DROOP_CUT_END (R477). -/
  | droopCutEnd (die field : Nat)
  /-- TEMPERATURE_SAMPLE (R482). -/
  | temperatureSample (t : TempSample)
  /-- DRAM_OVERTEMP_EXPIRY (R482). -/
  | dramOvertempExpiry (dram : Nat)
  /-- COOLANT_OK_FALL (R484). -/
  | coolantOkFall
  /-- STOP_COMPLETE (R485). -/
  | stopComplete
  /-- COOLANT_OK_RISE (R531). -/
  | coolantOkRise
  /-- POWER_GOOD_RISE (R531). -/
  | powerGoodRise (pg : Nat)
  /-- POWER_GOOD_FALL (R532). -/
  | powerGoodFall (pg : Nat)
  /-- POWER_GOOD_TIMEOUT (R531). -/
  | powerGoodTimeout (pg : Nat)
  /-- VDD_KEEL_LOSS (R532). -/
  | vddKeelLoss
  /-- RETENTION_ENTER (R487). -/
  | retentionEnter (mark : Mark) (v : Word32)
  /-- RETENTION_ENTERED (R487). -/
  | retentionEntered
  /-- RETENTION_EXIT (R487). -/
  | retentionExit (mark : Mark) (v : Word32)
  /-- RETENTION_EXIT_COMPLETE (R487). -/
  | retentionExitComplete
  /-- RESET_N_RISE (R501). -/
  | resetNRise
  /-- RESET_N_FALL (R534). -/
  | resetNFall
  /-- NVM_IMAGE_READ (R490). -/
  | nvmImageRead (slot : Nat)
  /-- BRIDGE_TEST_COMPLETE (R26). -/
  | bridgeTestComplete (failed : BitVec 4)
  /-- DOMAIN_ON (R466). -/
  | domainOn (d : Nat)
  /-- PARTITION_SCRUB_COMPLETE (R501). -/
  | partitionScrubComplete (part : Nat)
  /-- START_RETRY_TIMER (R502). -/
  | startRetryTimer
  /-- START_TIMEOUT (R498). -/
  | startTimeout
  /-- GET_STATUS (R504). -/
  | getStatus (msg : List Byte)
  /-- NVM_ERASE (R504). -/
  | nvmErase (msg : List Byte)
  /-- NVM_WRITE (R504). -/
  | nvmWrite (msg : List Byte)
  /-- NVM_READ (R504). -/
  | nvmRead (msg : List Byte)
  /-- NVM_VERIFY (R504). -/
  | nvmVerify (msg : List Byte)
  /-- NVM_OPERATION_COMPLETE (R504). -/
  | nvmOperationComplete
  /-- RESTART (R504). -/
  | restart (msg : List Byte)
  /-- COMMIT_SVN (R504). -/
  | commitSvn (msg : List Byte)
  /-- CHALLENGE (R517). -/
  | challenge (msg : List Byte)
  /-- STAGE (R523). -/
  | stage (msg : List Byte)
  /-- TAKE_OWNERSHIP (R506). -/
  | takeOwnership (msg : List Byte)
  /-- RELEASE_OWNERSHIP (R506). -/
  | releaseOwnership (msg : List Byte)
  /-- RETIRE (R507). -/
  | retire (msg : List Byte)
  /-- RAISE_DBG_SVN (R523). -/
  | raiseDbgSvn (msg : List Byte)
  /-- GET_CERT (R510). -/
  | getCert (msg : List Byte)
  /-- DBG_CHALLENGE (R517). -/
  | dbgChallenge (mark : Mark) (v : Word32)
  /-- OPEN (R518). -/
  | dbgOpen (mark : Mark) (v : Word32)
  /-- DEVICE_SESSION_SCRUB_COMPLETE (R520). -/
  | deviceSessionScrubComplete
  /-- TETHER_ZERO_ACK (R520). -/
  | tetherZeroAck (part : Nat)
  /-- TETHER_ZERO_TIMEOUT (R520). -/
  | tetherZeroTimeout
  /-- CLOSE (R521). -/
  | dbgClose (mark : Mark) (v : Word32)
  /-- CLOSE_DEVICE (R521). -/
  | closeDevice (mark : Mark) (v : Word32)
  /-- DBG_QUIESCE (R522). -/
  | dbgQuiesce (mark : Mark) (v : Word32)
  /-- PARTITION_QUIESCED (R522). -/
  | partitionQuiesced (part : Nat)
  /-- DBG_RESUME (R522). -/
  | dbgResume (mark : Mark) (v : Word32)
  /-- ATT_GO (R513). -/
  | attGo (mark : Mark) (v : Word32)
  /-- ATT_REPORT_DONE (R514). -/
  | attReportDone (part : Nat)
  /-- ENTDAA (R537). -/
  | entdaa (addr : BitVec 7)
  /-- SETDASA (R537). -/
  | setdasa (addr : BitVec 7)
  /-- SETNEWDA (R537). -/
  | setnewda (addr : BitVec 7)
  /-- RSTDAA (R537). -/
  | rstdaa
  /-- ENEC (R537). -/
  | enec (events : BitVec 8)
  /-- DISEC (R537). -/
  | disec (events : BitVec 8)
  /-- GETPID (R537). -/
  | getpid
  /-- GETBCR (R537). -/
  | getbcr
  /-- GETDCR (R537). -/
  | getdcr
  /-- GETSTATUS (R537). -/
  | getstatus
  /-- GETMWL (R537). -/
  | getmwl
  /-- GETMRL (R537). -/
  | getmrl
  /-- I3C_PRIVATE_WRITE (R503). -/
  | i3cPrivateWrite (bytes : List Byte)
  /-- REGISTER_WRITE (R13). -/
  | registerWrite (mark : Mark) (addr size : Nat) (v : Word64)
  /-- VDD_KEEL_BRING_UP (R531). -/
  | vddKeelBringUp
  /-- DRIFT_COMPENSATION_COMPLETE (R293). -/
  | driftCompensationComplete (ch : Nat)
  /-- CREDIT_RETURN (R444). -/
  | creditReturn (port vc units : Nat)
  /-- OPEN_CHECKS_COMPLETE (R518). -/
  | openChecksComplete
  deriving DecidableEq, Repr

end Sys2Proof
end

