-- ==== Sys2Proof/Decode.lean ====
section
/-!
DEFINITION. Decode.lean: the command that a word of the table's bits spells. Every row of spec/opcode_table.json has an empty list
of fields: no command is spelt by bits, so every word is rejected.
-/
namespace Sys2Proof

/-- No row of the table gives bits. -/
def decodeTableWord (nbits w : Nat) : Option Instr :=
  match nbits, w with
  | _, _ => none

end Sys2Proof
end

