-- ==== Sys2Proof/Config.lean ====
section
/-!
DEFINITION. Config.lean: what the manual leaves open, as constants with no body (free values), and what one part fixes
at fabrication. A free value is applied to a plain counter of State or to the operands it depends on; nothing can be
proved of its value. Each names the log entry that declares it.
-/
namespace Sys2Proof.Config

/-- Log 7: a free 64-bit value per index (bytes of failed copies, unstated results, random nonces). -/
opaque freeWord : Nat → Word64

/-- Log 6 (02 R37 to R40): beats that a unit of a counter class completes in one keel period. -/
opaque beats : (cls index tick : Nat) → Nat

/-- Log 15 (06 R183, 08 R243): the key by which the additions of one element are ordered. -/
opaque orderKey : (seed i : Nat) → Nat

/-- Log 13 (09 R265): how far shipped table `t` strays from its function at knot `i` of a binade of that function's values. -/
opaque tableKnot : (t : Nat) → (neg : Bool) → (binade : Int) → (i : Nat) → Nat

/-- Log 16 (09 R276, R281): the exponential that the fixed evaluator adds for an S32 element (significand and exponent of a positive
dyadic), where it lies within the bound. -/
opaque rowExp : Word32 → Nat × Int

/-- Log 16 (09 R279): the normalised value e^x / SUM before its final rounding. -/
opaque rowNorm : (x : Word32) → (sumSig : Nat) → (sumExp : Int) → Nat × Int

/-- Log 16 (09 R280): ln SUM before its final rounding: sign, significand, exponent. -/
opaque rowLog : (sumSig : Nat) → (sumExp : Int) → Bool × Nat × Int

/-- Log 16 (09 R282, R283): a row statistic before its final rounding, from the mode (5 mean, 6 variance, 7 RMS),
S1, S2 as dyadics and CNT: sign, significand, exponent. -/
opaque rowStat : (mode : Nat) → (s1 : Int × Int) → (s2 : Int × Int) → (cnt : Nat) → Bool × Nat × Int

/-- Log 16 (07 R216, 08 R243): a routing weight under NORM 1 or 2, S32, from the chosen score and the scores it is divided
over; `seed` is new for each token of each run, because the order of the additions is open. -/
opaque routeWeight : (seed : Nat) → (score : Word32) → (scores : List Word32) → Word32

/-- Log 62 (10 R300): the row of a partition's line in a memory channel. -/
opaque rowOf : (channel part line : Nat) → Nat

/-- Log 61 (05 R139, R145, 10 R311): whether an error strikes the check bits of local memory (0), an L1 (1), an L2 (2) or an eviction
buffer (3) in a keel period, and where. -/
opaque upset : (where_ tick : Nat) → Option Nat

/-- Log 29 (04 R100): the result of a shift, OPC `op`, by 32 or more. -/
opaque wideShift : (op a b : Nat) → Word32

/-- Log 28 (04 R90): the predicate bit that a value above 1 becomes. -/
opaque predBit : (v : Nat) → Bool

/-- Log 17: the core, of `count` cores, that takes block `b` of a LAUNCH. -/
opaque blockCore : (seed b : Nat) → Nat

/-- Log 73 (19 R508): the fused unique device secret, 32 bytes; nothing reads it. -/
opaque uds : List Byte

/-- Log 73 (19 R505): the key that an image or a token in PROVISIONED is checked with, fused as its digest. -/
opaque provisioningImageKey : List Byte

/-- Log 73 (19 R505): the provisioning debug key. -/
opaque provisioningDebugKey : List Byte

/-- Log 8 (19 R510): the certificate chain that Krovosa writes at provisioning. -/
opaque certChain : List Byte

/-- Log 8 (20 R537): the fused serial number of the provisional ID. -/
opaque serial : Word32

/-- Log 21 (20 R537): what GETBCR, GETDCR and GETSTATUS return: the manual names the commands and no values. -/
opaque i3cCharacteristic : Nat → Word16

end Sys2Proof.Config
end

