-- ==== Sys2Proof/Machine/State.lean ====
section
/-!
DEFINITION. State.lean: every piece of state that the manual gives the device, as plain data, the reasons a step can
stop, and the state right after reset. The keel die (with the board's pins, the fuses and the NVM) is `Keel`; the sail
dies, the port dies, the tether link and the device tables are `Fab`.
-/
namespace Sys2Proof.Machine

/-- Why the model stops. -/
inductive Fault where
  /-- Raised by AVSBUS_SAMPLE and TEMPERATURE_SAMPLE on a reading beyond the absolute maximum ratings of 20 R540, where
  20 R541 says that no rule holds and the behaviour is not defined. Safe: the model stops where the device is undefined. -/
  | beyondAbsoluteMaximum
  deriving DecidableEq, Repr

/-- Why the model gives a command no meaning. -/
inductive Refusal where
  /-- Raised by an arm of `exec` that has no meaning yet. Safe: nothing can be proved of such a command. -/
  | notModelled (mnemonic : String)
  deriving DecidableEq, Repr

/-! ### Fuses, NVM and the bound image -/

/-- The four part numbers (00 R2). -/
inductive Variant where
  | kx7240 | kx7240O | kx7240N | kx7220
  deriving DecidableEq, Repr

/-- One owner slot of the keel fuses (19 R506). -/
structure OwnerSlot where
  imageKey : List Byte
  debugKey : List Byte
  deriving DecidableEq, Repr

/-- The fuses, which keep their values without power. `energy` are the energies fused at test per sail die (17 R472): of a working array beat of
each format class 0 to 3, of a ballast beat, of a vector issue and of a beat of memory traffic, in pJ. -/
structure Fuses where
  variant    : Variant
  lifecycle  : Nat
  slots      : List OwnerSlot
  activeSlot : Nat
  dbgMin     : Nat
  minSvn     : Nat
  spares     : Table (BitVec 28)
  energy     : List (List Nat)
  deriving DecidableEq, Repr

/-- The configuration NVM on the board (18 R489): present or not, its size and its bytes (erased bytes unlisted). -/
structure Nvm where
  answers : Bool
  size    : Nat
  cells   : List Host.Cell
  deriving DecidableEq, Repr

/-- A partition record (18 R494). -/
structure PartRec where
  configured : Bool
  nmUnits : Nat
  depth : Nat
  lpdMask : Nat
  lpdUnits : Nat
  l2Ways : Nat
  tetherBytes : Nat
  adminCtx : Nat
  adminQueue : Nat
  adminSlot : Nat
  adminKind : Nat
  adminPrio : Nat
  adminOff : Nat
  adminVcount : Nat
  deriving DecidableEq, Repr

/-- The cyclic schedule section (18 R493, 14 R411). -/
structure SchedCfg where
  src   : Nat
  port  : Nat
  slots : List Word32
  deriving DecidableEq, Repr

/-- A special-function table section (18 R493). -/
structure SftCfg where
  table : Nat
  owner : Nat
  owned : Bool
  image : Option (List Byte)
  deriving DecidableEq, Repr

/-- The Glinen route tables section (18 R493, 16 R446). -/
structure RouteCfg where
  self     : Nat
  hopLimit : Nat
  frameFwd : Nat
  origin   : List Word64
  inputs   : List (List Word64)
  pairs    : List Word64
  deriving DecidableEq, Repr

/-- One core rail of the power-limits section (18 R495). -/
structure RailCfg where
  vMin : Nat
  vMax : Nat
  vTarget : Nat
  droopMv : Nat
  deriving DecidableEq, Repr

/-- The power-limits section with its defaults applied (18 R495). -/
structure PowerCfg where
  pcapSust : Nat
  pcapTrans : Nat
  transTime : Nat
  slopeStep : Nat
  tHot : Nat
  dramHot : Nat
  parked : Nat
  gapLen : Nat
  fraction : Nat
  rails : List RailCfg
  deriving DecidableEq, Repr

/-- A blob of an autonomous program (18 R496). -/
structure Blob where
  kind  : Nat
  off   : Nat
  bytes : List Byte
  deriving DecidableEq, Repr

/-- An autonomous program section (18 R496). -/
structure Program where
  number : Nat
  part   : Nat
  blobs  : List Blob
  cmds   : List (List Byte)
  starts : List (Nat × List (List Byte))
  deriving DecidableEq, Repr

/-- The image bound to the device until the next start (18 R500), its sections parsed. -/
structure Image where
  slot : Nat
  seq : Nat
  svn : Nat
  mImage : List Byte
  mPtab : List Byte
  lpdRate : Nat
  partIx : Nat
  reserves : List (Nat × Nat)
  parts : List PartRec
  localUnits : Table Nat
  l1Ways : Table Nat
  sched : Option SchedCfg
  sft : List SftCfg
  routes : Option RouteCfg
  power : PowerCfg
  resload : List Word64
  programs : List Program
  deriving DecidableEq, Repr

/-! ### The keel die -/

/-- KEEL_BOOT_CAUSE, KEEL_BOOT_IMAGE, KEEL_BOOT_SVN, KEEL_READY, KEEL_READY_PART, KEEL_PART_CAUSE (18). -/
structure Boot where
  fails : Nat
  moored : Bool
  slot : Nat
  slotValid : Bool
  fallback : Bool
  code : Nat
  sectionIx : Nat
  detail : Nat
  altCode : Nat
  seq : Nat
  svn : Nat
  device : Bool
  imageOk : Bool
  portDie : BitVec 2
  mem : BitVec 4
  compute : BitVec 12
  ready : Word16
  failed : Word16
  partCause : Table (Nat × Nat)
  deriving DecidableEq, Repr

/-- The start in progress (18 R501, R502): which of its parts have ended. `retryAt` is when a start failed that is to be begun anew, `probedAt` when
PROBE was sent, and `asked` when each rail was requested on. -/
structure Start where
  running : Bool
  retryAt : Option Nat
  began : Nat
  tried : List Nat
  firstFail : Option Nat
  imageDone : Bool
  probeDone : Bool
  linkDone : Bool
  bridgesDone : Bool
  lpdDone : Bool
  probedAt : Nat
  asked : Table Nat
  interrupted : Bool
  deriving DecidableEq, Repr

/-- One core rail (17 R469, R470, R480). `due` is a voltage step that waits to be sent, up or down, `stepAt` when the last one was sent. -/
structure Rail where
  reqMv : Nat
  voutMv : Nat
  ioutA : Nat
  est : Bool
  due : Option Bool
  stepAt : Option Nat
  badReads : Nat
  goodReads : Nat
  outOfRange : Nat
  deriving DecidableEq, Repr

/-- One compute domain's actuator (17 R473 to R477): the target as each rule lowered it (the lowest wins, R488), its
level, droop cut and detector trips. -/
structure Level where
  tPower : Nat
  tSail : Nat
  tDram : Nat
  level : Nat
  cut : Bool
  droops : Nat
  lastCut : Option Nat
  deriving DecidableEq, Repr

/-- The power manager (17). `dramOver` holds the DRAM dies that read above 95 °C, each with the time since when; `pmbus` holds what PMBus last read of each rail, `seen` the activity that the last estimator update counted. -/
structure Power where
  state : Nat
  on : BitVec 20
  measW : Nat
  trackW : Nat
  aboveUs : Nat
  meanW : Nat
  history : List Nat
  estAtSample : List Nat
  estNow : List Nat
  worth : Nat
  rails : Table Rail
  pmbus : List (Option PmbusRead)
  seen : List (List Nat)
  fixedW : List Nat
  fixedBad : List Nat
  levels : Table Level
  diverge : Nat
  agree : Nat
  doubled : Bool
  sailT : Table (Nat × Nat × Nat)
  dramT : Table Nat
  sailHot : BitVec 4
  dramHot : BitVec 24
  raised : Bool
  dramDouble : BitVec 24
  dramOver : Table Nat
  event : BitVec 8
  alertEn : BitVec 8
  stopValid : Bool
  stopOthers : BitVec 6
  stopCause : Nat
  stopping : Bool
  ctrlErr : Bool
  retention : Nat
  vMinSince : Option Nat
  deriving DecidableEq, Repr

/-- A lifecycle operation accepted and not yet in effect (19 R507). -/
inductive PendOp where
  | takeOwnership (s : OwnerSlot)
  | releaseOwnership
  | retire
  deriving DecidableEq, Repr

/-- One attestation bank (19 R513). -/
structure AttBank where
  nonce : List Byte
  busy : Bool
  done : Bool
  err : Bool
  result : Nat
  report : List Byte
  deriving DecidableEq, Repr

/-- An OPEN whose checks run (19 R518). -/
structure OpenReq where
  level : Nat
  part : Nat
  tsvn : Nat
  result : Nat
  deriving DecidableEq, Repr

/-- Identity, attestation and debug access (19). `voided` are the nonces that later challenges replaced, until an OPEN (R525); `zeroAt` is when the
tether die was asked to zero its carve-outs. `devStep` is the step of R520: 0 none, 1 resets and scrub, 4 tether. -/
structure Sec where
  pend : Option PendOp
  deviceId : List Byte
  mImage : List Byte
  mPtab : List Byte
  mTether : List Byte
  measDigest : Nat
  measWord : Nat
  nonce : Option (List Byte)
  voided : List (List Byte)
  resp : Table Word64
  busy : Bool
  err : Bool
  result : Nat
  part : Nat
  openReq : Option OpenReq
  psess : Word16
  device : Bool
  pTsvn : Table Nat
  dTsvn : Nat
  quiesced : Word16
  heldByPart : Word16
  heldByDev : Word16
  devStep : Nat
  zeroWait : Word16
  zeroAt : Nat
  pdebug : Word16
  ddebug : Bool
  att : Table AttBank
  staging : List Byte
  probeNonce : List Byte
  deriving DecidableEq, Repr

/-- The partitions that a session has quiesced (19 R522). -/
def Sec.held (s : Sec) : Word16 := s.heldByPart ||| s.heldByDev

/-- The I3C target (20 R537, 18 R503). -/
structure I3c where
  dyn : Option (BitVec 7)
  ibi : Bool
  addr : Nat
  deriving DecidableEq, Repr

/-- What the keel has sent. `nvmReset` is a low pulse of NVM_RST_N, `nvmRst` a new level of it (20 R534), and `i3cAck` the acknowledgement of a
static address (20 R537). `mbox` is an answer over the mailbox, `mboxToTether` a message of the keel's own, `mboxAck` the acknowledgement of a
message received (15 R434). -/
inductive KeelOut where
  | ibi (b : Byte)
  | i3c (bytes : List Byte)
  | mbox (bytes : List Byte)
  | mboxAck
  | mboxToTether (bytes : List Byte)
  | probe (nonce : List Byte)
  | quiesceDone
  | railOn (rail : Nat)
  | railOff (rail : Nat)
  | setVoltage (rail mv : Nat)
  | nvmReset
  | nvmRst (high : Bool)
  | i3cAck (addr : BitVec 7)
  deriving DecidableEq, Repr

/-- The last fall of RESET_N while it is low (20 R536): its time, and whether it ended a start. -/
structure ResetFall where
  time : Nat
  running : Bool
  deriving DecidableEq, Repr

/-- The keel die, the board's pins, the fuses and the NVM. `time` counts the periods of the keel oscillator (02 R42). `mboxOut` says that a message
of the keel's awaits its MBOX_ACK, `mboxWait` holds the ones behind it, `nvmReply` the answer to an NVM operation that runs, over I3C or not. -/
structure Keel where
  on : Bool
  time : Nat
  resetN : Bool
  resetFall : Option ResetFall
  coolantOk : Bool
  pg : BitVec 8
  railReq : BitVec 8
  addrSel : Nat
  fuse : Fuses
  nvm : Nvm
  boot : Boot
  start : Start
  image : Option Image
  lpddrDone : Bool
  tetherDone : Bool
  tetherKind : Nat
  chan : Word32
  power : Power
  sec : Sec
  i3c : I3c
  mboxOut : Bool
  mboxWait : List KeelOut
  nvmReply : Option (Bool × List Byte)
  frameSlot : Nat
  accepted : Nat
  merged : Nat
  unselected : Nat
  lastFrame : Option Nat
  out : List KeelOut
  deriving DecidableEq, Repr

/-! ### Device tables (13, 12) -/

/-- The reference word of an object, EPOCH apart (13 R371). -/
structure Ref where
  host : Nat
  dev : Nat
  dying : Bool
  deriving DecidableEq, Repr

/-- The kinds of object that carry a reference word, coded as DETAIL of an event of TYPE 5 (13 R387). -/
inductive ObjKind where
  | context | queue | memory | counter | fence
  deriving DecidableEq, Repr

/-- A memory object slot entry (05 R128) with the context that owns it. -/
structure MemObj where
  part : Nat
  kind : Nat
  base : Nat
  len : Nat
  c : Bool
  a : Bool
  x : Bool
  w : Bool
  r : Bool
  kdata : Word64
  owner : Nat
  ref : Ref
  deriving DecidableEq, Repr

/-- An event record, SEQ apart (13 R387). -/
structure Event where
  ty : Nat
  part : Nat
  ctx : Nat
  tag : Nat
  source : Nat
  code : Nat
  detail : Word64
  die : Nat
  deriving DecidableEq, Repr

/-- One local-memory share of a context on a core, in 16 KiB units of the core's local memory (05 R134). -/
structure Share where
  core : Nat
  first : Nat
  units : Nat
  deriving DecidableEq, Repr

/-- A teardown in progress (13 R400): the mode, who asked, its TAG, the die of its command's queue, whether the context's work is stopped
(step 2), and whether all but the epochs is done (step 6). -/
structure Teardown where
  abort : Bool
  requester : Nat
  tag : Nat
  die : Nat
  stopped : Bool
  released : Bool
  deriving DecidableEq, Repr

/-- A context (13 R370, R387, 12 R348). `holds` are the host references of creation, `retained` those of OBJ_RETAIN (13 R372). -/
structure Ctx where
  part : Nat
  vcount : Nat
  admin : Bool
  handler : Bool
  evRing : Word64
  evEntries : Nat
  evWrite : Nat
  evLost : Nat
  evSeq : Nat
  evRead : Nat
  evAcked : Nat
  evHeld : List (Nat × Event)
  evSync : Nat
  shares : List Share
  holds : List (ObjKind × Nat)
  retained : List (ObjKind × Nat)
  ref : Ref
  ending : Option Teardown
  deriving DecidableEq, Repr

/-- How far a command of a queue has come (13 R381, R384, R385). `fetching`: the lists or the descriptor that its payload names
are read; `checking`: its engine makes the checks of its descriptor. -/
inductive CmdStage where
  | fetching
  | checking
  | accepted
  | waiting
  | started
  | working
  | acted (code : Nat)
  deriving DecidableEq, Repr

/-- An accepted command. `sigOk` says that check 1 passed, `refs` the device references it took. -/
structure QCmd where
  bytes : List Byte
  stage : CmdStage
  sigOk : Bool
  refs : List (ObjKind × Nat)
  left : Nat
  deriving DecidableEq, Repr

/-- A queue (13 R379 to R381, 15 R429). `tailRead`: a read of TAIL waits to be issued or is under way; `limit`: the TAIL up to which a
context that drains has its commands accepted (13 R400). -/
structure Queue where
  ctx : Nat
  part : Nat
  cls : Nat
  admin : Bool
  prio : Nat
  unit : Nat
  die : Nat
  ring : Word64
  entries : Nat
  head : Nat
  retired : Nat
  tail : Nat
  state : Nat
  abort : Nat
  tailRead : Bool
  reading : Bool
  held : Bool
  limit : Option Nat
  cmds : Table QCmd
  ref : Ref
  deriving DecidableEq, Repr

/-- A waiter of a counter (12 R358, R368). `wslot` is WSLOT of SYNC_DBG_WAITER. -/
structure Waiter where
  isQueue : Bool
  ctx : Nat
  wslot : Nat
  n : Nat
  deriving DecidableEq, Repr

/-- LAST of a counter (12, SYNC_DBG_LAST). -/
structure LastOp where
  kind : Nat
  ctx : Nat
  unit : Nat
  sub : Nat
  slot : Nat
  source : Nat
  deriving DecidableEq, Repr

/-- A physical counter (12 R352). -/
structure Counter where
  value : Nat
  err : Nat
  errCount : Nat
  owner : Nat
  ctx : Nat
  paired : Bool
  consumer : Bool
  partner : Nat
  bound : Nat
  partnerSeen : Nat
  cwait : List Waiter
  owait : List Waiter
  last : LastOp
  ref : Ref
  deriving DecidableEq, Repr

/-- A partition's autonomous programs in progress (18 R497): the program by its place among the partition's, its phase, the
writes still to be acknowledged, the ring positions of the commands fed, how many have retired, the next start block, and the
first failure (instance and entry). -/
structure ProgState where
  at_ : Nat
  phase : Nat
  left : Nat
  slots : List Nat
  retired : Nat
  start : Nat
  failed : Option (Nat × Nat)
  deriving DecidableEq, Repr

/-- A fence record (13 R388, R389). `notifying`: its write of NOTIFY is under way (13 R390). -/
structure Fence where
  event : Bool
  part : Nat
  owner : Nat
  phys : Nat
  target : Nat
  errword : Word64
  notifying : Bool
  notify : Word64
  watchEn : Bool
  watch : Nat
  ref : Ref
  deriving DecidableEq, Repr

/-- A role epoch (13 R394, R396): its value, when it last advanced, and whether an advance is due. -/
structure Epoch where
  value : Nat
  lastAt : Option Nat
  due : Bool
  deriving DecidableEq, Repr

/-! ### Memory: places, lines, caches (05, 10, 11) -/

/-- A resolved place in memory: kind, partition and carve-out offset; for kind 2 the core and local address; for kind 4
the peer slot data and the offset in the object (05 R129, R544). -/
structure Loc where
  kind : Nat
  part : Nat
  off : Nat
  core : Nat
  kdata : Word64
  c : Bool
  deriving DecidableEq, Repr

/-- A 128-byte line of kind 0 or 1 (or of kind 3 in the tether die's cache). -/
structure Line where
  kind : Nat
  part : Nat
  idx : Nat
  deriving DecidableEq, Repr

/-- Line states (11 R318); I is the absence of a copy. -/
inductive LState where
  | S | E | M | O
  deriving DecidableEq, Repr

/-- The contents of a line in a cache or on its way: bytes, and a bit per 32-byte sector for valid, dirty, poisoned. -/
structure LineData where
  bytes : List Byte
  valid : BitVec 4
  dirty : BitVec 4
  poison : BitVec 4
  deriving DecidableEq, Repr

/-- A copy in an L2 (10 R303). `flaw` is what its next parity check finds (10 R311). -/
structure L2Copy where
  die : Nat
  slice : Nat
  set_ : Nat
  way : Nat
  line : Line
  st : LState
  d : LineData
  use : Nat
  prefetched : Bool
  flaw : ParityFind
  deriving DecidableEq, Repr

/-- An eviction-buffer entry (10 R305), with the state that the line had and whether its next parity check finds an error. -/
structure Evicting where
  die : Nat
  slice : Nat
  line : Line
  st : LState
  d : LineData
  flaw : Bool
  dirtyLine : Bool
  issued : Bool
  deriving DecidableEq, Repr

/-- A way that a line in a locked way is fetched into again (10 R313). -/
structure Refetch where
  die : Nat
  slice : Nat
  set_ : Nat
  way : Nat
  line : Line
  deriving DecidableEq, Repr

/-- The arbiter of a memory channel (10 R300): the partition that it serves, its grants in this turn, the open row, and, by partition, the grants
in a row that went ahead of an older request of it. -/
structure Arbiter where
  part : Nat
  grants : Nat
  row : Option Nat
  ahead : Table Nat
  deriving DecidableEq, Repr

/-- A line of an L1 (05 R142); `bad` marks the sectors whose parity is bad (05 R145). -/
structure L1Line where
  core : Nat
  part : Nat
  line : Line
  way : Nat
  valid : BitVec 4
  bytes : List Byte
  use : Nat
  bad : BitVec 4
  deriving DecidableEq, Repr

/-- A prefetch stream of a request-port slice (10 R307). -/
structure Stream where
  die : Nat
  slice : Nat
  unit : Nat
  objSlot : Nat
  last : Nat
  stride : Int
  run : Nat
  use : Nat
  deriving DecidableEq, Repr

/-- Where an acknowledgement of a write goes (05 R155). `home` marks a write that a line's home makes to memory. -/
inductive AckSink where
  | store (core sub entry : Nat)
  | copy (cluster desc : Nat)
  | route (cluster run : Nat)
  | dma (att tag : Nat)
  | glinen (port : Nat) (req : Frame)
  | xfer (port src id : Nat)
  | event (ctx write die : Nat)
  | notify (fence epoch die : Nat)
  | program (part : Nat)
  | cmd (q j : Nat)
  | cond (load piece : Nat)
  | home
  | none
  deriving DecidableEq, Repr

/-- A write by an agent without cache, inside one line (11 R325): bytes from `loc`, `none` where the mask is 0. -/
structure AgentWrite where
  loc : Loc
  bytes : List (Option Byte)
  hint : Nat
  target : Nat
  sink : AckSink
  deriving DecidableEq, Repr

/-- Where an atomic's old value goes. -/
inductive AtomicSink where
  | load (load piece : Nat)
  | dma (att tag : Nat)
  | glinen (port : Nat) (req : Frame)
  deriving DecidableEq, Repr

/-- An atomic on its way (11 R327): the OPC of 04 R100, the operand and, for `atom.cmpx`, the new value; `who` is the group and
lane whose it is. -/
structure AtomicReq where
  loc : Loc
  op : Nat
  size : Nat
  a : Word128
  b : Word128
  who : Option (Nat × Nat)
  sink : AtomicSink
  deriving DecidableEq, Repr

/-- Where the data of a read by an agent without cache goes. -/
inductive ReadSink where
  | tail (q : Nat)
  | command (q j : Nat)
  | evRead (ctx : Nat)
  | copy (cluster desc step : Nat)
  | dma (att tag : Nat)
  | glinen (port : Nat) (req : Frame)
  | maint (die : Nat) (line : Line)
  | sft (die id : Nat)
  | route (cluster run code : Nat)
  deriving DecidableEq, Repr

/-- One part of a read, inside one line. -/
structure ReadPart where
  loc : Loc
  len : Nat
  data : Option (List Byte)
  fault : Nat
  deriving DecidableEq, Repr

/-- A read by an agent without cache, in parts; `die` is where its unit is. -/
structure ReadJob where
  sink : ReadSink
  die : Nat
  parts : List ReadPart
  deriving DecidableEq, Repr

/-- A request at a home slice (11 R321, R325, R327). Agents 0 to 3 are the die L2s, 4 the tether die. -/
inductive HomeReq where
  | read (agent : Nat)
  | own (agent : Nat) (forStore : Bool)
  | write (w : AgentWrite)
  | readOnce (job part : Nat)
  | atomic (a : AtomicReq)
  | far (a : AtomicReq)
  | cond (gid lane load piece : Nat) (w : AgentWrite)
  | evict
  deriving DecidableEq, Repr

/-- A transaction in progress on a line: the request, the acknowledgements it waits for, the data gathered, and whether
memory has been asked. `fwd` marks a forward whose notification is awaited. -/
structure Txn where
  req : HomeReq
  acks : List Nat
  got : Option LineData
  fwd : Bool
  mem : Bool
  deriving DecidableEq, Repr

/-- A directory entry (11 R319). -/
structure DirEntry where
  line : Line
  home : Nat
  slice : Nat
  set_ : Nat
  present : BitVec 5
  owner : Option Nat
  slices : Table Nat
  use : Nat
  txn : Option Txn
  deriving DecidableEq, Repr

/-- Why a memory controller reads. -/
inductive MemWhat where
  | fill (agent : Nat) (st : LState)
  | txn
  | job (job part : Nat)
  | piece (load piece : Nat)
  deriving DecidableEq, Repr

/-- A reservation of a lane (04 R117, 11 R341, R342). -/
structure Resv where
  gid : Nat
  lane : Nat
  loc : Loc
  gran : Nat
  granule : Bool
  use : Nat
  deriving DecidableEq, Repr

/-- A loop-mode hold of a line against ownership requests (11 R341). -/
structure Hold where
  id : Nat
  die : Nat
  line : Line
  deriving DecidableEq, Repr

/-- The failed attempts of a lane's conditional stores on a line since one of any lane succeeded there (04 R119, 11 R341). -/
structure CondFail where
  gid : Nat
  lane : Nat
  line : Line
  n : Nat
  deriving DecidableEq, Repr

/-- An LPDDR6 channel (10, LPD_CH_STATUS and LPD_CH_ERR); `ues` holds the times of its last uncorrectable link errors. -/
structure Chan where
  trained : Bool
  failed : Bool
  retraining : Bool
  ranks : Nat
  cap : Nat
  rate : Nat
  derated : Bool
  paused : Bool
  linkCe : Nat
  linkUe : Nat
  poisoned : Nat
  retrains : Nat
  ues : List Nat
  deriving DecidableEq, Repr

/-- The memories and caches. `softWords` are local-memory words with a single-bit error and `locCe` the errors corrected, by core (05
R139); `l1Bad` counts L1 parity events by core (05 R145); `fatal` lists the partitions whose reset a lost line has made due, `lost` the
lost lines (10 R312, R313); `arrived` holds the requests that wait at the homes, in arrival order (11 R322). -/
structure Mem where
  nm : List Host.Cell
  lpd : List Host.Cell
  loc : List Host.Cell
  poison : List Nat
  badWords : List Nat
  locCe : Table Nat
  softWords : List Nat
  l1Bad : Table Nat
  fatal : List Nat
  lost : List Line
  refetch : List Refetch
  arrived : List Nat
  arb : Table Arbiter
  l2 : List L2Copy
  evb : List Evicting
  l1 : List L1Line
  dir : List DirEntry
  streams : List Stream
  locks : Table Word16
  resv : List Resv
  holds : List Hold
  failedLane : List CondFail
  chans : Table Chan
  use : Nat
  deriving DecidableEq, Repr

/-! ### Cores (03, 04, 09) -/

/-- The engine kinds that take descriptors (04 R102). -/
inductive EngKind where
  | matrix | copy | routing
  deriving DecidableEq, Repr

/-- What a path does once the fence it waits in holds (04 R94, R114, R123): nothing more, a counter operation, the sending of
a descriptor that lies at a local address, or the release of locks. -/
inductive After where
  | next
  | count (phys n : Nat) (set_ : Bool)
  | launch (e : EngKind) (addr : Word64) (at_ : Nat)
  | unlock (lanes : List (Nat × Word64 × Loc))
  deriving DecidableEq, Repr

/-- The state of a convergence-table entry (03 R67, R68), with what a waiting path waits for: a free wait slot, the release
of a wait slot, the answer of `cnt.rd`, a fence, a block barrier, a lock. -/
inductive PathState where
  | running
  | ready
  | waitSlot (phys : Nat) (consume : Bool) (n pred scope : Nat) (act : Word32)
  | waitCounter (slot : Nat)
  | waitRead (reg scope : Nat)
  | waitFence (scope kind : Nat) (after : After)
  | waitBarrier (n : Nat)
  | waitLock (locs : List Loc)
  | arrived
  deriving DecidableEq, Repr

/-- A path entry of a convergence table. `joins` lists the join addresses in force, innermost first. -/
structure Path where
  pc : Word64
  mask : Word32
  joins : List Word64
  st : PathState
  back : Nat
  deriving DecidableEq, Repr

/-- A number of the extended format or of the row format (08 R239, 09 R275), or any exact dyadic: sign, significand and
exponent (the value is ±sig × 2^exp; sig 0 is a signed zero). -/
inductive Num where
  | nan
  | inf (neg : Bool)
  | fin (neg : Bool) (sig : Nat) (exp : Int)
  deriving DecidableEq, Repr

/-- The row state of a group slot (09 R274). The model also keeps the exact sums that the bounds of 09 R281 and R283 are measured from:
of the exponentials, the elements, their squares and their magnitudes (log 16). -/
structure RowState where
  sum : Num
  s1 : Num
  s2 : Num
  exactSum : Num
  exact1 : Num
  exact2 : Num
  exactAbs : Num
  cnt : Nat
  live : Nat
  dead : Word32
  deriving DecidableEq, Repr

/-- Whether a group runs, parks or is parked (03 R77). -/
inductive ParkState where
  | running
  | parking
  | parked
  deriving DecidableEq, Repr

/-- A wait slot of a group (12 R358): the counter, the predicate to write and the scope of the acquire. -/
structure WaitSlot where
  phys : Nat
  consume : Bool
  pred : Nat
  scope : Nat
  act : Word32
  deriving DecidableEq, Repr

/-- A lane's store that waits for a free entry of the store buffer (11 R337); one to a door takes an entry of its own (16 R454). -/
structure LaneStore where
  lane : Nat
  slot : Nat
  loc : Loc
  bytes : List Byte
  deriving DecidableEq, Repr

/-- Where an instruction stands: its path's entry, its address, the lanes of the path, those of them that it is executed for, whether it
has been fetched (before that its guard is not known), and the join addresses in force. -/
structure Stand where
  key : Nat
  pc : Word64
  mask : Word32
  act : Word32
  fetched : Bool
  joins : List Word64
  deriving DecidableEq, Repr

/-- A resident group (03 R54, R58, R82; 04 R99). `faultAt` is where the faulting instruction stood; `replay` holds the lanes that a
replayed instruction is executed for until it issues (03 R80). -/
structure Group where
  part : Nat
  ctx : Nat
  level : Nat
  block : Nat
  gib : Nat
  blockIx : Nat
  nregs : Nat
  vreg : Cells 32
  ureg : Cells 32
  preg : Cells 32
  paths : Table Path
  gstatus : Word32
  row : RowState
  park : ParkState
  parkCount : Nat
  faultCode : Nat
  faultAddr : Word64
  faultLanes : Word32
  faultPc : Word64
  faultAt : Stand
  replay : Option Word32
  cmdErr : Bool
  waits : Table WaitSlot
  unstored : List LaneStore
  killed : Bool
  deriving DecidableEq, Repr

/-- A block (03 R54 to R57) or a block that waits to become resident: the command that launched it, its shape, its
slice and its barrier arrivals. -/
structure Block where
  q : Nat
  j : Nat
  core : Nat
  ix : Nat
  ngroups : Nat
  nregs : Nat
  slice : Nat
  sliceAt : Nat
  ctx : Nat
  part : Nat
  level : Nat
  entry : Word64
  args : List Byte
  gids : List Nat
  killed : Bool
  deriving DecidableEq, Repr

/-- A store-buffer entry (11 R337): its line, byte mask and bytes, the object slot of its first store, where it stands, and whether it holds a
store to a door (16 R454). -/
structure SbEntry where
  id : Nat
  gid : Nat
  slot : Nat
  loc : Loc
  bytes : List (Option Byte)
  closed : Option Nat
  issued : Bool
  done : Bool
  door : Bool
  deriving DecidableEq, Repr

/-- One lane's access of a pending load or atomic; `stamp` orders its asking among the invalidations of its line (11 R324). -/
structure Piece where
  lane : Nat
  addr : Word64
  loc : Loc
  size : Nat
  asked : Bool
  stamp : Nat
  data : Option (List Byte)
  fault : Nat
  deriving DecidableEq, Repr

/-- What an access that answers later does with its answer: it writes registers (a load, an atomic, a reserved load), writes
one flag (st.cond), or decides a lock (04 R122, R123). -/
inductive LoadKind where
  | plain | atomic | res | cond | lock | unlock
  deriving DecidableEq, Repr

/-- An access whose answer has not been written (05 R145). `operands` are those of an atomic or of a conditional store, per lane;
`stand` is where it was issued. -/
structure Load where
  gid : Nat
  part : Nat
  kind : LoadKind
  dst : Nat
  scope : Nat
  op : Nat
  far : Bool
  operands : List (Word128 × Word128)
  pieces : List Piece
  stand : Stand
  deriving DecidableEq, Repr

/-! ### Engines (05, 06, 07) -/

/-- Who issued a descriptor. -/
inductive EngSrc where
  | group (gid : Nat)
  | command (q j : Nat)
  | routing (cluster run expert : Nat)
  deriving DecidableEq, Repr

/-- What an element's accumulator holds (08 R239 to R243): its initial value, the products that await their addition in an
order the manual leaves open, and for integer operands the exact integer. -/
structure Acc where
  c : Num
  ps : List Num
  i : Int
  deriving DecidableEq, Repr

/-- An entry of an array's queue (06 R159): the captured bytes, whose it is, and its progress: next fold step, block
accumulators while it is open. -/
structure MxEntry where
  id : Nat
  src : EngSrc
  ctx : Nat
  part : Nat
  level : Nat
  bytes : List Byte
  refs : List (ObjKind × Nat)
  addr : Word64
  stamp : Nat
  accepted : Bool
  bank : Nat
  step : Nat
  isOpen : Bool
  acc : Table Acc
  decoded : Bool
  finished : Bool
  fault : Nat
  phys : Nat
  base : Nat
  ameta : List Byte
  bmeta : List Byte
  deriving DecidableEq, Repr

/-- A matrix array: queue, step in progress, shape of the last step, gap with the ballast beats counted in it (06 R176, R179, R186 to R188). -/
structure MxArray where
  queue : List MxEntry
  cur : Option Nat
  bubble : Option Nat
  last : Option (Nat × Nat)
  lastCtx : Table Nat
  inGap : Bool
  gapBeats : Nat
  ramp : Option Nat
  ballast : Bool
  sel : Nat
  deriving DecidableEq, Repr

/-- A descriptor of a copy engine and its progress. Until it is accepted, `step` is the phase of its acceptance. `phys`, the
places and `room`, `outRoom` (bytes of their objects from SRC and OUT_META on) are as its checks found them, once (05 R132); `auxBytes` is
what the engine has read at AUX at acceptance, `index` the indices of a gather's second reading by row (05 R545), `marks` the output tiles
found present, `wrote` what it has written, `spoilt` what descriptors in flight with it had written when they left (05 R157). -/
structure CpDesc where
  id : Nat
  src : EngSrc
  ctx : Nat
  part : Nat
  level : Nat
  bytes : List Byte
  refs : List (ObjKind × Nat)
  addr : Word64
  core : Nat
  stamp : Nat
  dstStamp : Nat
  metaStamp : Nat
  accepted : Bool
  step : Nat
  readsOut : Nat
  writesOut : Nat
  fault : Nat
  auxBytes : List Byte
  phys : Nat
  source : Loc
  dest : Loc
  aux : Loc
  outMeta : Loc
  room : Nat
  outRoom : Nat
  index : Table Nat
  marks : List Nat
  wrote : List (Loc × Nat)
  spoilt : List (Loc × Nat)
  deriving DecidableEq, Repr

/-- A copy engine (05 R148, 14 R403). -/
structure CopyEng where
  descs : List CpDesc
  cur : Option Nat
  lastCtx : Table Nat
  deriving DecidableEq, Repr

/-- An overflow event of a routing run (07 R221). -/
structure OvfRec where
  token : Nat
  expert : Nat
  rank : Nat
  outcome : Nat
  spill : Nat
  deriving DecidableEq, Repr

/-- One accepted assignment (07 R219); `first` is the expert it was chosen for, another than `expert` after a spill (07 R217). -/
structure Assign where
  token : Nat
  expert : Nat
  first : Nat
  rank : Nat
  weight : Word32
  deriving DecidableEq, Repr

/-- A routing run and its progress (07 R211 to R229, R547): phase, next unit of the phase, the choices, and what is
outstanding. `inbox` is what its reads have brought, `gwait` the gathers still to start, `binds` the core-binding epochs of the
cluster at acceptance (13 R395). `places` and `rooms` are as the checks found them, once (05 R132). `cut` counts the beats already spent
on a unit longer than a step, `spoilt` the written bytes that other runs in flight also write (07 R228). -/
structure RtRun where
  id : Nat
  src : EngSrc
  ctx : Nat
  part : Nat
  level : Nat
  bytes : List Byte
  refs : List (ObjKind × Nat)
  addr : Word64
  core : Nat
  stamp : Nat
  accepted : Bool
  phase : Nat
  next : Nat
  caps : List Nat
  chosen : List (List (Nat × Word32))
  weights : List (List Word32)
  assigns : List Assign
  ovf : List OvfRec
  demand : List Nat
  failed : Bool
  emptyRanks : Nat
  toLaunch : List Nat
  gathers : List (Nat × Nat)
  ready : List Nat
  launched : Nat
  xfersOut : Nat
  writesOut : Nat
  fault : Nat
  phys : Nat
  places : List Loc
  rooms : List Nat
  tables : List (List Byte)
  cut : Nat
  spoilt : List (Loc × Nat)
  readsOut : Nat
  inbox : Table (List Byte)
  gwait : List (Nat × List Byte)
  binds : List Nat
  deriving DecidableEq, Repr

/-- A routing engine (14 R403). -/
structure RouteEng where
  runs : List RtRun
  cur : Option Nat
  lastCtx : Table Nat
  deriving DecidableEq, Repr

/-- A special-function table of one die (09 R270, R271): two banks, the active one, whether it is loaded and whether
each bank passed the seam check. -/
structure SftTable where
  bank0 : List Byte
  bank1 : List Byte
  active : Nat
  loaded : Bool
  promise0 : Bool
  promise1 : Bool
  deriving DecidableEq, Repr

/-- A table load in progress (09 R271): its number, its step, the latched registers, the image once `got`, and the RESULT that
refuses it (0: none). -/
structure SftLoad where
  id : Nat
  step : Nat
  got : Bool
  fault : Nat
  table : Nat
  part : Nat
  src : Word64
  image : List Byte
  promise : Bool
  deriving DecidableEq, Repr

/-! ### Sail-die registers -/

/-- A maintenance operation that runs (10 R308 to R310), with the registers as GO found them: `range` is the kind, the partition and the
first and last line that its check found (05 R132), `found` the lines in the tether die and on their way out of eviction buffers. -/
structure MaintRun where
  part : Nat
  op : Nat
  setWay : Bool
  slice : Nat
  set_ : Nat
  way : Nat
  addr : Word64
  len : Nat
  range : Option (Nat × Nat × Nat × Nat)
  found : List Line
  deriving DecidableEq, Repr

/-- The registers of one sail die's window that hold state of their own, and its schedule position. -/
structure DieRegs where
  beatClass : Nat
  beatIndex : Nat
  beatBusy : Bool
  beatValid : Bool
  beatBadSel : Bool
  beatOff : Bool
  beatElapsed : Nat
  beatWork : Nat
  parkCore : Nat
  parkSub : Nat
  parkSlot : Nat
  parkClass : Nat
  parkIndex : Nat
  parkLane : Nat
  mxSel : Nat
  nfClass : Nat
  nfPart : Nat
  nfIndex : Nat
  scanDone : Bool
  scanBusy : Bool
  scanClass : Nat
  scanPart : Nat
  scanStart : Nat
  scanNext : Nat
  sftTable : Nat
  sftPart : Nat
  sftSrc : Word64
  sftOverrun : Bool
  sftResult : Nat
  sftResultPart : Nat
  sftLoad : Option SftLoad
  maddr : Word64
  mlen : Word64
  mcmd : Word32
  mrun : Option MaintRun
  moverrun : Bool
  mresult : Nat
  mlines : Nat
  lockPart : Nat
  lockErr : Bool
  memerrPart : Nat
  rolePart : Nat
  schedTail : Bool
  schedSlot : Nat
  schedBudget : Nat
  deriving DecidableEq, Repr

/-- Memory error records of one partition on one die (10 SAIL_MEMERR_CNT, SAIL_MEMERR_ADDR). -/
structure MemErr where
  nmCe : Nat
  nmUe : Nat
  refetch : Nat
  lost : Nat
  valid : Bool
  kind : Nat
  off : Nat
  deriving DecidableEq, Repr

/-- A numeric flag set (08 R250). -/
structure FlagSet where
  flags : BitVec 6
  ctx : Nat
  deriving DecidableEq, Repr

/-! ### Tether link and Glinen ports -/

/-- Why the device made an upstream request. `merge` reads the sectors of a write that covers some of them in part, `merged` writes them. -/
inductive UpWhat where
  | job (job part : Nat)
  | piece (load piece : Nat)
  | write (sink : AckSink)
  | merge (die : Nat) (w : AgentWrite)
  | merged (sink : AckSink)
  | atomic (sink : AtomicSink)
  | snoopInv (line : Line)
  | snoopFwd (line : Line) (requester : Nat)
  deriving DecidableEq, Repr

/-- A downstream DMA request in progress: the flit, the writes still to be acknowledged, the first fault. -/
structure DmaReq where
  f : Flit
  left : Nat
  fault : Nat
  deriving DecidableEq, Repr

/-- An upstream request without a response, with the link time at which it was sent. -/
structure UpReq where
  what : UpWhat
  fl : Flit
  sent : Nat
  deriving DecidableEq, Repr

/-- The tether link (15). `upTime` counts the keel periods in which STATE read up (R439); `outWait` holds the responses that a retrain holds
back (R438). `downTags` are the downstream tags in use, by attachment; `csWait` holds the control-space accesses that wait, each
with the tags of the DMA writes before it (R426); `coAddr` is the address by which the tether die named each line that it asked for, `coPend`
its coherent requests under way; `notes` are the event notes that wait for a retrain to end. -/
structure Link where
  state : Nat
  lossCause : Nat
  modUp : BitVec 8
  modRepaired : BitVec 8
  retrains : Nat
  downgrades : Nat
  protoErr : Nat
  timeouts : Nat
  att : Nat
  downTags : List (Nat × Nat)
  csWait : List (Nat × List Nat × Flit)
  dma : Table DmaReq
  upReq : Table UpReq
  upWait : List (Nat × Flit × UpWhat)
  upTime : Nat
  outWait : List (Nat × Flit)
  quiescing : Bool
  quiesced : Bool
  retraining : List Nat
  coAddr : List (Line × Word64)
  coPend : List (Line × Nat × Flit)
  notes : List (Nat × Nat × Nat)
  deriving DecidableEq, Repr

/-- Why the device made a remote request (16 R453). -/
inductive OutWhat where
  | write (sink : AckSink)
  | signal (sink : AckSink)
  | piece (load piece : Nat)
  | job (job part : Nat)
  | atomic (sink : AtomicSink)
  | xferCopy (cluster desc : Nat)
  | xferRoute (cluster run : Nat)
  deriving DecidableEq, Repr

/-- An entry of a port's outstanding table (16 R460). -/
structure OutEntry where
  route : Nat
  what : OutWhat
  deriving DecidableEq, Repr

/-- A transfer open at a receiving port (16 R456), with the counter of its XEND's signal. -/
structure RxXfer where
  id : Nat
  src : Nat
  xfer : Nat
  frames : Nat
  left : Nat
  refused : Nat
  xend : Option Frame
  sig : Option Nat
  deriving DecidableEq, Repr

/-- A Glinen port (16). `unitsSent` and `rxSeq` count the places of frame units, ten to a codeword (16 R443), that it has sent and taken in. -/
structure Port where
  state : Nat
  locked : BitVec 8
  corrected : Nat
  replayed : Nat
  discarded : Nat
  retrains : Nat
  txq : List (Nat × Frame)
  sent : List (Nat × Nat × Frame)
  unitsSent : Nat
  ackSeq : Nat
  rxSeq : Nat
  credits : Table Nat
  uncorrectable : List Nat
  outst : Table OutEntry
  waitq : List (Nat × Frame × OutWhat)
  inReq : List (Frame × Nat × Nat)
  rx : List RxXfer
  deriving DecidableEq, Repr

/-- The state of a route of the origin table (16 R461, R462). `timer` is the time at which its timer last started. -/
structure RouteSt where
  down : Bool
  timer : Nat
  downAt : Nat
  failed : Nat
  late : Nat
  deriving DecidableEq, Repr

/-- What the device has sent over its links: a tether flit on an attachment, a frame out of a port, or the block control of a codeword that
returns credits (16 R443): its SEQ, the virtual channel and the units. -/
inductive Sent where
  | flit (att : Nat) (f : Flit)
  | frame (port : Nat) (f : Frame)
  | credit (port seq vc units : Nat)
  deriving DecidableEq, Repr

/-! ### Messages in flight -/

/-- An operation on its way to a counter station (12 R354). `pairError` is an error that the station of the named partner found. -/
inductive CntKind where
  | add | sub | set_ | reset | read | error
  | pairError (partner : Nat)
  deriving DecidableEq, Repr

/-- What a counter read or a counter command answers to. -/
inductive CntReply where
  | none
  | group (gid path reg scope : Nat)
  | command (q j : Nat)
  | glinen (req : Frame)
  deriving DecidableEq, Repr

/-- A counter operation on its way (12 R353, R354); `stamp` is the role key and epoch of an engine's increment (13 R395). -/
structure CntOp where
  phys : Nat
  kind : CntKind
  n : Nat
  src : LastOp
  reply : CntReply
  stamp : Option (Nat × Nat)
  deriving DecidableEq, Repr

/-- The frame sources (02 R48 to R51). -/
inductive FrameSrc where
  | frameIn
  | doorbell
  | glinen (port : Nat)
  deriving DecidableEq, Repr

/-- A message in flight between two units of the device. A fill comes from die `src`; an invalidation that has overtaken it sets `till`:
it then serves the lanes that were asked before, and is not installed (11 R324). A far atomic whose line has been read holds the sectors that
could not be read. -/
inductive Msg where
  | capture (e : EngKind) (gid ctx part level : Nat) (addr : Word64) (bytes : List Byte)
  | home (line : Line) (r : HomeReq)
  | inval (line : Line) (agent : Nat)
  | invAck (line : Line) (agent : Nat) (d : Option LineData)
  | fwd (line : Line) (owner requester : Nat)
  | fwdNotify (line : Line) (owner : Nat)
  | wb (line : Line) (agent slice : Nat) (d : LineData)
  | evict (line : Line) (agent : Nat)
  | wbAck (line : Line) (die slice : Nat)
  | memRead (loc : Loc) (len : Nat) (what : MemWhat)
  | fill (line : Line) (src die : Nat) (st : LState) (d : LineData) (till : Option Nat)
  | uncWrite (w : AgentWrite)
  | farAt (a : AtomicReq)
  | farRead (a : AtomicReq) (bad : BitVec 4)
  | storeAck (core sub entry : Nat) (ok : Bool)
  | copyAck (cluster desc : Nat) (fault : Nat)
  | cnt (o : CntOp)
  | waitReq (phys : Nat) (consuming : Bool) (w : Waiter)
  | release (w : Waiter) (ok : Bool)
  | pair (phys partner value : Nat)
  | tailData (q value fault : Nat)
  | cmdData (q j : Nat) (bytes : List Byte) (fault : Nat)
  | eventAck (ctx write die fault : Nat)
  | notifyAck (fence epoch die : Nat)
  | frame (src : FrameSrc)
  | slotStart (die : Nat)
  deriving DecidableEq, Repr

/-! ### The fabric -/

/-- A reset of a partition under way (13 R398): its cause's code, how far it has come (0 its accesses drain, 1 the TAILs of its queues are
read, 2 its epochs wait), and the die of the queue whose command caused it, else 0. -/
structure PartReset where
  code : Nat
  phase : Nat
  die : Nat
  deriving DecidableEq, Repr

/-- The device tables (13, 12). `releases`: objects without references whose EPOCH may not yet advance (13 R373, R396), with the die that
posts their release. -/
structure Tables where
  ctxs : Table Ctx
  queues : Table Queue
  objs : Table MemObj
  ctrs : Table Counter
  xlate : Table Word32
  fences : Table Fence
  slotEpoch : Table Epoch
  releases : List (ObjKind × Nat × Nat)
  roles : Table Epoch
  resets : Table PartReset
  foreign : Table Nat
  stale : Table Nat
  progs : Table ProgState
  deriving DecidableEq, Repr

/-- The cores (03, 04): groups and loads by number, blocks by number, store buffers by sub-core. -/
structure Cores where
  groups : Table Group
  blocks : Table Block
  waiting : List Block
  sb : Table (List SbEntry)
  loads : Table Load
  lastSlot : Table Nat
  flags : Table FlagSet
  deriving DecidableEq, Repr

/-- The engines: arrays by core, copy and routing engines by cluster, special-function tables by die and table. -/
structure Engines where
  mx : Table MxArray
  cp : Table CopyEng
  rt : Table RouteEng
  sft : Table SftTable
  deriving DecidableEq, Repr

/-- The Glinen ports and routes. -/
structure Glinen where
  ports : Table Port
  routes : Table RouteSt
  selA : Nat × Nat
  selB : Nat × Nat
  errA : Bool
  errB : Bool
  deriving DecidableEq, Repr

/-- Everything outside the keel die. `free` indexes the next free value (log 7), `nextId` the next message. -/
structure Fab where
  free : Nat
  net : Table Msg
  nextId : Nat
  jobs : Table ReadJob
  mem : Mem
  tab : Tables
  cores : Cores
  eng : Engines
  dies : Table DieRegs
  memErr : Table MemErr
  roleDrops : Table (Nat × Nat)
  elapsed : Table Nat
  work : Table Nat
  classWork : Table Nat
  syncSel : Nat × Nat
  syncWsel : Nat × Nat
  link : Link
  gln : Glinen
  sent : List Sent
  deriving DecidableEq, Repr

/-- The machine: the commands that wait, the keel die and the fabric. -/
structure State where
  pending : List Instr
  keel : Keel
  fab : Fab
  deriving DecidableEq, Repr

/-! ### Reset -/

/-- What an unlisted byte of near memory, LPDDR6 or local memory reads as: zero, what the scrub of 10 R302 writes
(log 11). -/
def Mem.unlisted : Byte := 0

/-- What an unlisted byte of the NVM reads as: an erased NOR byte (log 9). -/
def Nvm.erased : Byte := 0xFF

/-- `n` zero bytes. -/
def zeros (n : Nat) : List Byte := List.replicate n 0

/-- 18 R495: the default core rail. -/
def RailCfg.default : RailCfg := { vMin := 600, vMax := 850, vTarget := 750, droopMv := 60 }

/-- 18 R495: the defaults of the power-limits section, for a part with or without sail dies 2 and 3 (17 R471). -/
def PowerCfg.default (v : Variant) : PowerCfg :=
  { pcapSust := if v = .kx7220 then 2450 else 4600
    pcapTrans := if v = .kx7220 then 2900 else 5400
    transTime := 1000, slopeStep := 2, tHot := 95, dramHot := 90, parked := 0, gapLen := 64, fraction := 48
    rails := [RailCfg.default, RailCfg.default, RailCfg.default, RailCfg.default] }

/-- Log 8: the fuses of the part that State.reset shows. -/
def Fuses.reset : Fuses :=
  { variant := .kx7240, lifecycle := 1, slots := [], activeSlot := 0, dbgMin := 0, minSvn := 0, spares := [], energy := [] }

def Boot.reset : Boot :=
  { fails := 0, moored := false, slot := 0, slotValid := false, fallback := false, code := 0, sectionIx := 0xFF,
    detail := 0, altCode := 0, seq := 0, svn := 0, device := false, imageOk := false, portDie := 0, mem := 0,
    compute := 0, ready := 0, failed := 0, partCause := [] }

def Start.none : Start :=
  { running := false, retryAt := .none, probedAt := 0, asked := [], began := 0, tried := [], firstFail := .none, imageDone := false,
    probeDone := false, linkDone := false, bridgesDone := false, lpdDone := false, interrupted := false }

def Rail.reset : Rail :=
  { reqMv := 0, voutMv := 0, ioutA := 0, est := false, due := .none, stepAt := .none, badReads := 0, goodReads := 0,
    outOfRange := 0 }

/-- 17 KEEL_PWR_LEVEL: TARGET resets to 64 and LEVEL to 0. -/
def Level.reset : Level :=
  { tPower := 64, tSail := 64, tDram := 64, level := 0, cut := false, droops := 0, lastCut := .none }

/-- 17: the power registers at reset: STATE 0, ON 0x0_0001, EN 0x03. -/
def Power.reset : Power :=
  { state := 0, on := 1, measW := 0, trackW := 0, aboveUs := 0, meanW := 0, history := [], estAtSample := [],
    estNow := [], worth := 0, rails := [], pmbus := [], seen := [], fixedW := [0, 0, 0, 0, 0, 0], fixedBad := [0, 0, 0, 0, 0, 0], levels := [],
    diverge := 0, agree := 0, doubled := false, sailT := [], dramT := [], sailHot := 0, dramHot := 0, raised := false, dramDouble := 0, dramOver := [], event := 0,
    alertEn := 0x03, stopValid := false, stopOthers := 0, stopCause := 0, stopping := false, ctrlErr := false,
    retention := 0, vMinSince := .none }

def Sec.reset : Sec :=
  { pend := .none, deviceId := zeros 16, mImage := zeros 64, mPtab := zeros 64, mTether := zeros 64, measDigest := 0,
    measWord := 0, nonce := .none, voided := [], resp := [], busy := false, err := false, result := 0, part := 0,
    openReq := .none, psess := 0, device := false, pTsvn := [], dTsvn := 0, quiesced := 0, heldByPart := 0,
    heldByDev := 0, devStep := 0, zeroWait := 0, zeroAt := 0, pdebug := 0, ddebug := false, att := [],
    staging := zeros 512, probeNonce := zeros 32 }

/-- The keel domain right after VDD_KEEL comes up, over given fuses and NVM (20 R531). -/
def Keel.powerUp (fuse : Fuses) (nvm : Nvm) : Keel :=
  { on := true, time := 0, resetN := false, resetFall := .none, coolantOk := false, pg := 0, railReq := 0, addrSel := 0, fuse := fuse,
    nvm := nvm, boot := Boot.reset, start := Start.none, image := .none, lpddrDone := false,
    tetherDone := false, tetherKind := 0, chan := 0, power := Power.reset, sec := Sec.reset,
    i3c := { dyn := .none, ibi := true, addr := 0 }, mboxOut := false, mboxWait := [], nvmReply := .none, frameSlot := 0,
    accepted := 0, merged := 0, unselected := 0, lastFrame := .none, out := [] }

def DieRegs.reset : DieRegs :=
  { beatClass := 0, beatIndex := 0, beatBusy := false, beatValid := false, beatBadSel := false, beatOff := false,
    beatElapsed := 0, beatWork := 0, parkCore := 0, parkSub := 0, parkSlot := 0, parkClass := 0, parkIndex := 0,
    parkLane := 0, mxSel := 0, nfClass := 0, nfPart := 0, nfIndex := 0, scanDone := false, scanBusy := false,
    scanClass := 0, scanPart := 0, scanStart := 0, scanNext := 0, sftTable := 0, sftPart := 0, sftSrc := 0,
    sftOverrun := false, sftResult := 0, sftResultPart := 0, sftLoad := .none, maddr := 0, mlen := 0, mcmd := 0,
    mrun := .none, moverrun := false, mresult := 0, mlines := 0, lockPart := 0, lockErr := false, memerrPart := 0,
    rolePart := 0, schedTail := true, schedSlot := 0, schedBudget := 0 }

def Mem.reset : Mem :=
  { nm := [], lpd := [], loc := [], poison := [], badWords := [], locCe := [], softWords := [], l1Bad := [], fatal := [],
    lost := [], refetch := [], arrived := [], arb := [], l2 := [], evb := [], l1 := [],
    dir := [], streams := [], locks := [], resv := [], holds := [], failedLane := [], chans := [], use := 0 }

def Tables.reset : Tables :=
  { ctxs := [], queues := [], objs := [], ctrs := [], xlate := [], fences := [], slotEpoch := [], releases := [], roles := [],
    resets := [], foreign := [], stale := [], progs := [] }

def Link.reset : Link :=
  { state := 0, lossCause := 0, modUp := 0, modRepaired := 0, retrains := 0, downgrades := 0, protoErr := 0,
    timeouts := 0, att := 0, downTags := [], csWait := [], dma := [], upReq := [], upWait := [], upTime := 0, outWait := [], quiescing := false,
    quiesced := false, retraining := [], coAddr := [], coPend := [], notes := [] }

def Fab.reset : Fab :=
  { free := 0, net := [], nextId := 0, jobs := [], mem := Mem.reset, tab := Tables.reset,
    cores := { groups := [], blocks := [], waiting := [], sb := [], loads := [], lastSlot := [], flags := [] },
    eng := { mx := [], cp := [], rt := [], sft := [] }, dies := [], memErr := [], roleDrops := [], elapsed := [],
    work := [], classWork := [], syncSel := (0, 0), syncWsel := (0, 0), link := Link.reset,
    gln := { ports := [], routes := [], selA := (0, 0), selB := (0, 0), errA := false, errB := false }, sent := [] }

/-- The machine right after reset: the keel has just powered up with RESET_N low (20 R531), every other domain is off,
no image is bound and no command waits (log 4). -/
def State.reset : State :=
  { pending := [], keel := Keel.powerUp Fuses.reset { answers := true, size := 0x400_0000, cells := [] },
    fab := Fab.reset }

end Sys2Proof.Machine
end

