-- ==== Sys2Proof/Machine/Ops.lean ====
section
/-!
DEFINITION. Ops.lean: the named operations that the meanings share: outcomes, tables, bytes, geometry, the memory cells,
the object check of 05 R130, messages in flight, events, references.
-/
namespace Sys2Proof.Machine

abbrev Out := Host.Outcome State Fault Refusal

/-! ### Outcomes -/

/-- A command that changes the fabric only. -/
def onFab (s : State) (g : Keel → Fab → Fab) : Out := .next { s with fab := g s.keel s.fab }

/-- A command that changes the keel die only. -/
def onKeel (s : State) (g : Keel → Fab → Keel) : Out := .next { s with keel := g s.keel s.fab }

/-- A command that changes both. -/
def onBoth (s : State) (g : Keel → Fab → Keel × Fab) : Out :=
  .next { s with keel := (g s.keel s.fab).1, fab := (g s.keel s.fab).2 }

/-! ### Tables and bytes -/

/-- Change the entry at a key, if there is one. -/
def tmod {α : Type} (t : Table α) (k : Nat) (g : α → α) : Table α :=
  t.map fun e => if e.1 = k then (e.1, g e.2) else e

/-- Change the entry at a key, or put the changed default. -/
def tupd {α : Type} (t : Table α) (k : Nat) (d : α) (g : α → α) : Table α := tput t k (g (tgetD t k d))

/-- The first element of a list that passes a test, with its position. -/
def findIx {α : Type} (p : α → Bool) : List α → Option (Nat × α)
  | [] => none
  | x :: xs => if p x then some (0, x) else (findIx p xs).map fun r => (r.1 + 1, r.2)

/-- Put an element in front of the first one that it comes before. -/
def putBy {α : Type} (before : α → α → Bool) (x : α) : List α → List α
  | [] => [x]
  | y :: ys => if before x y then x :: y :: ys else y :: putBy before x ys

/-- The elements in order; those of which neither comes before the other keep their places. -/
def orderBy {α : Type} (before : α → α → Bool) (xs : List α) : List α := xs.foldl (fun l x => putBy before x l) []

/-- Bits `lo` to `lo + len - 1` of a number. -/
def fld (v lo len : Nat) : Nat := v / 2 ^ lo % 2 ^ len

/-- One bit of a number. -/
def bitAt (v i : Nat) : Bool := v / 2 ^ i % 2 == 1

/-- A number's `n` low bytes, little-endian (00 R11). -/
def bytesLE : (n : Nat) → (v : Nat) → List Byte
  | 0, _ => []
  | n + 1, v => BitVec.ofNat 8 v :: bytesLE n (v / 256)

/-- The number that little-endian bytes hold. -/
def leNat : List Byte → Nat
  | [] => 0
  | b :: bs => b.toNat + 256 * leNat bs

/-- `n` bytes at position `i`, as a number. -/
def numAt (bs : List Byte) (i n : Nat) : Nat := leNat ((bs.drop i).take n)

/-- `n` bytes at position `i`. -/
def slice (bs : List Byte) (i n : Nat) : List Byte := (bs.drop i).take n

/-- Replace the bytes of a list from position `i` on. -/
def splice (bs : List Byte) (i : Nat) (new : List Byte) : List Byte :=
  bs.take i ++ new ++ bs.drop (i + new.length)

/-- Overlay masked bytes on plain ones. -/
def overlay : (old : List Byte) → (new : List (Option Byte)) → List Byte
  | b :: bs, n :: ns => n.getD b :: overlay bs ns
  | bs, [] => bs
  | [], _ :: _ => []

/-- Overlay masked bytes on masked ones: the later byte wins. -/
def overlayM : (old new : List (Option Byte)) → List (Option Byte)
  | b :: bs, n :: ns => (if n.isSome then n else b) :: overlayM bs ns
  | bs, [] => bs
  | [], _ :: _ => []

/-- Masked bytes placed in a row of `width`, from position `at_`. -/
def placed (width at_ : Nat) (bs : List (Option Byte)) : List (Option Byte) :=
  (List.replicate at_ none ++ bs ++ List.replicate width none).take width

def ceilDiv (a b : Nat) : Nat := (a + b - 1) / b

/-- Number of set bits among the `n` low bits. -/
def popcount (n v : Nat) : Nat := ((List.range n).filter (bitAt v)).length

/-- The positions of the set bits among the `n` low bits. -/
def setBits (n v : Nat) : List Nat := (List.range n).filter (bitAt v)

/-! ### Geometry (00 R2, 01 R17 to R20) -/

def Variant.sails : Variant → Nat
  | .kx7220 => 2
  | _ => 4

/-- Port dies A and B are fabricated together or not at all (00 R2). -/
def Variant.ports : Variant → Bool
  | .kx7240 | .kx7240O => true
  | _ => false

def Keel.sails (k : Keel) : Nat := k.fuse.variant.sails
def corePresent (k : Keel) (n : Nat) : Bool := n < 192 * k.sails
def clusterPresent (k : Keel) (c : Nat) : Bool := c < 12 * k.sails
def dieOfCore (core : Nat) : Nat := core / 192
def clusterOfCore (core : Nat) : Nat := core / 16

/-- The number of a group slot: ((core × 4 + sub-core) × 16) + slot (04 R122). -/
def gidOf (core sub slot : Nat) : Nat := (core * 4 + sub) * 16 + slot
def GroupAtGid (g : GroupAt) : Nat := gidOf g.core g.sub g.slot
def coreOfGid (gid : Nat) : Nat := gid / 64
def subOfGid (gid : Nat) : Nat := gid / 16 % 4
def slotOfGid (gid : Nat) : Nat := gid % 16

/-- The indices of 17 R465: the keel 0, the tether boundary 1, port dies A and B 2 and 3. -/
def computeDom (die field : Nat) : Nat := 4 + 4 * die + field
def memDom (die : Nat) : Nat := 4 + 4 * die + 3

/-- The bit of KEEL_PWR_DOMAIN.ON for a power domain. -/
def domainOn (k : Keel) (d : Nat) : Bool := k.power.on.getLsbD d

/-! ### Small views of the state -/

def onMem (f : Fab) (g : Mem → Mem) : Fab := { f with mem := g f.mem }
def onTab (f : Fab) (g : Tables → Tables) : Fab := { f with tab := g f.tab }
def onCores (f : Fab) (g : Cores → Cores) : Fab := { f with cores := g f.cores }
def onEng (f : Fab) (g : Engines → Engines) : Fab := { f with eng := g f.eng }
def onLink (f : Fab) (g : Link → Link) : Fab := { f with link := g f.link }
def onGln (f : Fab) (g : Glinen → Glinen) : Fab := { f with gln := g f.gln }
def modGroup (f : Fab) (gid : Nat) (g : Group → Group) : Fab :=
  onCores f fun c => { c with groups := tmod c.groups gid g }
def modCtx (f : Fab) (i : Nat) (g : Ctx → Ctx) : Fab := onTab f fun t => { t with ctxs := tmod t.ctxs i g }
def modQueue (f : Fab) (i : Nat) (g : Queue → Queue) : Fab := onTab f fun t => { t with queues := tmod t.queues i g }
def modCtr (f : Fab) (i : Nat) (g : Counter → Counter) : Fab := onTab f fun t => { t with ctrs := tmod t.ctrs i g }
def modFence (f : Fab) (i : Nat) (g : Fence → Fence) : Fab := onTab f fun t => { t with fences := tmod t.fences i g }
def modDie (f : Fab) (d : Nat) (g : DieRegs → DieRegs) : Fab := { f with dies := tupd f.dies d DieRegs.reset g }
def dieRegs (f : Fab) (d : Nat) : DieRegs := tgetD f.dies d DieRegs.reset
def findGroup (f : Fab) (gid : Nat) : Option Group := tfind f.cores.groups gid
def findCtx (f : Fab) (i : Nat) : Option Ctx := tfind f.tab.ctxs i
def findQueue (f : Fab) (i : Nat) : Option Queue := tfind f.tab.queues i

/-! ### Time counters (02 R43) and marks (15 R427) -/

/-- A unit of a counter class (02 R46), numbered over the device. -/
def unitKey (cls index : Nat) : Nat := cls * 65536 + index

/-- `n` beats of a unit pass: its replica ring counts them in ELAPSED. -/
def beatsUp (f : Fab) (cls index n : Nat) : Fab := { f with elapsed := tupd f.elapsed (unitKey cls index) 0 (· + n) }

/-- In `n` of the beats that a unit's ELAPSED has counted it completed work. -/
def worked (f : Fab) (cls index n : Nat) : Fab := { f with work := tupd f.work (unitKey cls index) 0 (· + n) }

/-- `n` beats of a unit pass in which it completes work: ELAPSED and WORK advance together. -/
def workUp (f : Fab) (cls index n : Nat) : Fab := worked (beatsUp f cls index n) cls index n

/-- Whether a request reaches the registers filtered for a partition: it acts for the partition, or is at device debug level
while that session is open. An ACT of 2 that is not honoured acts as 1, an ACT of 3 as 0. -/
def actsFor (k : Keel) (m : Mark) (p : Nat) : Bool :=
  ((m.act == 1 || m.act == 2) && m.part == p) || (m.act == 3 && k.sec.device)

/-- Whether a request is at partition-scoped debug level for a partition, or at device debug level. -/
def debugsFor (k : Keel) (m : Mark) (p : Nat) : Bool :=
  (m.act == 2 && m.part == p && k.sec.psess.getLsbD p) || (m.act == 3 && k.sec.device)

/-- Whether a mark asks for a level that is not open: its request is handled as ACT 1 or 0 and counted in ACT_DOWNGRADES. -/
def downgraded (k : Keel) (m : Mark) : Bool :=
  !m.i3c && ((m.act == 2 && !k.sec.psess.getLsbD m.part) || (m.act == 3 && !k.sec.device))

def noteMark (k : Keel) (f : Fab) (m : Mark) : Fab :=
  if downgraded k m then onLink f fun l => { l with downgrades := min 65535 (l.downgrades + 1) } else f

/-- Whether a register that takes writes with ACT 0 or 3 takes one with this mark (an ACT 3 not honoured acts as ACT 0). -/
def systemMark (m : Mark) : Bool := !m.i3c && (m.act == 0 || m.act == 3)

/-- The tether link carries flits: STATE reads up or retraining (15). -/
def linkUp (f : Fab) : Bool := f.link.state == 1 || f.link.state == 2

/-- Whether a request can reach the registers outside the keel: over a tether link that takes requests (15 R435, R439). -/
def csOpen (k : Keel) (f : Fab) (m : Mark) : Bool := k.on && !m.i3c && linkUp f && !f.link.quiescing

/-- A write of a register outside the keel, with its mark noted; one that no link can carry does nothing. -/
def regRow (s : State) (m : Mark) (g : Keel → Fab → Fab) : Out :=
  onFab s fun k f => if csOpen k f m then g k (noteMark k f m) else f

/-- A write of a keel register, over the tether link or over I3C. -/
def regBoth (s : State) (m : Mark) (g : Keel → Fab → Keel × Fab) : Out :=
  onBoth s fun k f => if csOpen k f m || (k.on && m.i3c) then g k (noteMark k f m) else (k, f)

/-! ### New entries of the engines -/

def MxArray.fresh : MxArray :=
    { queue := [], cur := none, bubble := none, last := none, lastCtx := [], inGap := false, gapBeats := 0, ramp := none, ballast := false,
      sel := 0 }

/-- No place. -/
def noLoc : Loc := { kind := 15, part := 0, off := 0, core := 0, kdata := 0, c := false }

def CopyEng.fresh : CopyEng := { descs := [], cur := none, lastCtx := [] }

def RouteEng.fresh : RouteEng := { runs := [], cur := none, lastCtx := [] }

def MxEntry.fresh (id : Nat) (src : EngSrc) (ctx part level : Nat) (addr : Word64) (bytes : List Byte) (stamp : Nat) : MxEntry :=
    { id := id, src := src, ctx := ctx, part := part, level := level, bytes := bytes, refs := [], addr := addr, stamp := stamp,
      accepted := false, bank := 0, step := 0, isOpen := false, acc := [], decoded := false, finished := false, fault := 0,
      phys := 0, base := 0, ameta := [], bmeta := [] }

def CpDesc.fresh (id : Nat) (src : EngSrc) (ctx part level : Nat) (addr : Word64) (bytes : List Byte) (core stamp : Nat) : CpDesc :=
    { id := id, src := src, ctx := ctx, part := part, level := level, bytes := bytes, refs := [], addr := addr, core := core,
      stamp := stamp, dstStamp := 0, metaStamp := 0, accepted := false, step := 0, readsOut := 0, writesOut := 0, fault := 0, auxBytes := [],
      phys := 0, source := noLoc, dest := noLoc, aux := noLoc, outMeta := noLoc, room := 0, outRoom := 0, index := [], marks := [], wrote := [], spoilt := [] }

def RtRun.fresh (id : Nat) (src : EngSrc) (ctx part level : Nat) (addr : Word64) (bytes : List Byte) (core stamp : Nat) : RtRun :=
    { id := id, src := src, ctx := ctx, part := part, level := level, bytes := bytes, refs := [], addr := addr, core := core,
      stamp := stamp, accepted := false, phase := 0, next := 0, caps := [], chosen := [], weights := [], assigns := [],
      ovf := [], demand := [], failed := false, emptyRanks := 0, toLaunch := [], gathers := [], ready := [], launched := 0,
      xfersOut := 0, writesOut := 0, fault := 0, phys := 0, places := [], rooms := [], tables := [], cut := 0, spoilt := [],
      readsOut := 0, inbox := [], gwait := [], binds := [] }

/-! ### Commands of a queue -/

def modCmd (f : Fab) (q j : Nat) (g : QCmd → QCmd) : Fab := modQueue f q fun x => { x with cmds := tmod x.cmds j g }
def findCmd (f : Fab) (q j : Nat) : Option QCmd := (findQueue f q).bind fun x => tfind x.cmds j

/-- A command's work is done, or has failed with a code; it retires by COMMAND_RETIRE. -/
def actCmd (f : Fab) (q j code : Nat) : Fab :=
  modCmd f q j fun c => match c.stage with | .acted _ => c | _ => { c with stage := .acted code }

/-! ### Messages -/

/-- A message enters the net under the next number. -/
def send (f : Fab) (m : Msg) : Fab := { f with net := tput f.net f.nextId m, nextId := f.nextId + 1 }

def sendAll (f : Fab) (ms : List Msg) : Fab := ms.foldl send f

/-- A message leaves the net. -/
def drop (f : Fab) (m : Nat) : Fab := { f with net := tdel f.net m }

/-- The next free value (log 7), and the fabric that has used it up. -/
def fresh (f : Fab) : Word64 := Config.freeWord f.free
def spend (f : Fab) (n : Nat) : Fab := { f with free := f.free + n }

/-- `n` free bytes from index `i` on. -/
def freeBytes (i n : Nat) : List Byte := (List.range n).map fun j => (Config.freeWord (i + j)).truncate 8

/-! ### The bound image's shares (18 R494) -/

def partRec (k : Keel) (p : Nat) : Option PartRec := k.image.bind fun im => im.parts[p]?.filter (·.configured)
def l2Ways (k : Keel) (p : Nat) : Nat := ((partRec k p).map (·.l2Ways)).getD 0
/-- Ways of the partition that are not locked on the die (10 R306). -/
def lockOf (f : Fab) (die p : Nat) : Word16 := tgetD f.mem.locks (die * 16 + p) 0
def freeWays (k : Keel) (f : Fab) (die p : Nat) : List Nat :=
  (setBits 16 (l2Ways k p)).filter fun w => !(lockOf f die p).getLsbD w
def l1WaysOf (k : Keel) (core p : Nat) : Nat := (k.image.map fun im => tgetD im.l1Ways (core * 16 + p) 0).getD 0
def localUnitsOf (k : Keel) (core p : Nat) : Nat :=
  (k.image.map fun im => tgetD im.localUnits (core * 16 + p) 0).getD 0
/-- 05 R134: the first 16 KiB unit of a partition's local-memory carve-out on a core. -/
def localBase (k : Keel) (core p : Nat) : Nat := ((List.range p).map (localUnitsOf k core)).sum

/-- Reserved-load mode of a partition (18 R493): none in loop mode, the granule's bytes in granule mode. -/
def granuleOf (k : Keel) (p : Nat) : Option Nat :=
  k.image.bind fun im => im.resload[p]?.bind fun w =>
    if bitAt w.toNat 0 then some (2 ^ (fld w.toNat 4 3 + 7)) else none

/-! ### Homes (11 R314 to R316, 10 R298) -/

/-- Home die, home slice and set of a line. -/
structure Home where
  die : Nat
  slice : Nat
  set_ : Nat
  deriving DecidableEq, Repr

/-- 11 R314: channel of a near-memory line over all present dies, and its line in the reservation. -/
def nmChannel (k : Keel) (l : Nat) : Nat × Nat :=
  let n := 96 * k.sails
  let u := l / n
  ((l % n + 53 * u) % n, u)

/-- 10 R298: the channel of a granule of an LPDDR6 carve-out. -/
def lpdChannel (k : Keel) (p g : Nat) : Nat :=
  let chans := setBits 32 (((partRec k p).map (·.lpdMask)).getD 0)
  chans.getD (g % chans.length) 0

def homeOf (k : Keel) (l : Line) : Home :=
  if l.kind = 0 then
    let (q, u) := nmChannel k l.idx
    let c := q % 96
    { die := q / 96, slice := c / 2, set_ := ((u % 1024) ^^^ (u / 1024 % 1024)) * 2 + c % 2 }
  else
    let ch := lpdChannel k l.part (l.idx / 8)
    { die := ch / 8, slice := (l.idx + 6 * (ch % 8)) % 48, set_ := ((l.idx / 48) ^^^ (l.idx / 98304)) % 2048 }

/-- 11 R316: the home-slice hash. -/
def homeHash (k : Keel) (l : Line) : Nat :=
  let h := homeOf k l
  let bridge := (popcount 11 h.set_ + h.slice % 2) % 2
  let chan := if l.kind = 0 then (nmChannel k l.idx).1 % 2 else 0
  h.set_ * 2 ^ 11 + l.kind * 2 ^ 10 + h.die * 2 ^ 8 + bridge * 2 ^ 7 + chan * 2 ^ 6 + h.slice

def lineOf (l : Loc) : Line := { kind := l.kind, part := l.part, idx := l.off / 128 }

/-- Whether a line may be cached: kind 0 or 1, the object cacheable, and the partition holds L2 ways (10 R299). -/
def cached (k : Keel) (l : Loc) : Bool := decide (l.kind ≤ 1) && l.c && decide (l2Ways k l.part ≠ 0)

/-! ### Memory cells -/

/-- The key of a carve-out byte. -/
def cellKey (part off : Nat) : Nat := part * 2 ^ 48 + off
/-- The key of a local-memory byte. -/
def locKey (core a : Nat) : Nat := core * 2 ^ 21 + a

def memByte (m : Mem) (kind part off : Nat) : Byte :=
  cread Mem.unlisted (if kind = 0 then m.nm else m.lpd) (cellKey part off)

/-- `len` bytes of a carve-out in memory, from `off`. -/
def memBytes (m : Mem) (kind part off len : Nat) : List Byte :=
  (List.range len).map fun i => memByte m kind part (off + i)

/-- Write cells from an address on; `none` leaves the byte. -/
def writeCells (cs : List Host.Cell) : (a : Nat) → List (Option Byte) → List Host.Cell
  | _, [] => cs
  | a, none :: bs => writeCells cs (a + 1) bs
  | a, some b :: bs => writeCells (cwrite Mem.unlisted cs a b) (a + 1) bs

/-- Write bytes of a carve-out. A write of a whole 32-byte sector clears its poison (10 R288). -/
def memWrite (m : Mem) (kind part off : Nat) (bs : List (Option Byte)) : Mem :=
  if kind = 0 then
    let whole := fun (s : Nat) => s * 32 ≥ off && s * 32 + 32 ≤ off + bs.length
      && ((bs.drop (s * 32 - off)).take 32).all (·.isSome)
    { m with
      nm := writeCells m.nm (cellKey part off) bs
      poison := m.poison.filter fun q => !(q / 2 ^ 43 == part && whole (q % 2 ^ 43)) }
  else { m with lpd := writeCells m.lpd (cellKey part off) bs }

/-- The key of a 32-byte sector of near memory. -/
def sectorKey (part off : Nat) : Nat := part * 2 ^ 43 + off / 32

def poisonedAt (m : Mem) (part off : Nat) : Bool := m.poison.contains (sectorKey part off)

def locByte (m : Mem) (core a : Nat) : Byte := cread Mem.unlisted m.loc (locKey core a)
def locBytes (m : Mem) (core a len : Nat) : List Byte := (List.range len).map fun i => locByte m core (a + i)

/-- The 4-byte words that a local extent touches, by key. -/
def wordsOf (core a len : Nat) : List Nat :=
  if len = 0 then [] else (List.range ((a + len - 1) / 4 - a / 4 + 1)).map fun i => locKey core (a / 4 * 4 + 4 * i)

/-- 05 R139: the extent holds a word with an uncorrectable error. -/
def locBad (m : Mem) (core a len : Nat) : Bool := (wordsOf core a len).any m.badWords.contains

/-- Bytes of local memory become what the manual leaves open: no write of a unit, so the words' check bits stay as they are. -/
def locPoke (m : Mem) (core a : Nat) (bs : List (Option Byte)) : Mem := { m with loc := writeCells m.loc (locKey core a) bs }

/-- 05 R139: a write that covers part of such a word. -/
def locBadWrite (m : Mem) (core a : Nat) (bs : List (Option Byte)) : Bool :=
  (wordsOf core a bs.length).any fun w => m.badWords.contains w
    && !((List.range 4).all fun i =>
      let x := w % 2 ^ 21 + i
      decide (a ≤ x) && ((bs[x - a]?).getD none).isSome)

/-- 05 R139: the words of an extent that hold a single-bit error are corrected, and each is counted. -/
def locCorrect (m : Mem) (core : Nat) (ws : List Nat) : Mem :=
  let n := (m.softWords.filter ws.contains).length
  if n = 0 then m
  else { m with softWords := m.softWords.filter fun w => !ws.contains w, locCe := tupd m.locCe core 0 (· + n) }

/-- A read of local memory corrects what it meets (05 R139). -/
def locSeen (f : Fab) (core a len : Nat) : Fab := onMem f fun m => locCorrect m core (wordsOf core a len)

/-- A write to local memory; a write of all four bytes of a bad word clears its error, and one of part of a word with a single-bit
error corrects that first (05 R139). -/
def locWrite (m : Mem) (core a : Nat) (bs : List (Option Byte)) : Mem :=
  let full := fun (w : Nat) => (List.range 4).all fun i =>
    let x := w % 2 ^ 21 + i
    decide (a ≤ x) && ((bs[x - a]?).getD none).isSome
  let some' := fun (x : Nat) => decide (a ≤ x) && ((bs[x - a]?).getD none).isSome
  let m := locCorrect m core ((wordsOf core a bs.length).filter fun w => !full w && (List.range 4).any fun i => some' (w % 2 ^ 21 + i))
  { m with
    loc := writeCells m.loc (locKey core a) bs
    softWords := m.softWords.filter fun w => !(w / 2 ^ 21 == core && full w)
    badWords := m.badWords.filter fun w => !(w / 2 ^ 21 == core && full w) }

/-! ### The object check (05 R130, R131, R544) -/

/-- What an access does (05 R130 step 4); `st` is the store instruction of a thread, which alone reaches a door (16 R454). -/
inductive Use where
  | load | store | both | fetch | st
  deriving DecidableEq, Repr

def Use.allowed (o : MemObj) : Use → Bool
  | .load => o.r
  | .store => o.w
  | .both => o.r && o.w && o.a
  | .fetch => o.x
  | .st => o.w

def slotOf (a : Word64) : Nat := a.toNat / 2 ^ 48
def offOf (a : Word64) : Nat := a.toNat % 2 ^ 48

/-- Steps 1 to 3 of 05 R130. -/
def findObj (f : Fab) (part slot : Nat) : Except Nat MemObj :=
  if slot = 0 then .error 0x0201
  else match tfind f.tab.objs slot with
    | none => .error 0x0202
    | some o => if o.kind > 4 then .error 0x0202 else if o.part = part then .ok o else .error 0x0202

/-- The share of the object's owning context on a core (05 R130 step 7). -/
def shareOf (f : Fab) (o : MemObj) (core : Nat) : Option Share :=
  (findCtx f (o.kdata.toNat % 1024)).bind fun c => c.shares.find? (·.core == core)

/-- A door object (16 R454). -/
def MemObj.isDoor (o : MemObj) : Bool := o.kind == 4 && o.kdata.getLsbD 63
def Loc.isDoor (l : Loc) : Bool := l.kind == 4 && l.kdata.getLsbD 63

/-- Steps 4 to 7 of 05 R130 for `size` bytes at an offset; `core` is the core that a local-memory address reaches, none
where 05 R544 gives it none. -/
def checkIn (f : Fab) (o : MemObj) (core : Option Nat) (u : Use) (off : Int) (align size : Nat) : Except Nat Loc :=
  if !Use.allowed o u then .error 0x0203
  else if o.kind = 2 && core.isNone then .error 0x0203
  else if o.isDoor && !(u == .st && size == 8 && off == 0) then .error 0x0203
  else if off % align ≠ 0 then .error 0x0204
  else if off < 0 ∨ off + size > o.len ∨ off ≥ 2 ^ 48 then .error 0x0205
  else if o.kind = 2 then
    match shareOf f o (core.getD 0) with
    | none => .error 0x0205
    | some sh =>
      if o.base + off.toNat + size ≤ sh.units * 16384 then
        .ok { kind := 2, part := o.part, off := sh.first * 16384 + o.base + off.toNat, core := core.getD 0, kdata := 0,
              c := false }
      else .error 0x0205
  else .ok { kind := o.kind, part := o.part, off := o.base + off.toNat, core := 0, kdata := o.kdata, c := o.c }

/-- Steps 1 to 7 of 05 R130. -/
def check (f : Fab) (part : Nat) (core : Option Nat) (u : Use) (slot : Nat) (off : Int) (align size : Nat) :
    Except Nat Loc :=
  match findObj f part slot with
  | .error e => .error e
  | .ok o => checkIn f o core u off align size

def checkAt (f : Fab) (part : Nat) (core : Option Nat) (u : Use) (a : Word64) (align size : Nat) : Except Nat Loc :=
  check f part core u (slotOf a) (offOf a) align size

/-! ### Numeric flags (08 R250, R251) -/

/-- The key of the flag set of a sub-core (`unit` core × 4 + sub-core) or, above 4,096, of an array. -/
def flagKey (unit part : Nat) : Nat := unit * 16 + part
def subFlagKey (gid part : Nat) : Nat := flagKey (gid / 16) part
def arrayFlagKey (core part : Nat) : Nat := flagKey (4096 + core) part

/-- Numeric flags are ORed into a set, with the context that raised them. -/
def raise (f : Fab) (key ctx : Nat) (fl : BitVec 6) : Fab :=
  if fl = 0 then f
  else onCores f fun c => { c with flags := tupd c.flags key { flags := 0, ctx := 0 } fun s =>
    { flags := s.flags ||| fl, ctx := ctx } }

/-! ### Counters: translation and operations on their way (12 R348 to R354) -/

inductive Right where
  | sig | cw | ow | set_ | rd
  deriving DecidableEq, Repr

def Right.bit : Right → Nat
  | .sig => 30 | .cw => 29 | .ow => 28 | .set_ => 27 | .rd => 26

/-- The physical counter of a virtual identifier of a context, if it is mapped with the right (12 R351). -/
def translate (f : Fab) (ctx cid : Nat) (r : Right) : Option Nat :=
  (findCtx f ctx).bind fun c =>
    if cid < c.vcount then
      (tfind f.tab.xlate (ctx * 16384 + cid)).bind fun e =>
        if e.getLsbD 31 && e.getLsbD r.bit then some (e.toNat % 16384) else none
    else none

def noLast : LastOp := { kind := 0, ctx := 0, unit := 0, sub := 0, slot := 0, source := 0 }

def groupLast (gid ctx : Nat) : LastOp :=
  { kind := 1, ctx := ctx, unit := coreOfGid gid, sub := subOfGid gid, slot := slotOfGid gid, source := 0 }

/-- A unit's operation as SYNC_DBG_LAST shows it: 2 array, 3 copy engine, 4 routing engine, 6 command. -/
def unitLast (kind ctx unit : Nat) : LastOp := { noLast with kind := kind, ctx := ctx, unit := unit }

def sendCnt (f : Fab) (phys : Nat) (kind : CntKind) (n : Nat) (src : LastOp) (reply : CntReply := .none)
    (stamp : Option (Nat × Nat) := none) : Fab :=
  send f (.cnt { phys := phys, kind := kind, n := n, src := src, reply := reply, stamp := stamp })

end Sys2Proof.Machine
end

