-- ==== Sys2Proof/Machine/Links.lean ====
section
/-!
DEFINITION. Links.lean: what leaves the device over the tether link (15) and the Glinen ports (16): the formats of flits and
frames, tags and outstanding tables, credits, routes, and where acknowledgements and data go.
-/
namespace Sys2Proof

/-! ### The fields of flits (15 R423) and frames (16 R451) -/

def Flit.ty (f : Flit) : Nat := Machine.fld f.w0.toNat 56 8
def Flit.len (f : Flit) : Nat := Machine.fld f.w0.toNat 52 4
def Flit.act (f : Flit) : Nat := Machine.fld f.w0.toNat 50 2
def Flit.part (f : Flit) : Nat := Machine.fld f.w0.toNat 46 4
def Flit.status (f : Flit) : Nat := Machine.fld f.w0.toNat 42 4
def Flit.hint (f : Flit) : Nat := Machine.fld f.w0.toNat 40 2
def Flit.tag (f : Flit) : Nat := Machine.fld f.w0.toNat 28 12
def Flit.target (f : Flit) : Nat := Machine.fld f.w0.toNat 18 10
def Flit.code (f : Flit) : Nat := Machine.fld f.w3.toNat 32 32
def Flit.sub (f : Flit) : Nat := Machine.fld f.w3.toNat 0 8

def Frame.ty (f : Frame) : Nat := Machine.fld f.w0.toNat 56 8
def Frame.vc (f : Frame) : Nat := Machine.fld f.w0.toNat 54 2
def Frame.hops (f : Frame) : Nat := Machine.fld f.w0.toNat 46 8
def Frame.len (f : Frame) : Nat := Machine.fld f.w0.toNat 42 4
def Frame.hint (f : Frame) : Nat := Machine.fld f.w0.toNat 40 2
def Frame.target (f : Frame) : Nat := Machine.fld f.w0.toNat 30 10
def Frame.spart (f : Frame) : Nat := Machine.fld f.w0.toNat 26 4
def Frame.status (f : Frame) : Nat := Machine.fld f.w0.toNat 22 4
def Frame.tag (f : Frame) : Nat := Machine.fld f.w0.toNat 0 12
def Frame.src (f : Frame) : Nat := Machine.fld f.w1.toNat 32 32
def Frame.dst (f : Frame) : Nat := Machine.fld f.w1.toNat 0 32
def Frame.epoch (f : Frame) : Nat := Machine.fld f.w2.toNat 56 8
def Frame.slot (f : Frame) : Nat := Machine.fld f.w2.toNat 32 16
def Frame.off (f : Frame) : Nat := Machine.fld f.w3.toNat 0 48
def Frame.xfer (f : Frame) : Nat := Machine.fld f.w4.toNat 32 16
def Frame.masked (f : Frame) : Bool := f.w4.getLsbD 31
def Frame.a64 (f : Frame) : Bool := f.w4.getLsbD 23
def Frame.aop (f : Frame) : Nat := Machine.fld f.w4.toNat 16 5
def Frame.bytes (f : Frame) : Nat := Machine.fld f.w4.toNat 0 10
def Frame.code (f : Frame) : Nat := Machine.fld f.w7.toNat 0 32

/-- The bits of a frame that must be zero (16 R451). -/
def Frame.reserved (f : Frame) : Bool :=
  Machine.fld f.w0.toNat 12 10 == 0 && Machine.fld f.w2.toNat 48 8 == 0 && Machine.fld f.w2.toNat 0 32 == 0 && Machine.fld f.w3.toNat 48 16 == 0 &&
  Machine.fld f.w4.toNat 48 16 == 0 && Machine.fld f.w4.toNat 24 7 == 0 && Machine.fld f.w4.toNat 21 2 == 0 && Machine.fld f.w4.toNat 10 6 == 0 &&
  Machine.fld f.w7.toNat 32 32 == 0

def Frame.withTag (f : Frame) (tag : Nat) : Frame := { f with w0 := f.w0 ||| BitVec.ofNat 64 tag }

end Sys2Proof

namespace Sys2Proof.Machine

/-! ### Flits -/


/-- A flit that the device sends. -/
def upFlit (ty part status tag : Nat) (addr data : Word64) (code sub : Nat) (bytes : List Byte) : Flit :=
  { w0 := BitVec.ofNat 64 (ty * 2 ^ 56 + ceilDiv bytes.length 32 * 2 ^ 52 + part * 2 ^ 46 + status * 2 ^ 42 + tag * 2 ^ 28)
    w1 := addr, w2 := data, w3 := BitVec.ofNat 64 (code * 2 ^ 32 + sub)
    data := bytes ++ zeros (ceilDiv bytes.length 32 * 32 - bytes.length) }

/-- The flit leaves on an attachment. -/
def sendFlit (f : Fab) (att : Nat) (fl : Flit) : Fab := { f with sent := f.sent ++ [.flit att fl] }

/-- A response leaves: its tag is free again (15 R425). -/
def sendRsp (f : Fab) (att : Nat) (fl : Flit) : Fab :=
  sendFlit (onLink f fun l => { l with downTags := l.downTags.erase (att, fl.tag) }) att fl

/-- A response to a downstream request, held back while the attachment retrains (15 R438). While the link is down the request has been
discarded, and nothing is sent (15 R439). -/
def respond (f : Fab) (att : Nat) (req : Flit) (ty status : Nat) (data : Word64) (code sub : Nat) (bytes : List Byte) :
    Fab :=
  if f.link.downTags.contains (att, req.tag) then
    let f := onLink f fun l => { l with dma := tdel l.dma (att * 4096 + req.tag) }
    let fl := upFlit ty req.part status req.tag req.w1 data code sub bytes
    if f.link.retraining.contains att then onLink f fun l => { l with outWait := l.outWait ++ [(att, fl)] } else sendRsp f att fl
  else f

/-- A request is answered with STATUS 1, or 2 with a code. A response that carries data units has as many as the request asked for, and what
they hold is open (15 R424; log 71). -/
def refuseReq (f : Fab) (att : Nat) (req : Flit) (ty status code : Nat) : Fab :=
  let n := if ty = 0x90 then 4 else if ty ≠ 0x83 then 0 else if req.ty = 0x03 then max 1 (min 8 req.sub) else 1
  respond (spend f (32 * n)) att req ty status 0 code 0 (freeBytes f.free (32 * n))

/-- The lowest free upstream tag of an attachment, if fewer than 1,024 requests are outstanding (15 R425). -/
def freeTag (f : Fab) (att : Nat) : Option Nat :=
  (List.range 1024).find? fun t => (tfind f.link.upReq (att * 4096 + t)).isNone

def withTag (fl : Flit) (tag : Nat) : Flit := { fl with w0 := fl.w0 ||| BitVec.ofNat 64 (tag * 2 ^ 28) }

def isMerge : UpWhat → Bool
  | .merge _ _ | .merged _ => true
  | _ => false

/-- Two accesses that change tether-side memory, of which one merges bytes into sectors that the other changes: they are made one after the
other (05 R156; log 24). -/
def sidesMeet (a b : Flit × UpWhat) : Bool :=
  let units := fun (x : Flit) => if x.ty = 0xA0 then x.sub else max 1 x.len
  let changes := fun (x : Flit × UpWhat) => isMerge x.2 || x.1.ty == 0xA1 || x.1.ty == 0xA2
  (isMerge a.2 || isMerge b.2) && changes a && changes b && a.1.part == b.1.part &&
  decide (a.1.w1.toNat / 32 < b.1.w1.toNat / 32 + units b.1) && decide (b.1.w1.toNat / 32 < a.1.w1.toNat / 32 + units a.1)

/-- Send the first upstream requests that may go, in order: a tag is free, the attachment is not retraining, and nothing sent or waiting before
it changes the sectors that it merges into. `held` are the requests passed over. -/
def pumpUps (f : Fab) : (held : List (Flit × UpWhat)) → List (Nat × Flit × UpWhat) → Fab
  | _, [] => f
  | held, r :: rs =>
    let busy := (held ++ f.link.upReq.map fun x => (x.2.fl, x.2.what)).any (sidesMeet r.2)
    match if busy || f.link.retraining.contains r.1 then none else freeTag f r.1 with
    | none => pumpUps f (held ++ [r.2]) rs
    | some t =>
      let f := onLink f fun l => { l with
        upReq := tput l.upReq (r.1 * 4096 + t) { what := r.2.2, fl := r.2.1, sent := l.upTime }, upWait := l.upWait.erase r }
      pumpUps (sendFlit f r.1 (withTag r.2.1 t)) held rs

/-- Send every upstream request that waits and may go. -/
def pumpUp (f : Fab) : Fab := pumpUps f [] f.link.upWait

/-- An upstream request from a sail die, on the attachment that 15 R422 pairs with it. -/
def upRequest (f : Fab) (die : Nat) (fl : Flit) (what : UpWhat) : Fab :=
  pumpUp (onLink f fun l => { l with upWait := l.upWait ++ [(die % 2, fl, what)] })

/-! ### Frames -/


/-- The fields of a request to a peer's slot; KIND_DATA names the peer, its slot and the slot's EPOCH (05 R128, 13 R394). -/
def reqFrame (k : Keel) (ty part hint target : Nat) (kdata : Word64) (off nbytes : Nat) (w4 w5 w6 : Nat)
    (data : List Byte) : Frame :=
  let im := k.image.bind (·.routes)
  let hop := (im.map (·.hopLimit)).getD 0
  let self := (im.map (·.self)).getD 0
  { w0 := BitVec.ofNat 64 (ty * 2 ^ 56 + hop * 2 ^ 46 + ceilDiv data.length 64 * 2 ^ 42 + hint * 2 ^ 40 + target * 2 ^ 30
      + part * 2 ^ 26)
    w1 := BitVec.ofNat 64 (self * 2 ^ 32 + fld kdata.toNat 0 32)
    w2 := BitVec.ofNat 64 (fld kdata.toNat 48 8 * 2 ^ 56 + fld kdata.toNat 32 16 * 2 ^ 32)
    w3 := BitVec.ofNat 64 off
    w4 := BitVec.ofNat 64 (w4 + nbytes)
    w5 := BitVec.ofNat 64 w5, w6 := BitVec.ofNat 64 w6, w7 := 0
    data := data ++ zeros (ceilDiv data.length 64 * 64 - data.length) }

/-- The mask of present bytes, byte 0 in bit 0. -/
def maskNat : List (Option Byte) → Nat
  | [] => 0
  | b :: bs => (if b.isSome then 1 else 0) + 2 * maskNat bs

/-- One masked WR of a line (16 R453). -/
def wrFrame (k : Keel) (part hint target : Nat) (kdata : Word64) (lineOff : Nat) (bs : List (Option Byte)) : Frame :=
  reqFrame k 0x01 part hint target kdata lineOff 128 (2 ^ 31) (maskNat (bs.take 64)) (maskNat (bs.drop 64))
    (bs.map (·.getD 0))

def rdFrame (k : Keel) (part : Nat) (kdata : Word64) (off n : Nat) : Frame := reqFrame k 0x02 part 0 0 kdata off n 0 0 0 []

def atomFrame (k : Keel) (part : Nat) (kdata : Word64) (off op size : Nat) (a b : Word64) : Frame :=
  reqFrame k 0x03 part 0 0 kdata off size ((if size = 8 then 2 ^ 23 else 0) + op % 32 * 2 ^ 16) 0 0
    (bytesLE 8 a.toNat ++ if op = 0x11 then bytesLE 8 b.toNat else [])

def sigFrame (k : Keel) (part : Nat) (kdata : Word64) (off cid n : Nat) : Frame :=
  reqFrame k 0x04 part 0 0 kdata off 0 0 (n * 2 ^ 32 + 2 ^ 15 + cid) 0 []

/-- A response (16 R452): class 1, so virtual channel 2. -/
def respFrame (k : Keel) (ty : Nat) (req : Frame) (status code : Nat) (data : List Byte) : Frame :=
  let im := k.image.bind (·.routes)
  let hop := (im.map (·.hopLimit)).getD 0
  let self := (im.map (·.self)).getD 0
  { w0 := BitVec.ofNat 64 (ty * 2 ^ 56 + 2 * 2 ^ 54 + hop * 2 ^ 46 + ceilDiv data.length 64 * 2 ^ 42 + status * 2 ^ 22
      + req.tag)
    w1 := BitVec.ofNat 64 (self * 2 ^ 32 + req.src)
    w2 := 0, w3 := 0, w4 := BitVec.ofNat 64 data.length, w5 := 0, w6 := 0, w7 := BitVec.ofNat 64 code
    data := data ++ zeros (ceilDiv data.length 64 * 64 - data.length) }

/-! ### Ports and routes (16 R443 to R449, R460) -/

/-- A port at reset: down, 16 KiB of credits on each virtual channel (log 10). -/
def Port.fresh : Port :=
  { state := 0, locked := 0, corrected := 0, replayed := 0, discarded := 0, retrains := 0, txq := [], sent := [],
    unitsSent := 0, ackSeq := 4095, rxSeq := 0, credits := [(0, 256), (1, 256), (2, 256), (3, 256)], uncorrectable := [],
    outst := [], waitq := [], inReq := [], rx := [] }

def RouteSt.fresh : RouteSt := { down := false, timer := 0, downAt := 0, failed := 0, late := 0 }

def portOf (f : Fab) (n : Nat) : Port := tgetD f.gln.ports n Port.fresh
def modPort (f : Fab) (n : Nat) (g : Port → Port) : Fab := onGln f fun l => { l with ports := tupd l.ports n Port.fresh g }
def routeSt (f : Fab) (r : Nat) : RouteSt := tgetD f.gln.routes r RouteSt.fresh
def modRoute (f : Fab) (r : Nat) (g : RouteSt → RouteSt) : Fab :=
  onGln f fun l => { l with routes := tupd l.routes r RouteSt.fresh g }

/-- 8-bit and 16-bit counters that saturate. -/
def sat (max n : Nat) : Nat := min max n

def discardFrame (f : Fab) (port : Nat) : Fab := modPort f port fun p => { p with discarded := sat 255 (p.discarded + 1) }

/-- Whether a route entry is valid and its PREFIX matches an address in its PLEN highest levels (16 R447). -/
def matchEntry (e : Word64) (dst : Nat) : Bool :=
  e.getLsbD 63 && (let n := 8 * (4 - fld e.toNat 56 3); decide (fld e.toNat 0 32 / 2 ^ n = dst / 2 ^ n))

/-- The position and entry of the longest match. -/
def longest : (i : Nat) → List Word64 → (dst : Nat) → Option (Nat × Word64)
  | _, [], _ => none
  | i, e :: es, dst =>
    let r := longest (i + 1) es dst
    if matchEntry e dst then
      match r with
      | some (j, e') => if fld e'.toNat 56 3 > fld e.toNat 56 3 then some (j, e') else some (i, e)
      | none => some (i, e)
    else r

def originOf (k : Keel) : List Word64 := ((k.image.bind (·.routes)).map (·.origin)).getD []
def routeOf (k : Keel) (dst : Nat) : Option (Nat × Word64) := longest 0 (originOf k) dst
def entryPort (e : Word64) : Nat := fld e.toNat 59 3

/-- 02 R44, 16 R443: the codeword that carries a unit. -/
def seqOfUnit (u : Nat) : Nat := u / 10 % 4096

/-- Codewords that a port has begun and that are not acknowledged, its last unit place being `u`. -/
def unacked (p : Port) (u : Nat) : Nat := (seqOfUnit u + 4096 - p.ackSeq) % 4096

/-- Send the frames of a port's transmit queue, in order on each virtual channel, while the port is up and the credits of
the channel cover all units of a frame and no more than 2,048 codewords are unacknowledged (16 R444). A sent frame stays in the replay store,
with the codeword of its last unit, until that is acknowledged; its age counts on from its entry into the queue (16 R462). -/
def pumpTx (port : Nat) (f : Fab) : Fab :=
  if (portOf f port).state ≠ 2 then f
  else ((portOf f port).txq.foldl (fun (st : List Nat × Fab) (q : Nat × Frame) =>
    let (blocked, f) := st
    let p := portOf f port
    let fr := q.2
    let units := 1 + fr.len
    if blocked.contains fr.vc then st
    else if unacked p (p.unitsSent + fr.len) > 2048 then st
    else if tgetD p.credits fr.vc 0 < units then (fr.vc :: blocked, f)
    else
      let f := modPort f port fun p => { p with
        txq := p.txq.erase q
        sent := p.sent ++ [(q.1, seqOfUnit (p.unitsSent + fr.len), fr)]
        unitsSent := p.unitsSent + units
        credits := tupd p.credits fr.vc 0 (· - units) }
      (blocked, { f with sent := f.sent ++ [.frame port fr] })) ([], f)).2

def enqueue (k : Keel) (f : Fab) (port : Nat) (fr : Frame) : Fab :=
  pumpTx port (modPort f port fun p => { p with txq := p.txq ++ [(k.time, fr)] })

/-- The lowest free outstanding entry of a port (16 R460). -/
def freeEntry (p : Port) : Option Nat := (List.range 4096).find? fun t => (tfind p.outst t).isNone

/-- The outstanding entries that a port holds for a route. -/
def outstanding (f : Fab) (port route : Nat) : Table OutEntry := (portOf f port).outst.filter fun x => x.2.route == route

/-- 16 R461: a route's timer starts anew: at a response, and when its first outstanding entry is taken. -/
def restartTimer (k : Keel) (f : Fab) (route : Nat) : Fab := modRoute f route fun s => { s with timer := k.time }

/-- Give waiting requests their outstanding entries and queue them, in order. -/
def pumpOut (k : Keel) (port : Nat) (f : Fab) : Fab :=
  (portOf f port).waitq.foldl (fun f (r : Nat × Frame × OutWhat) =>
    match freeEntry (portOf f port) with
    | none => f
    | some t =>
      let f := if (outstanding f port r.1).isEmpty then restartTimer k f r.1 else f
      let f := modPort f port fun p => { p with
        outst := tput p.outst t { route := r.1, what := r.2.2 }, waitq := p.waitq.erase r }
      enqueue k f port (r.2.1.withTag t)) f

/-- A response leaves by the longest match of the origin table; with no match it goes nowhere (16 R448). -/
def sendResponse (k : Keel) (f : Fab) (fr : Frame) : Fab :=
  match routeOf k fr.dst with
  | none => f
  | some (_, e) => enqueue k f (entryPort e) fr

/-! ### Where data and acknowledgements go -/

/-- Give a part of a read its data or its fault. -/
def fillPart (f : Fab) (job part : Nat) (data : List Byte) (fault : Nat) : Fab :=
  { f with jobs := tmod f.jobs job fun j => { j with parts := j.parts.mapIdx fun i p =>
      if i = part ∧ p.data.isNone then { p with data := some (data.take p.len), fault := fault } else p } }

/-- Give a lane of a load its data or its fault. -/
def fillPiece (f : Fab) (load piece : Nat) (data : List Byte) (fault : Nat) : Fab :=
  onCores f fun c => { c with loads := tmod c.loads load fun l => { l with pieces := l.pieces.mapIdx fun i p =>
    if i = piece ∧ p.data.isNone then { p with data := some data, fault := fault } else p } }

/-- The transfer of an XWR open at a port (16 R456). -/
def modXfer (f : Fab) (port id : Nat) (g : RxXfer → RxXfer) : Fab :=
  modPort f port fun p => { p with rx := p.rx.map fun r => if r.id = id then g r else r }

def modRoutingRun (f : Fab) (cluster run : Nat) (g : RtRun → RtRun) : Fab :=
  onEng f fun e => { e with rt := tmod e.rt cluster fun r => { r with runs := r.runs.map fun x => if x.id = run then g x else x } }

/-- A write is acknowledged at its destination, or has failed with a code (05 R155). -/
def ackWrite (k : Keel) (f : Fab) (sink : AckSink) (fault : Nat) : Fab :=
  match sink with
  | .store core sub entry => send f (.storeAck core sub entry (fault == 0))
  | .copy cluster desc => send f (.copyAck cluster desc fault)
  | .route cluster run => modRoutingRun f cluster run fun r => { r with
      writesOut := r.writesOut - 1, fault := if r.fault = 0 then fault else r.fault }
  | .dma att tag =>
    match tfind f.link.dma (att * 4096 + tag) with
    | none => f
    | some d =>
      let d := { d with left := d.left - 1, fault := if d.fault = 0 then fault else d.fault }
      if d.left = 0 then respond f att d.f 0x84 (if d.fault = 0 then 0 else 2) 0 d.fault 0 []
      else onLink f fun l => { l with dma := tput l.dma (att * 4096 + tag) d }
  | .glinen port req =>
    match (portOf f port).inReq.find? (·.1 == req) with
    | none => f
    | some (_, left, first) =>
      let first := if first = 0 then fault else first
      if left ≤ 1 then
        sendResponse k (modPort f port fun p => { p with inReq := p.inReq.filter (·.1 != req) })
          (respFrame k 0x81 req (if first = 0 then 0 else 1) first [])
      else modPort f port fun p => { p with
        inReq := p.inReq.map fun r => if r.1 == req then (req, left - 1, first) else r }
  | .xfer port _ id => modXfer f port id fun r => { r with
      left := r.left - 1, refused := if r.refused = 0 then fault else r.refused }
  | .event ctx write die => send f (.eventAck ctx write die fault)
  | .notify fence epoch die => send f (.notifyAck fence epoch die)
  | .program p => onTab f fun t => { t with progs := tmod t.progs p fun x => { x with left := x.left - 1 } }
  | .cmd q j => actCmd f q j fault
  | .cond load piece => if fault = 0 then fillPiece f load piece [1] 0 else fillPiece f load piece [] fault
  | .home | .none => f

/-- An atomic's old value arrives, or its fault. -/
def ackAtomic (k : Keel) (f : Fab) (sink : AtomicSink) (old : List Byte) (fault : Nat) : Fab :=
  match sink with
  | .load load piece => fillPiece f load piece old fault
  | .dma att tag =>
    match tfind f.link.dma (att * 4096 + tag) with
    | none => f
    | some d => if fault = 0 then respond f att d.f 0x83 0 0 0 0 (old ++ zeros (32 - old.length)) else refuseReq f att d.f 0x83 2 fault
  | .glinen _ req => sendResponse k f (respFrame k 0x82 req (if fault = 0 then 0 else 1) fault
      (if fault = 0 then old ++ zeros (64 - old.length) else []))

/-- A write to tether-side memory names whole 32-byte sectors (15 R424): its first sector, their number, the bytes that it covers in
them, and whether it covers every sector whole that it touches. -/
def sideRow (w : AgentWrite) : Nat × Nat × List (Option Byte) × Bool :=
  let s0 := w.loc.off / 32
  let n := (w.loc.off + w.bytes.length - 1) / 32 - s0 + 1
  let row := placed (32 * n) (w.loc.off % 32) w.bytes
  (s0, n, row, (List.range n).all fun i => ((row.drop (32 * i)).take 32).all (·.isSome) || ((row.drop (32 * i)).take 32).all (·.isNone))

/-- The MEM_WR of a write, with the sectors' other bytes from `old`. -/
def sideWrite (w : AgentWrite) (old : List Byte) : Flit :=
  let r := sideRow w
  let mask := (List.range r.2.1).foldl (fun a i => if ((r.2.2.1.drop (32 * i)).take 32).any (·.isSome) then a + 2 ^ i else a) 0
  upFlit 0xA1 w.loc.part 0 0 (BitVec.ofNat 64 (r.1 * 32)) (BitVec.ofNat 64 mask) 0 0 (overlay old r.2.2.1)

/-- A request over the tether link ends: with data, or with a code. The sectors that a write merges into have been read: they are written
before any other request. -/
def endUp (k : Keel) (f : Fab) (what : UpWhat) (data : List Byte) (fault : Nat) : Fab :=
  match what with
  | .job j p => fillPart f j p data fault
  | .piece l p => fillPiece f l p data fault
  | .write s | .merged s => ackWrite k f s fault
  | .merge die w =>
    if fault ≠ 0 then ackWrite k f w.sink fault
    else onLink f fun l => { l with upWait := (die % 2, sideWrite w data, .merged w.sink) :: l.upWait }
  | .atomic s => ackAtomic k f s data fault
  | .snoopInv line => send f (.invAck line 4 none)
  | .snoopFwd line _ => send f (.fwdNotify line 4)

def endOut (k : Keel) (f : Fab) (what : OutWhat) (data : List Byte) (fault : Nat) : Fab :=
  match what with
  | .job j p => fillPart f j p data fault
  | .piece l p => fillPiece f l p data fault
  | .write s | .signal s => ackWrite k f s fault
  | .atomic s => ackAtomic k f s data fault
  | .xferCopy c d => send f (.copyAck c d fault)
  | .xferRoute c r => modRoutingRun f c r fun x => { x with
      xfersOut := x.xfersOut - 1, fault := if x.fault = 0 then fault else x.fault }

/-- A place that a lost link or a route that is down puts out of reach (15 R439, 11 R345). -/
def lostPlace (k : Keel) (f : Fab) (l : Loc) : Bool :=
  if l.kind = 3 then !linkUp f
  else l.kind == 4 && ((routeOf k (fld l.kdata.toNat 0 32)).map fun r => (routeSt f r.1).down).getD true

/-- A kind 3 request from a die: it fails with "peer lost" while the link is not up (15 R439). -/
def askTether (k : Keel) (f : Fab) (die : Nat) (fl : Flit) (what : UpWhat) : Fab :=
  if linkUp f then upRequest f die fl what else endUp k f what [] 0x0501

/-- A request to a peer (16 R448, R460, R461): it fails with "peer lost" where no route matches or the route is down. -/
def askPeer (k : Keel) (f : Fab) (fr : Frame) (what : OutWhat) : Fab :=
  match routeOf k fr.dst with
  | none => endOut k f what [] 0x0501
  | some (r, e) =>
    if (routeSt f r).down then
      endOut k (modRoute f r fun s => { s with failed := sat 65535 (s.failed + 1) }) what [] 0x0501
    else pumpOut k (entryPort e) (modPort f (entryPort e) fun p => { p with waitq := p.waitq ++ [(r, fr, what)] })

end Sys2Proof.Machine
end

