-- ==== Sys2Proof/Machine/Coherence.lean ====
section
/-!
DEFINITION. Coherence.lean: the L2 of each sail die, the eviction buffers, the directory at the home slices and the
transactions it runs (10 R303 to R313, 11 R318 to R329), and the reservations of 11 R341 to R343.
-/
namespace Sys2Proof.Machine

/-! ### Copies -/

def findL2 (m : Mem) (die : Nat) (l : Line) : Option L2Copy := m.l2.find? fun c => c.die == die && c.line == l

/-- The newest entry of a die's eviction buffers for a line. -/
def findEvb (m : Mem) (die : Nat) (l : Line) : Option Evicting := (m.evb.filter fun e => e.die == die && e.line == l).getLast?
def findDir (m : Mem) (l : Line) : Option DirEntry := m.dir.find? (·.line == l)
def delL2 (m : Mem) (die : Nat) (l : Line) : Mem := { m with l2 := m.l2.filter fun c => !(c.die == die && c.line == l) }

/-- The clean entries of a line leave a die's eviction buffers; dirty ones stay until their write-back is acknowledged. -/
def delClean (m : Mem) (die : Nat) (l : Line) : Mem :=
  { m with evb := m.evb.filter fun e => e.dirtyLine || !(e.die == die && e.line == l) }

/-- The first element that passes a test leaves a list. -/
def dropFirst {α : Type} (p : α → Bool) : List α → List α
  | [] => []
  | x :: xs => if p x then xs else x :: dropFirst p xs

/-- The last element that passes a test leaves a list. -/
def dropLast {α : Type} (p : α → Bool) (xs : List α) : List α := (dropFirst p xs.reverse).reverse

def modL2 (m : Mem) (die : Nat) (l : Line) (g : L2Copy → L2Copy) : Mem :=
  { m with l2 := m.l2.map fun c => if c.die == die && c.line == l then g c else c }
def modDir (f : Fab) (l : Line) (g : DirEntry → DirEntry) : Fab :=
  onMem f fun m => { m with dir := m.dir.map fun e => if e.line == l then g e else e }
def delDir (f : Fab) (l : Line) : Fab := onMem f fun m => { m with dir := m.dir.filter (·.line != l) }

/-- The next use stamp: larger is more recent. -/
def tick (m : Mem) : Mem := { m with use := m.use + 1 }

/-- What memory holds of a line, with its poison marks (10 R288). -/
def memLine (m : Mem) (l : Line) : LineData :=
  { bytes := memBytes m l.kind l.part (l.idx * 128) 128, valid := 0xF, dirty := 0
    poison := if l.kind = 0 then
        (List.range 4).foldl (fun b i => if poisonedAt m l.part (l.idx * 128 + 32 * i) then b ||| BitVec.ofNat 4 (2 ^ i) else b) 0
      else 0 }

def isDirty (st : LState) (d : LineData) : Bool := st == .M || st == .O || d.dirty != 0

/-- The bytes of a line's sectors that a mask picks. -/
def sectorMask (d : LineData) (mask : BitVec 4) : List (Option Byte) :=
  d.bytes.mapIdx fun i b => if mask.getLsbD (i / 32) then some b else none

/-- A write-back of the dirty sectors at the line's controller: poisoned ones are skipped for LPDDR6 (10 R294), and stay marked in near
memory (10 R288). -/
def writeBack (m : Mem) (l : Line) (d : LineData) : Mem :=
  if l.kind = 0 then
    let m := memWrite m 0 l.part (l.idx * 128) (sectorMask d d.dirty)
    (List.range 4).foldl (fun m i =>
      if d.dirty.getLsbD i && d.poison.getLsbD i && !poisonedAt m l.part (l.idx * 128 + 32 * i) then
        { m with poison := m.poison ++ [sectorKey l.part (l.idx * 128 + 32 * i)] } else m) m
  else memWrite m 1 l.part (l.idx * 128) (sectorMask d (d.dirty &&& ~~~d.poison))

/-- The home writes a line's dirty sectors back: the write stands at the line's controller, from whose queue every later read is served (05
R155), until it is granted (10 R300). Poisoned sectors are skipped, and marked in near memory. -/
def homeWrite (f : Fab) (l : Line) (d : LineData) : Fab :=
  let good := d.dirty &&& ~~~d.poison
  let f := onMem f fun m => writeBack m l { d with dirty := d.dirty &&& (if l.kind = 0 then d.poison else 0) }
  if good = 0 then f
  else send f (.uncWrite { loc := { kind := l.kind, part := l.part, off := l.idx * 128, core := 0, kdata := 0, c := true }
                           bytes := sectorMask d good, hint := 0, target := 0, sink := .home })

/-- The line that a request at a memory controller reads or writes. -/
def memLineOf : Msg → Option Line
  | .memRead loc _ _ => some (lineOf loc)
  | .uncWrite w => some (lineOf w.loc)
  | .farAt a => some (lineOf a.loc)
  | .wb l _ _ _ => some l
  | _ => none

/-- A write of a home to a line that stands at the controller. -/
def homeWriteTo (l : Line) : Msg → Bool
  | .uncWrite w => w.sink == .home && lineOf w.loc == l
  | _ => false

/-- What memory holds of a line with the home's writes that stand at its controller. -/
def memNow (f : Fab) (l : Line) : LineData :=
  f.net.foldl (fun d m => match m.2 with
    | .uncWrite w => if homeWriteTo l m.2 then { d with bytes := overlay d.bytes (placed 128 (w.loc.off % 128) w.bytes) } else d
    | _ => d) (memLine f.mem l)

/-- Bytes merged into a line from position `at_`: the touched sectors become dirty, a wholly written one loses its poison. -/
def mergeLine (d : LineData) (at_ : Nat) (bs : List (Option Byte)) : LineData :=
  let row := placed 128 at_ bs
  let touched := (List.range 4).foldl (fun b i =>
    if ((row.drop (32 * i)).take 32).any (·.isSome) then b ||| BitVec.ofNat 4 (2 ^ i) else b) (0 : BitVec 4)
  let whole := (List.range 4).foldl (fun b i =>
    if ((row.drop (32 * i)).take 32).all (·.isSome) then b ||| BitVec.ofNat 4 (2 ^ i) else b) (0 : BitVec 4)
  { bytes := overlay d.bytes row, valid := d.valid ||| whole, dirty := d.dirty ||| touched, poison := d.poison &&& ~~~whole }

/-! ### Error counts (10) -/

def MemErr.none : MemErr :=
  { nmCe := 0, nmUe := 0, refetch := 0, lost := 0, valid := false, kind := 0, off := 0 }

def countErr (f : Fab) (die part : Nat) (g : MemErr → MemErr) : Fab :=
  { f with memErr := tupd f.memErr (die * 16 + part) MemErr.none g }

/-! ### Reservations (04 R117 to R121, 11 R341 to R343) -/

/-- Whether a reservation's granule meets bytes of a place. -/
def Resv.meets (r : Resv) (l : Loc) (len : Nat) : Bool :=
  r.loc.kind == l.kind && r.loc.part == l.part && r.loc.core == l.core &&
  decide (r.loc.off < l.off + len) && decide (l.off < r.loc.off + r.gran)

/-- A store to bytes of a place ends the reservations that meet them, but those that `keep` names. -/
def loseResv (f : Fab) (l : Loc) (len : Nat) (keep : Resv → Bool) : Fab :=
  onMem f fun m => { m with resv := m.resv.filter fun r => !r.meets l len || keep r }

def noKeep : Resv → Bool := fun _ => false

/-- The loop-mode marks of a line on a die are lost with the die's copy in E or M (11 R341). -/
def loseMarks (f : Fab) (die : Nat) (l : Line) : Fab :=
  onMem f fun m => { m with resv := m.resv.filter fun r =>
    r.granule || r.loc.kind > 1 || dieOfCore (coreOfGid r.gid) != die || lineOf r.loc != l }

/-! ### Working beats of the memory system (02 R36) -/

/-- The 2^w-byte blocks that extents meet, each once. -/
def blocksOf (w : Nat) (xs : List (Loc × Nat)) : List Loc :=
  (xs.flatMap fun x => (List.range (if x.2 = 0 then 0 else (x.1.off + x.2 - 1) / 2 ^ w - x.1.off / 2 ^ w + 1)).map fun i =>
    { x.1 with off := x.1.off / 2 ^ w + i }).eraseDups

/-- A memory instruction takes the thread pipe of its core for a beat for each 32-byte sector that it touches (05 R140). -/
def pipeBeats (f : Fab) (core : Nat) (xs : List (Loc × Nat)) : Fab := workUp f 2 core (blocksOf 5 xs).length

/-- An engine takes the wide port of a core's local memory for a beat for each 512-byte block (05 R135). -/
def wideBeats (f : Fab) (xs : List (Loc × Nat)) : Fab :=
  (blocksOf 9 (xs.filter (·.1.kind == 2))).foldl (fun f l => workUp f 2 l.core 1) f

/-- A tag-and-data access of an L2 slice. -/
def sliceBeat (f : Fab) (die slice : Nat) : Fab := workUp f 4 (48 * die + slice) 1

/-- The access of a line in its slice of a die. -/
def lineBeat (k : Keel) (f : Fab) (die : Nat) (l : Line) : Fab := sliceBeat f die (homeOf k l).slice

/-! ### Losing a line (10 R311 to R313) -/

/-- Near memory is marked poisoned over a whole line. -/
def poisonLine (m : Mem) (l : Line) : Mem :=
  (List.range 4).foldl (fun m i =>
    let key := sectorKey l.part (l.idx * 128 + 32 * i)
    if m.poison.contains key then m else { m with poison := m.poison ++ [key] }) m

/-- A die's copy of a line leaves the directory's record. -/
def forget (f : Fab) (die : Nat) (l : Line) : Fab :=
  modDir f l fun e => { e with
    present := e.present &&& ~~~(BitVec.ofNat 5 (2 ^ die)), owner := if e.owner = some die then none else e.owner
    slices := tdel e.slices die }

/-- A dirty line is lost (10 R312): its memory is poisoned (near memory) or keeps its older value, the loss is recorded on a die, and the
reset of its partition is due. The line is remembered until that reset has ended, so that no store of the partition is merged into what
is left (10 R313). -/
def recordLoss (f : Fab) (die : Nat) (l : Line) : Fab :=
  let f := onMem f fun m => { (if l.kind = 0 then poisonLine m l else m) with
    fatal := if m.fatal.contains l.part then m.fatal else m.fatal ++ [l.part]
    lost := if m.lost.contains l then m.lost else m.lost ++ [l] }
  countErr f die l.part fun e => { e with lost := min 65535 (e.lost + 1), valid := true, kind := l.kind, off := l.idx * 128 }

/-- A die's dirty copy of a line is lost, and a write-back of it that is on its way. -/
def loseLine (f : Fab) (die : Nat) (l : Line) : Fab :=
  let f := forget (onMem f fun m => { delL2 m die l with evb := m.evb.filter fun e => !(e.die == die && e.line == l) }) die l
  let f := { f with net := f.net.filter fun m => match m.2 with
    | .wb l' a _ _ => !(l' == l && a == die)
    | _ => true }
  recordLoss f die l

/-- An entry is displaced from an eviction buffer: the clean eviction leaves for the home. -/
def displace (f : Fab) (e : Evicting) : Fab := send (onMem f fun m => { m with evb := m.evb.erase e }) (.evict e.line e.die)

/-- A copy with a clean error leaves its way; of a sector's error in a way that is locked, the way is remembered, for the line to be fetched
into it again (10 R306, R313). -/
def dropFlawed (f : Fab) (c : L2Copy) (sector : Bool) : Fab :=
  let f := forget (loseMarks (onMem f fun m => delL2 m c.die c.line) c.die c.line) c.die c.line
  if sector && (lockOf f c.die c.line.part).getLsbD c.way then
    onMem f fun m => { m with refetch := m.refetch ++ [{ die := c.die, slice := c.slice, set_ := c.set_, way := c.way, line := c.line }] }
  else f

/-- A parity check of the newest eviction-buffer entry of a line; `bad` where the command says that it finds an error. -/
def entryParity (f : Fab) (die : Nat) (l : Line) (bad : Bool) : Fab × Bool :=
  match findEvb f.mem die l with
  | none => (f, false)
  | some e => if !(bad || e.flaw) then (f, false) else if e.dirtyLine then (loseLine f die l, true) else (displace f e, false)

/-- A parity check of a copy. -/
def copyParity (f : Fab) (c : L2Copy) : ParityFind → Fab × Bool
  | .ok | .evictionEntry => (f, false)
  | .dataSector =>
    if isDirty c.st c.d then (loseLine f c.die c.line, true)
    else (countErr (dropFlawed f c true) c.die c.line.part fun e => { e with refetch := min 65535 (e.refetch + 1) }, false)
  | .tagOrState => if isDirty c.st c.d then (loseLine f c.die c.line, true) else (dropFlawed f c false, false)
  | .stateUnreadable => (loseLine f c.die c.line, true)

/-- The parity check of a use of a die's line: of its eviction-buffer entry where the command says so or no copy stands, else of the
copy, which shows what the command finds, or what an upset has left there. True where the line was lost. -/
def parityOn (f : Fab) (die : Nat) (l : Line) (p : ParityFind) : Fab × Bool :=
  match findL2 f.mem die l with
  | none => entryParity f die l (p == .evictionEntry)
  | some c => if p = .evictionEntry then entryParity f die l true else copyParity f c (if p = .ok then c.flaw else p)

def useCheck (f : Fab) (die : Nat) (l : Line) : Fab := (parityOn f die l .ok).1

/-! ### Placing a line in an L2 (10 R304, R305) -/

inductive Place where
  | noWay
  | wait
  | at_ (way : Nat) (victim : Option L2Copy)
  deriving DecidableEq, Repr

/-- The least recently used copy. -/
def leastUsed : List L2Copy → Option L2Copy
  | [] => none
  | c :: cs => match leastUsed cs with
    | none => some c
    | some c' => if c'.use < c.use then some c' else some c

def dirtyEntries (m : Mem) (die slice : Nat) : Nat :=
  (m.evb.filter fun e => e.die == die && e.slice == slice && e.dirtyLine).length

/-- The way that a fill of a slice takes: for a line that a clean error drove out of a locked way, that way; else an invalid one, a
prefetched line never used, the least recently used line. It waits while a dirty victim finds 32 dirty lines in the eviction buffer. -/
def choose (k : Keel) (f : Fab) (die slice : Nat) (l : Line) : Place :=
  let set_ := (homeOf k l).set_
  let here := f.mem.l2.filter fun c => c.die == die && c.slice == slice && c.set_ == set_
  match f.mem.refetch.find? fun r => r.die == die && r.slice == slice && r.line == l && !(here.any (·.way == r.way)) with
  | some r => .at_ r.way none
  | none =>
    let ways := freeWays k f die l.part
    let used := here.filter fun c => ways.contains c.way
    match ways.find? fun w => !(used.any (·.way == w)) with
    | some w => .at_ w none
    | none =>
      match (leastUsed (used.filter (·.prefetched))).or (leastUsed used) with
      | none => .noWay
      | some v => if isDirty v.st v.d && decide (dirtyEntries f.mem die slice ≥ 32) then .wait else .at_ v.way (some v)

/-- The oldest clean entry of a slice's eviction buffer. -/
def oldestClean (m : Mem) (die slice : Nat) : Option Evicting :=
  m.evb.find? fun e => e.die == die && e.slice == slice && !e.dirtyLine

def bufferFullAt (f : Fab) (die slice : Nat) : Bool :=
  decide ((f.mem.evb.filter fun e => e.die == die && e.slice == slice).length ≥ 32)

/-- A dirty line takes an entry of its slice's eviction buffer, the oldest clean one making room, and its write-back stands in the net
(whether it has been issued shows when the line is used again, log 3). -/
def holdDirty (f : Fab) (e : Evicting) : Fab :=
  let f := if bufferFullAt f e.die e.slice then (match oldestClean f.mem e.die e.slice with | some c => displace f c | none => f) else f
  send (onMem f fun m => { m with evb := m.evb ++ [e] }) (.wb e.line e.die e.slice e.d)

/-- A victim leaves its way: a dirty one holds an entry until its write-back is acknowledged, a clean one takes an entry only while one
is free (10 R305). -/
def evictCopy (f : Fab) (c : L2Copy) : Fab :=
  let f := loseMarks (onMem f fun m => delL2 m c.die c.line) c.die c.line
  let e : Evicting := { die := c.die, slice := c.slice, line := c.line, st := c.st, d := c.d, flaw := c.flaw == .dataSector
                        dirtyLine := isDirty c.st c.d, issued := false }
  if e.dirtyLine then holdDirty f e
  else if bufferFullAt f c.die c.slice then send f (.evict c.line c.die)
  else onMem f fun m => { m with evb := m.evb ++ [e] }

/-- A victim is checked as it leaves its way: one with an error is dropped or lost (10 R311). -/
def evictVictim (f : Fab) (v : L2Copy) : Fab :=
  let f := (copyParity f v v.flaw).1
  if (findL2 f.mem v.die v.line).isSome then evictCopy f v else f

/-- Install a line in the way chosen for it. -/
def install (k : Keel) (f : Fab) (die slice way : Nat) (victim : Option L2Copy) (l : Line) (st : LState) (d : LineData)
    (prefetched : Bool) : Fab :=
  let f := match victim with | some v => evictVictim f v | none => f
  onMem f fun m =>
    let m := tick (delClean m die l)
    { m with
      l2 := m.l2 ++ [{ die := die, slice := slice, set_ := (homeOf k l).set_, way := way, line := l, st := st, d := d,
                       use := m.use, prefetched := prefetched, flaw := .ok }]
      refetch := m.refetch.filter fun r => !(r.die == die && r.line == l) }

/-- A request uses the copy. -/
def touch (m : Mem) (die : Nat) (l : Line) : Mem :=
  let m := tick m
  modL2 m die l fun c => { c with use := m.use, prefetched := false }

/-- The write-back of a buffered line stands in the net and a free value says that the slice has not issued it (log 3). -/
def unissued (f : Fab) (die : Nat) (l : Line) : Bool :=
  (f.net.any fun m => match m.2 with
    | .wb l' a _ _ => l' == l && a == die
    | _ => false) && !(fresh f).getLsbD 0

/-- A request to a line in the eviction buffer installs it again, in a way of its slice (10 R305): a dirty line whose write-back has
not been issued stays dirty, and the write-back is cancelled; one whose write-back has been issued is clean. -/
def reinstall (k : Keel) (f : Fab) (die : Nat) (l : Line) : Fab :=
  let f := useCheck f die l
  match findL2 f.mem die l, findEvb f.mem die l with
  | none, some e => match choose k f die e.slice l with
    | .at_ way v =>
      if !e.dirtyLine then install k f die e.slice way v l e.st e.d false
      else if unissued f die l then
        let mine := fun (m : Nat × Msg) => match m.2 with
          | .wb l' a _ _ => l' == l && a == die
          | _ => false
        let f := { spend f 1 with net := dropLast mine f.net }
        install k (onMem f fun m => { m with evb := dropLast (· == e) m.evb }) die e.slice way v l e.st e.d false
      else install k (spend f 1) die e.slice way v l .S { e.d with dirty := 0 } false
    | _ => f
  | _, _ => f

/-! ### L1 (05 R142 to R145) -/

/-- Put a sector of a line in a core's L1, in the partition's ways, least recently used first. -/
def l1Fill (k : Keel) (f : Fab) (core part : Nat) (l : Line) (sector : Nat) (bytes : List Byte) : Fab :=
  let ways := setBits 16 (l1WaysOf k core part)
  if ways.isEmpty then f
  else
    let put := fun (x : L1Line) (u : Nat) => { x with
      valid := x.valid ||| BitVec.ofNat 4 (2 ^ sector), bad := x.bad &&& ~~~(BitVec.ofNat 4 (2 ^ sector))
      bytes := splice x.bytes (32 * sector) bytes, use := u }
    onMem f fun m =>
      let m := tick m
      if m.l1.any fun x => x.core == core && x.part == part && x.line == l then
        { m with l1 := m.l1.map fun x => if x.core == core && x.part == part && x.line == l then put x m.use else x }
      else
        let inSet := m.l1.filter fun x => x.core == core && x.part == part && x.line.idx % 64 == l.idx % 64
        let new := fun (w : Nat) => put { core := core, part := part, line := l, way := w, valid := 0, bytes := zeros 128, use := 0, bad := 0 } m.use
        match ways.find? fun w => !(inSet.any (·.way == w)) with
        | some w => { m with l1 := m.l1 ++ [new w] }
        | none =>
          match inSet.foldl (fun (b : Option L1Line) x => match b with
              | none => some x
              | some y => if x.use < y.use then some x else b) none with
          | none => m
          | some v => { m with l1 := (m.l1.erase v) ++ [new v.way] }

/-- The line of a core's L1 that holds a sector. -/
def l1Find (m : Mem) (core part : Nat) (l : Line) (sector : Nat) : Option L1Line :=
  m.l1.find? fun x => x.core == core && x.part == part && x.line == l && x.valid.getLsbD sector

/-- A look-up of a sector in a core's L1: a hit is the line's latest use (05 R142); a sector with bad parity is invalidated and counted,
and the look-up misses (05 R145). -/
def l1Look (f : Fab) (core part : Nat) (l : Line) (sector : Nat) : Fab × Option (List Byte) :=
  match l1Find f.mem core part l sector with
  | none => (f, none)
  | some x =>
    let put := fun (g : L1Line → L1Line) (m : Mem) => { m with l1 := m.l1.map fun y => if y == x then g y else y }
    if x.bad.getLsbD sector then
      let bit := BitVec.ofNat 4 (2 ^ sector)
      (onMem f fun m => { put (fun y => { y with valid := y.valid &&& ~~~bit, bad := y.bad &&& ~~~bit }) m with
        l1Bad := tupd m.l1Bad core 0 (· + 1) }, none)
    else (onMem f fun m => put (fun y => { y with use := m.use + 1 }) (tick m), some (slice x.bytes (32 * sector) 32))

/-- A store updates the sectors that are already valid in the core's own L1 partition. -/
def l1Update (m : Mem) (core part : Nat) (l : Line) (row : List (Option Byte)) : Mem :=
  { m with l1 := m.l1.map fun x =>
      if x.core == core && x.part == part && x.line == l then
        { x with bytes := overlay x.bytes (row.mapIdx fun i b => if x.valid.getLsbD (i / 32) then b else none) } else x }

/-- An atomic, `ld.res`, `st.cond` or lock invalidates a matching sector. -/
def l1Drop (m : Mem) (core part : Nat) (l : Line) (sector : Nat) : Mem :=
  { m with l1 := m.l1.map fun x =>
      if x.core == core && x.part == part && x.line == l then { x with valid := x.valid &&& ~~~(BitVec.ofNat 4 (2 ^ sector)) }
      else x }

/-! ### What a load waits for -/

/-- The entries that have left the store buffers of a core for a line and are not performed. -/
def coreStores (f : Fab) (core : Nat) (p : Loc) : Bool :=
  (List.range 4).any fun sub => (tgetD f.cores.sb (core * 4 + sub) []).any fun e =>
    e.issued && !e.done && e.loc.kind == p.kind && e.loc.part == p.part && e.loc.kdata == p.kdata && decide (e.loc.off / 128 = p.off / 128)

/-- Give a waiting lane its bytes out of a line; a poisoned sector faults (10 R288). A block-scope load to a cacheable
object leaves the touched sector in the L1 (05 R143), unless a store of the core to the line is on its way past the L1 (11 R331). -/
def capture (k : Keel) (f : Fab) (load piece : Nat) (ld : Load) (p : Piece) (d : LineData) (keep : Bool := true) : Fab :=
  let at_ := p.loc.off % 128
  if d.poison.getLsbD (at_ / 32) then fillPiece f load piece [] 0x0209
  else
    let f := fillPiece f load piece (slice d.bytes at_ p.size) 0
    let core := coreOfGid ld.gid
    if keep && ld.scope = 0 && ld.kind == .plain && p.loc.c && !coreStores f core p.loc then
      l1Fill k f core p.loc.part (lineOf p.loc) (at_ / 32) (slice d.bytes (at_ / 32 * 32) 32)
    else f

/-- The lanes of plain and reserved loads on a die that still wait for a line. -/
def waitingPieces (f : Fab) (die : Nat) (l : Line) : List (Nat × Load × Nat × Piece) :=
  f.cores.loads.flatMap fun (id, ld) =>
    if dieOfCore (coreOfGid ld.gid) == die && (ld.kind == .plain || ld.kind == .res) then
      (ld.pieces.mapIdx fun i p => (id, ld, i, p)).filter fun x =>
        x.2.2.2.data.isNone && x.2.2.2.asked && x.2.2.2.loc.c && x.2.2.2.loc.kind ≤ 1 && lineOf x.2.2.2.loc == l
    else []

/-- A loop-mode reservation is marked on a line that the die holds in E or M; after a failed `st.cond` of the lane the die
also holds the line (11 R341). A group that parks has lost its reservations (04 R118). -/
def markLane (f : Fab) (gid lane : Nat) (loc : Loc) : Fab :=
  let base := { loc with off := loc.off / 128 * 128 }
  let l := lineOf loc
  if (findGroup f gid).any (·.park != .running) then f
  else onMem f fun m =>
    let failed := m.failedLane.any fun c => c.gid == gid && c.lane == lane && c.line == l
    let m := tick m
    { m with
      resv := m.resv.filter (fun r => !(r.gid == gid && r.lane == lane)) ++
        [{ gid := gid, lane := lane, loc := base, gran := 128, granule := false, use := m.use }]
      holds := if failed then m.holds ++ [{ id := m.use, die := dieOfCore (coreOfGid gid), line := l }] else m.holds }

/-- A line's data reaches a die in a state: every waiting lane that the state can serve takes its bytes; of a fill that an invalidation
has overtaken, the lanes asked before it, and no L1 keeps them (11 R324). -/
def serveLoads (k : Keel) (f : Fab) (die : Nat) (l : Line) (st : LState) (d : LineData) (till : Option Nat := none) : Fab :=
  ((waitingPieces f die l).filter fun x => till.all fun t => decide (x.2.2.2.stamp < t)).foldl (fun f (id, ld, i, p) =>
    if ld.kind == .res && (granuleOf k p.loc.part).isNone then
      if st == .E || st == .M then markLane (capture k f id i ld p d) ld.gid p.lane p.loc else f
    else capture k f id i ld p d till.isNone) f

/-! ### Stores at the die's copy (11 R321) -/

/-- The entries that have left the store buffers of a die for a line and are not performed, in the order they left. -/
def leftEntries (f : Fab) (die : Nat) (l : Line) : List (Nat × SbEntry) :=
  orderBy (fun a b => decide (a.2.closed.getD 0 < b.2.closed.getD 0)) <| f.cores.sb.flatMap fun (u, es) =>
    if dieOfCore (u / 4) == die then (es.filter fun e => e.issued && !e.done && e.loc.kind ≤ 1 && e.loc.c && lineOf e.loc == l).map fun e => (u, e)
    else []

def doneEntry (f : Fab) (u id : Nat) : Fab :=
  onCores f fun c => { c with sb := tmod c.sb u fun es => es.map fun e => if e.id = id then { e with done := true } else e }

/-- A store of an entry is performed: the reservations of other groups on the bytes are lost (04 R118), and it is acknowledged. -/
def storeDone (f : Fab) (u : Nat) (e : SbEntry) : Fab :=
  let f := loseResv (doneEntry f u e.id) { e.loc with off := e.loc.off / 128 * 128 } 128 fun r =>
    r.gid == e.gid || !((List.range 128).any fun i => ((e.bytes[i]?).getD none).isSome &&
      decide (r.loc.off ≤ e.loc.off / 128 * 128 + i) && decide (e.loc.off / 128 * 128 + i < r.loc.off + r.gran))
  send f (.storeAck (u / 4) (u % 4) e.id true)

/-- A store entry is merged into bytes of a line; one for a lost line is dropped (10 R313). -/
def performEntry (f : Fab) (u : Nat) (e : SbEntry) (d : LineData) : Fab × LineData :=
  (storeDone f u e, if f.mem.lost.contains (lineOf e.loc) then d else mergeLine d 0 e.bytes)

/-- Every entry that waits for the line is performed, in the order they left the buffers (11 R332). -/
def performStores (f : Fab) (die : Nat) (l : Line) (d : LineData) : Fab × LineData :=
  (leftEntries f die l).foldl (fun (st : Fab × LineData) (x : Nat × SbEntry) => performEntry st.1 x.1 x.2 st.2) (f, d)

/-- A line that a die has in E or M takes the stores that wait for it; loads take its bytes. -/
def useLine (k : Keel) (f : Fab) (die : Nat) (l : Line) : Fab :=
  match findL2 f.mem die l with
  | none => f
  | some c =>
    let f := serveLoads k f die l c.st c.d
    if (c.st == .E || c.st == .M) && !(leftEntries f die l).isEmpty then
      let (f, d) := performStores f die l c.d
      onMem f fun m => modL2 m die l fun c => { c with st := .M, d := d, prefetched := false }
    else f

/-! ### The directory (11 R319 to R325) -/

def agentsIn (p : BitVec 5) : List Nat := (List.range 5).filter p.getLsbD
def bit5 (a : Nat) : BitVec 5 := BitVec.ofNat 5 (2 ^ a)

/-- Whether the partition's granule-mode reservations stand on a line: then the homes grant E and M to no agent
(11 R342). -/
def granuleHeld (f : Fab) (l : Line) : Bool :=
  f.mem.resv.any fun r => r.granule && r.meets { kind := l.kind, part := l.part, off := l.idx * 128, core := 0, kdata := 0, c := true } 128

/-- The tether die's oldest coherent request of one of some types on a line leaves the list of those under way. -/
def takeCo (f : Fab) (l : Line) (tys : List Nat) : Fab × Option (Nat × Flit) :=
  match f.link.coPend.find? fun x => x.1 == l && tys.contains x.2.2.ty with
  | none => (f, none)
  | some x => (onLink f fun k => { k with coPend := k.coPend.erase x }, some x.2)

/-- CO_CMP answers a write-back or a clean eviction of the tether die. -/
def answerCo (f : Fab) (l : Line) (ty : Nat) : Fab :=
  match takeCo f l [ty] with
  | (f, none) => f
  | (f, some x) => respond f x.1 x.2 0x91 0 0 0 0 []

/-- The requester gets the line from die `src`: a sail die by a fill, the tether die by CO_DATA, or CO_CMP where no data moves (15
R424); poisoned data carry "near memory uncorrectable". -/
def grant (f : Fab) (src agent : Nat) (l : Line) (st : LState) (d : LineData) : Fab :=
  if agent = 4 then
    match takeCo f l [0x10, 0x11] with
    | (f, none) => f
    | (f, some (att, fl)) =>
      let code := match st with | .S => 1 | .E => 2 | _ => 3
      if d.valid = 0 then respond f att fl 0x91 0 0 0 code []
      else if d.poison ≠ 0 then respond f att fl 0x90 2 0 0x0209 code d.bytes
      else respond f att fl 0x90 0 0 0 code d.bytes
  else send f (.fill l src agent st d none)

def noData : LineData := { bytes := zeros 128, valid := 0, dirty := 0, poison := 0 }

def closeTxn (f : Fab) (l : Line) : Fab := modDir f l fun e => { e with txn := none }

/-- The loc of a line. -/
def locOfLine (l : Line) : Loc := { kind := l.kind, part := l.part, off := l.idx * 128, core := 0, kdata := 0, c := true }

/-- Ask the line's memory controller. -/
def askMemory (f : Fab) (l : Line) (what : MemWhat) : Fab := send f (.memRead (locOfLine l) 128 what)

/-- 04 R100: an atomic's new value. -/
def atomicNew (op bits : Nat) (old a b : Nat) : Nat :=
  let m : Nat := 2 ^ bits
  let sgn := fun (x : Nat) => if x ≥ m / 2 then (x : Int) - m else (x : Int)
  match op with
  | 0x08 => (old + a) % m
  | 0x09 => min old a
  | 0x0A => max old a
  | 0x0B => if sgn old ≤ sgn a then old else a
  | 0x0C => if sgn old ≥ sgn a then old else a
  | 0x0D => old &&& a
  | 0x0E => old ||| a
  | 0x0F => old ^^^ a
  | 0x10 => a
  | _ => if old = a then b else old

/-- A lane's own atomic keeps its own reservation (04 R118). -/
def AtomicReq.keep (a : AtomicReq) : Resv → Bool := fun r => a.who == some (r.gid, r.lane)

/-- An atomic on the bytes of a line: the new line and the old value. -/
def atomicLine (a : AtomicReq) (d : LineData) : LineData × List Byte :=
  let at_ := a.loc.off % 128
  let old := slice d.bytes at_ a.size
  let new := atomicNew a.op (8 * a.size) (leNat old) (a.a.toNat % 2 ^ (8 * a.size)) (a.b.toNat % 2 ^ (8 * a.size))
  (mergeLine d at_ ((bytesLE a.size new).map some), old)

/-- 05 R158, 11 R326: after a write is in the home slice, its hint places a copy in S in the named slice, and the home slice holds the
line in O; none while the named slice's eviction buffer has no room. -/
def placeHint (k : Keel) (f : Fab) (w : AgentWrite) (d : LineData) : Option Fab :=
  let l := lineOf w.loc
  let die := w.target / 48
  let h := homeOf k l
  if w.hint = 1 && decide (die < k.sails) && die != h.die then
    match choose k f die (w.target % 48) l with
    | .at_ way v =>
      let f := install k f die (w.target % 48) way v l .S { d with dirty := 0 } false
      let f := onMem f fun m => modL2 m h.die l fun c => { c with st := .O }
      some (modDir f l fun e => { e with present := e.present ||| bit5 die, slices := tput e.slices die (w.target % 48) })
    | .noWay => some f
    | .wait => none
  else some f

/-- 05 R158: a HINT 2 write fills the touched sectors in the named core's L1 partition once it is acknowledged. -/
def hintL1 (k : Keel) (f : Fab) (w : AgentWrite) (bytes : List Byte) : Fab :=
  if w.hint = 2 && corePresent k w.target then
    (List.range 4).foldl (fun f s =>
      if ((placed 128 (w.loc.off % 128) w.bytes |>.drop (32 * s)).take 32).any (·.isSome) then
        l1Fill k f w.target w.loc.part (lineOf w.loc) s (slice bytes (32 * s) 32) else f) f
  else f

/-- The home installs a merged line in M in the home slice, or writes it to memory where the partition has no unlocked way
in the set (11 R325); none while the eviction buffer has no room. While a granule's entries stand it writes the line to memory and keeps no copy
in M (11 R342). -/
def installHome (k : Keel) (f : Fab) (l : Line) (d : LineData) : Option (Fab × Bool) :=
  let h := homeOf k l
  let held := fun f o => modDir f l fun e => { e with present := bit5 h.die, owner := o, slices := [(h.die, h.slice)] }
  let out := fun f => modDir (homeWrite f l d) l fun e => { e with present := 0, owner := none, slices := [] }
  match findL2 f.mem h.die l with
  | some _ =>
    if granuleHeld f l then
      some (held (homeWrite (onMem f fun m => modL2 (touch m h.die l) h.die l fun c => { c with st := .S, d := { d with dirty := 0 } }) l d) none, true)
    else some (held (onMem f fun m => modL2 (touch m h.die l) h.die l fun c => { c with st := .M, d := d }) (some h.die), true)
  | none =>
    if granuleHeld f l then some (out (onMem f fun m => delClean m h.die l), false)
    else match choose k f h.die h.slice l with
    | .wait => none
    | .noWay => some (out (onMem f fun m => delClean m h.die l), false)
    | .at_ way v => some (held (install k f h.die h.slice way v l .M d false) (some h.die), true)

/-- A write-back of the line is on its way to the home. -/
def wbOut (f : Fab) (l : Line) : Bool := f.net.any fun m => match m.2 with
  | .wb l' _ _ _ => l' == l
  | _ => false

/-- While the entries of a granule stand, no agent gets the line in E or M (11 R342): the stores that a die waits to perform are
performed at the home, in memory, each of which no copy is left of. -/
def storesAtHome (f : Fab) (die : Nat) (l : Line) (got : Option LineData) : Fab :=
  let f := match got with | some d => homeWrite f l d | none => f
  (leftEntries f die l).foldl (fun f x =>
    let g := storeDone f x.1 x.2
    if f.mem.lost.contains l then g
    else send g (.uncWrite { loc := locOfLine l, bytes := x.2.bytes, hint := 0, target := 0, sink := .home })) f

/-- What a die holds of a line: its copy, or a clean one in its eviction buffer (10 R305). -/
def dataAt (f : Fab) (die : Nat) (l : Line) : Option LineData :=
  ((findL2 f.mem die l).map (·.d)).or (((findEvb f.mem die l).filter fun e => !e.dirtyLine).map (·.d))

/-- A fill for a die is on its way. -/
def fillFor (f : Fab) (l : Line) (die : Nat) (p : LState → Bool) : Bool :=
  f.net.any fun m => match m.2 with
    | .fill l' _ d st _ _ => l' == l && d == die && p st
    | _ => false

/-- A store of the tether die that is decided after a granule's entries were placed ends them (11 R342). -/
def dropGranules (f : Fab) (l : Line) : Fab := loseResv f (locOfLine l) 128 fun r => !r.granule

/-- The transaction on a line goes on, once every acknowledgement is in, no write-back of the line is on its way, and neither a forward
nor memory is awaited. -/
def advance (k : Keel) (f : Fab) (l : Line) : Fab :=
  match findDir f.mem l with
  | none => f
  | some e =>
    match e.txn with
    | none => f
    | some t =>
      if !t.acks.isEmpty || t.fwd || t.mem || wbOut f l then f
      else
        let h := homeOf k l
        let f := useCheck f h.die l
        let base := t.got.or (dataAt f h.die l)
        let toMemory := fun (what : MemWhat) =>
          askMemory (modDir f l fun e => { e with txn := some { t with mem := true } }) l what
        let lost := f.mem.lost.contains l
        let store := fun (w : AgentWrite) (d : LineData) =>
          let d' := mergeLine d (w.loc.off % 128) w.bytes
          (installHome k (loseResv f w.loc w.bytes.length noKeep) l d').bind fun r =>
            (if r.2 then (placeHint k r.1 w d').map (closeTxn · l) else some (delDir r.1 l)).map fun f =>
              hintL1 k (ackWrite k f w.sink 0) w d'.bytes
        match t.req with
        | .own a forStore =>
          if forStore && granuleHeld f l && a != 4 then
            if e.present.getLsbD a then
              send (modDir f l fun e => { e with txn := some { t with acks := [a] } }) (.inval l a)
            else delDir (storesAtHome f a l t.got) l
          else
            let f := if forStore && a == 4 then dropGranules f l else f
            let st := if forStore then LState.M else .E
            let slice := if e.present.getLsbD a then (tfind e.slices a).getD h.slice else h.slice
            let owned := fun f => modDir f l fun e => { e with present := bit5 a, owner := some a, txn := none, slices := [(a, slice)] }
            if e.present.getLsbD a then
              grant (owned (match t.got with | some d => homeWrite f l d | none => f)) h.die a l st noData
            else match t.got with
            | some d =>
              if forStore then grant (owned f) h.die a l .M d
              else grant (owned (homeWrite f l d)) h.die a l .E { d with dirty := 0 }
            | none => toMemory (.fill a st)
        | .write w | .cond _ _ _ _ w =>
          if lost then ackWrite k (closeTxn f l) w.sink 0x0504
          else match base with
          | some d => (store w d).getD f
          | none =>
            if w.bytes.length = 128 && w.bytes.all (·.isSome) then (store w noData).getD f else toMemory .txn
        | .atomic a =>
          if lost then ackAtomic k (closeTxn f l) a.sink [] 0x0504
          else match base with
          | none => toMemory .txn
          | some d =>
            if d.poison.getLsbD (a.loc.off % 128 / 32) then ackAtomic k (closeTxn f l) a.sink [] 0x0209
            else
              let (d', old) := atomicLine a d
              match installHome k (loseResv f a.loc a.size a.keep) l d' with
              | none => f
              | some (f, inL2) => ackAtomic k (if inL2 then closeTxn f l else delDir f l) a.sink old 0
        | .far a =>
          let f := match t.got with | some d => homeWrite f l d | none => f
          if lost then ackAtomic k (delDir f l) a.sink [] 0x0504
          else send (modDir f l fun e => { e with present := 0, owner := none, slices := [], txn := some { t with mem := true } }) (.farAt a)
        | .evict =>
          delDir (match t.got with | some d => homeWrite f l d | none => f) l
        | .read _ => f
        | .readOnce _ _ => closeTxn f l

/-- Whether a die has its copy of a line in another slice than the line's own, where only the home can reach it (11 R320). -/
def astray (k : Keel) (f : Fab) (die : Nat) (l : Line) : Bool :=
  decide (die < 4) && (findL2 f.mem die l).any fun c => c.slice != (homeOf k l).slice

/-- The home begins a request on a line whose entry has no transaction (11 R321, R325, R327). -/
def startTxn (k : Keel) (f : Fab) (l : Line) (r : HomeReq) : Fab :=
  let h := homeOf k l
  match findDir f.mem l with
  | none => f
  | some e =>
    let f := onMem f tick
    let f := modDir f l fun e => { e with use := f.mem.use }
    let f := if (findL2 f.mem h.die l).isNone && e.present.getLsbD h.die then reinstall k f h.die l else f
    let fromMemory := fun (what : MemWhat) =>
      askMemory (modDir f l fun e => { e with txn := some { req := r, acks := [], got := none, fwd := false, mem := true } }) l what
    match r with
    | .read a =>
      if astray k f a l then useLine k (onMem (useCheck f a l) fun m => touch m a l) a l
      else match e.owner with
      | some o =>
        if o = a then fromMemory (.fill a .S)
        else send (modDir f l fun e => { e with txn := some { req := r, acks := [], got := none, fwd := true, mem := false } }) (.fwd l o a)
      | none =>
        if e.present = 0 then fromMemory (.fill a (if granuleHeld f l then .S else .E))
        else
          let g := useCheck f e.home l
          match dataAt g e.home l with
          | some d => grant (modDir (onMem g fun m => touch m e.home l) l fun e =>
              { e with present := e.present ||| bit5 a, slices := tput e.slices a h.slice }) h.die a l .S { d with dirty := 0 }
          | none => askMemory (modDir g l fun e => { e with txn := some { req := r, acks := [], got := none, fwd := false, mem := true } }) l (.fill a .S)
    | .own a _ =>
      if astray k f a l && (findL2 f.mem a l).any (fun c => c.st == .E || c.st == .M) then
        useLine k (onMem (useCheck f a l) fun m => touch m a l) a l
      else
        let others := (agentsIn e.present).filter (· != a)
        let f := modDir f l fun e => { e with txn := some { req := r, acks := others, got := none, fwd := false, mem := false } }
        advance k (sendAll f (others.map fun a => .inval l a)) l
    | _ =>
      let others := match r with
        | .far _ | .evict => agentsIn e.present
        | _ => (agentsIn e.present).filter fun a => a != e.home || (dataAt f e.home l).isNone ||
            fillFor f l e.home fun st => st == .E || st == .M
      let f := modDir f l fun e => { e with txn := some { req := r, acks := others, got := none, fwd := false, mem := false } }
      advance k (sendAll f (others.map fun a => .inval l a)) l

/-- Entry ways of a partition in a set of a home slice (11 R319). -/
def entryWays (k : Keel) (part : Nat) : Nat := 3 * popcount 16 (l2Ways k part)

/-- A request finds its line's entry, or makes one; where the partition's entry ways in the set are all in use, it begins the
eviction of the entry with the fewest holders, least recently used first (11 R323), and itself waits. -/
inductive Entry where
  | ready (f : Fab)
  | busy
  | evicting (f : Fab)

def needEntry (k : Keel) (f : Fab) (l : Line) : Entry :=
  match findDir f.mem l with
  | some e => if e.txn.isSome then .busy else .ready f
  | none =>
    let h := homeOf k l
    let peers := f.mem.dir.filter fun e => e.home == h.die && e.slice == h.slice && e.set_ == h.set_ && e.line.part == l.part
    if peers.length < entryWays k l.part then
      let new : DirEntry := { line := l, home := h.die, slice := h.slice, set_ := h.set_, present := 0, owner := none,
                              slices := [], use := f.mem.use, txn := none }
      .ready (onMem f fun m => { m with dir := m.dir ++ [new] })
    else if peers.any fun e => e.txn.any (·.req == .evict) then .busy
    else
      match (peers.filter (·.txn.isNone)).foldl (fun (b : Option DirEntry) e => match b with
          | none => some e
          | some v =>
            let n := (agentsIn e.present).length
            let n' := (agentsIn v.present).length
            if n < n' ∨ (n = n' ∧ e.use < v.use) then some e else b) none with
      | none => .busy
      | some v => .evicting (startTxn k f v.line .evict)

/-! ### Requests of agents without caches -/

/-- Where a message comes from and the line it is about, where that decides an order (11 R321, 15 R426, 16 R459): messages
of one origin about one line are taken in the order sent. -/
def sinkOrigin : AckSink → Option (Nat × Nat)
  | .store core sub _ => some (3, core * 4 + sub)
  | .dma att _ => some (0, att)
  | .glinen _ req => some (1, Frame.src req)
  | .xfer _ src _ => some (1, src)
  | _ => none

def atomicOrigin : AtomicSink → Option (Nat × Nat)
  | .load load _ => some (4, load)
  | .dma att _ => some (0, att)
  | .glinen _ req => some (1, Frame.src req)

def jobOrigin (f : Fab) (job : Nat) : Option (Nat × Nat) :=
  (tfind f.jobs job).bind fun j => match j.sink with
    | .dma att _ => some (0, att)
    | .glinen _ req => some (1, Frame.src req)
    | _ => none

def reqOrigin (f : Fab) : HomeReq → Option (Nat × Nat)
  | .read a | .own a _ => some (2, a)
  | .write w | .cond _ _ _ _ w => sinkOrigin w.sink
  | .readOnce j _ => jobOrigin f j
  | .atomic a | .far a => atomicOrigin a.sink
  | .evict => none

def msgOrigin (f : Fab) : Msg → Option ((Nat × Nat) × Line)
  | .home l r => (reqOrigin f r).map fun o => (o, l)
  | .invAck l a _ => some ((2, a), l)
  | .fwdNotify l a => some ((2, a), l)
  | .wb l a _ _ => some ((2, a), l)
  | .evict l a => some ((2, a), l)
  | .uncWrite w => (sinkOrigin w.sink).map fun o => (o, lineOf w.loc)
  | .farAt a | .farRead a _ => (atomicOrigin a.sink).map fun o => (o, lineOf a.loc)
  | .memRead loc _ (.job j _) => (jobOrigin f j).map fun o => (o, lineOf loc)
  | _ => none

/-! ### Routes between dies (01 R22, R23, R28) -/

/-- The dies that traffic passes: a diagonal pair first crosses the row pair of its source die (01 R23). -/
def dieRoute : (src dst : Nat) → List Nat
  | 0, 3 => [0, 1, 3]
  | 3, 0 => [3, 2, 0]
  | 1, 2 => [1, 0, 2]
  | 2, 1 => [2, 3, 1]
  | a, b => if a = b then [a] else [a, b]

/-- The sail die at which traffic of the tether die for a sail die enters (01 R28). -/
def tetherEntry (die : Nat) : Nat := die % 2

/-- The sail die of the port die that carries a Glinen port (01 R28). -/
def portEntry (port : Nat) : Nat := 2 + port / 3

/-- The die of an agent of the directory, as traffic with a home die meets it. -/
def agentDie (home a : Nat) : Nat := if a = 4 then tetherEntry home else a

def sinkDie (f : Fab) (home : Nat) : AckSink → Option Nat
  | .store core _ _ => some (dieOfCore core)
  | .copy cluster _ | .route cluster _ => some (cluster / 12)
  | .dma _ _ => some (tetherEntry home)
  | .glinen port _ | .xfer port _ _ => some (portEntry port)
  | .event _ _ die => some die
  | .cond load _ => (tfind f.cores.loads load).map fun l => dieOfCore (coreOfGid l.gid)
  | _ => none

def atomicDie (f : Fab) (home : Nat) : AtomicSink → Option Nat
  | .load load _ => (tfind f.cores.loads load).map fun l => dieOfCore (coreOfGid l.gid)
  | .dma _ _ => some (tetherEntry home)
  | .glinen port _ => some (portEntry port)

def reqDie (f : Fab) (home : Nat) : HomeReq → Option Nat
  | .read a | .own a _ => some (agentDie home a)
  | .write w | .cond _ _ _ _ w => sinkDie f home w.sink
  | .readOnce j _ => (tfind f.jobs j).map (·.die)
  | .atomic a | .far a => atomicDie f home a.sink
  | .evict => none

/-- The line of a message between dies, the die that sends it and the die that it is for. -/
def crossing (k : Keel) (f : Fab) : Msg → Option (Line × Nat × Nat)
  | .home l r => let h := (homeOf k l).die; (reqDie f h r).map fun d => (l, d, h)
  | .inval l a | .fwd l a _ => let h := (homeOf k l).die; some (l, h, agentDie h a)
  | .invAck l a _ | .fwdNotify l a | .wb l a _ _ | .evict l a => let h := (homeOf k l).die; some (l, agentDie h a, h)
  | .wbAck l d _ => some (l, (homeOf k l).die, d)
  | .fill l src d _ _ _ => some (l, src, d)
  | .uncWrite w => let h := (homeOf k (lineOf w.loc)).die; (sinkDie f h w.sink).map fun d => (lineOf w.loc, d, h)
  | .memRead loc _ (.piece load _) =>
    (tfind f.cores.loads load).map fun ld => (lineOf loc, dieOfCore (coreOfGid ld.gid), (homeOf k (lineOf loc)).die)
  | .memRead loc _ (.job j _) => (tfind f.jobs j).map fun x => (lineOf loc, x.die, (homeOf k (lineOf loc)).die)
  | .farAt a | .farRead a _ => let h := (homeOf k (lineOf a.loc)).die; (atomicDie f h a.sink).map fun d => (lineOf a.loc, d, h)
  | _ => none

/-- An older message of the same line between the same two dies stands before one: both cross the same bridges, in order (01 R22). One that
goes on over a second bridge may pass what has left the first for the mesh (01 R24). -/
def ahead (older newer : Line × Nat × Nat) : Bool := older == newer && older.2.1 != older.2.2

/-- A message may arrive: no older one of the same origin about the same line, and none that it follows over a bridge, is still on its
way; a request at a memory controller, when no older write of the home to its line stands there. What waits at a home has arrived. -/
def inOrder (k : Keel) (f : Fab) (m : Nat) : Bool :=
  match tfind f.net m with
  | none => true
  | some x => f.net.all fun e =>
      !(decide (e.1 < m)) || f.mem.arrived.contains e.1 ||
      (!((memLineOf x).any fun l => homeWriteTo l e.2) && ((msgOrigin f x).isNone || msgOrigin f e.2 != msgOrigin f x) &&
       !((crossing k f x).any fun c => (crossing k f e.2).any fun o => ahead o c))

/-- The group whose store a write is. -/
def sinkGroup (f : Fab) : AckSink → Option Nat
  | .store core sub entry => ((tgetD f.cores.sb (core * 4 + sub) []).find? (·.id == entry)).map (·.gid)
  | _ => none

/-- A write by an agent without cache, inside one line (05 R155, 11 R325). -/
def agentWrite (k : Keel) (f : Fab) (w : AgentWrite) (die : Nat) : Fab :=
  if w.loc.kind ≤ 1 then
    if cached k w.loc then send f (.home (lineOf w.loc) (.write w)) else send f (.uncWrite w)
  else if w.loc.kind = 2 then
    if locBadWrite f.mem w.loc.core w.loc.off w.bytes then ackWrite k f w.sink 0x0208
    else
      let f := loseResv (onMem f fun m => locWrite m w.loc.core w.loc.off w.bytes) w.loc w.bytes.length noKeep
      ackWrite k f w.sink 0
  else if w.loc.kind = 3 then
    let f := loseResv f w.loc w.bytes.length fun r => sinkGroup f w.sink == some r.gid
    let r := sideRow w
    if r.2.2.2 then askTether k f die (sideWrite w (zeros (32 * r.2.1))) (.write w.sink)
    else askTether k f die (upFlit 0xA0 w.loc.part 0 0 (BitVec.ofNat 64 (r.1 * 32)) 0 0 r.2.1 []) (.merge die w)
  else
    let base := w.loc.off / 128 * 128
    askPeer k f (wrFrame k w.loc.part w.hint w.target w.loc.kdata base (placed 128 (w.loc.off - base) w.bytes)) (.write w.sink)

/-- A new read, in parts each inside one line (one part may reach into local memory for its whole length). -/
def startRead (k : Keel) (f : Fab) (sink : ReadSink) (parts : List ReadPart) (die : Nat) : Fab :=
  let id := f.nextId
  let f := { f with jobs := tput f.jobs id { sink := sink, die := die, parts := parts }, nextId := id + 1 }
  let f := wideBeats f (parts.map fun p => (p.loc, p.len))
  (parts.mapIdx fun i p => (i, p)).foldl (fun f (i, p) =>
    if p.loc.kind ≤ 1 then
      if cached k p.loc then send f (.home (lineOf p.loc) (.readOnce id i)) else send f (.memRead p.loc p.len (.job id i))
    else if p.loc.kind = 2 then
      if locBad f.mem p.loc.core p.loc.off p.len then fillPart f id i [] 0x0208
      else fillPart (locSeen f p.loc.core p.loc.off p.len) id i (locBytes f.mem p.loc.core p.loc.off p.len) 0
    else if p.loc.kind = 3 then
      let n := (p.loc.off + p.len - 1) / 32 - p.loc.off / 32 + 1
      askTether k f die (upFlit 0xA0 p.loc.part 0 0 (BitVec.ofNat 64 (p.loc.off / 32 * 32)) 0 0 n []) (.job id i)
    else askPeer k f (rdFrame k p.loc.part p.loc.kdata p.loc.off p.len) (.job id i)) f

/-- Cut an extent into parts that each lie in one line (or, for a peer, in 512 bytes; for local memory, whole). -/
def cutRead (loc : Loc) : (fuel : Nat) → (len : Nat) → List ReadPart
  | 0, _ => []
  | fuel + 1, len =>
    if len = 0 then []
    else if loc.kind = 2 then [{ loc := loc, len := len, data := none, fault := 0 }]
    else
      let room := if loc.kind = 4 then 512 else 128 - loc.off % 128
      let n := min len room
      { loc := loc, len := n, data := none, fault := 0 } :: cutRead { loc with off := loc.off + n } fuel (len - n)

def partsOf (loc : Loc) (len : Nat) : List ReadPart := cutRead loc (len / 32 + 2) len

/-- Cut a write into writes that each lie in one line. -/
def cutWrite (sink : AckSink) (hint target : Nat) (loc : Loc) : (fuel : Nat) → List (Option Byte) → List AgentWrite
  | 0, _ => []
  | fuel + 1, bs =>
    if bs.isEmpty then []
    else
      let n := min bs.length (128 - loc.off % 128)
      { loc := loc, bytes := bs.take n, hint := hint, target := target, sink := sink } ::
        cutWrite sink hint target { loc with off := loc.off + n } fuel (bs.drop n)

def writesOf (sink : AckSink) (hint target : Nat) (loc : Loc) (bs : List (Option Byte)) : List AgentWrite :=
  cutWrite sink hint target loc (bs.length / 128 + 2) bs

/-- A plain write by a unit of a die, with no hint. -/
def writeOut (k : Keel) (f : Fab) (die : Nat) (sink : AckSink) (loc : Loc) (bs : List Byte) : Fab :=
  (writesOf sink 0 0 loc (bs.map some)).foldl (fun f w => agentWrite k f w die) f

/-! ### The data of finished reads -/

def ReadJob.complete (j : ReadJob) : Bool := j.parts.all (·.data.isSome)
def ReadJob.fault (j : ReadJob) : Nat := ((j.parts.find? (·.fault != 0)).map (·.fault)).getD 0
def ReadJob.bytes (j : ReadJob) : List Byte := j.parts.flatMap fun p => (p.data.getD []) ++ zeros (p.len - (p.data.getD []).length)

end Sys2Proof.Machine
end

