-- ==== Sys2Proof/Machine/Objects.lean ====
section
/-!
DEFINITION. Objects.lean: events (13 R387), reference words (13 R371 to R375), fences (13 R388 to R393), counters and their
waiters (12 R352 to R364), queue words (13 R379, R380) and role epochs (13 R394, R395).
-/
namespace Sys2Proof.Machine

/-! ### Events -/

/-- A ring's place from a byte offset on, if its object still passes the check (13 R379, R387). -/
def ringAt (f : Fab) (part : Nat) (u : Use) (ring : Word64) (at_ n : Nat) : Except Nat Loc :=
  check f part none u (slotOf ring) ((offOf ring + at_ : Nat) : Int) 1 n

/-- Write bytes of a ring object; nothing is written where the object no longer passes. -/
def ringWrite (k : Keel) (f : Fab) (die part : Nat) (ring : Word64) (at_ : Nat) (bs : List Byte) (sink : AckSink) : Fab :=
  match ringAt f part .store ring at_ bs.length with
  | .ok loc => writeOut k f die sink loc bs
  | .error _ => f

/-- The 32 bytes of an event record. -/
def eventBytes (e : Event) (seq : Nat) : List Byte :=
  bytesLE 8 (e.ty * 2 ^ 56 + e.part * 2 ^ 52 + e.ctx * 2 ^ 42 + e.tag) ++
  bytesLE 8 (e.source * 2 ^ 32 + e.code) ++ bytesLE 8 e.detail.toNat ++ bytesLE 8 seq

/-- A ring in a kind 3 object while the tether link is not up. -/
def ringUnreached (f : Fab) (ring : Word64) : Bool :=
  match tfind f.tab.objs (slotOf ring) with
  | some o => o.kind == 3 && !linkUp f
  | none => false

/-- One event is discarded: LOST advances in the device's copy and, where the ring can be reached, in its word. -/
def loseEvent (k : Keel) (f : Fab) (ctx : Nat) (c : Ctx) (die : Nat) : Fab :=
  let f := modCtx f ctx fun c => { c with evLost := c.evLost + 1 }
  if ringUnreached f c.evRing then f else ringWrite k f die c.part c.evRing 16 (bytesLE 8 (c.evLost + 1)) .none

/-- A record is written at its entry; WRITE follows its acknowledgement (log 26). -/
def emitEvent (k : Keel) (f : Fab) (e : Event) (seq : Nat) : Fab :=
  match findCtx f e.ctx with
  | none => f
  | some c =>
    if ringUnreached f c.evRing then modCtx f e.ctx fun c => { c with evLost := c.evLost + 1 }
    else if decide (c.evWrite - c.evRead < c.evEntries) then
      let f := modCtx f e.ctx fun c => { c with evWrite := c.evWrite + 1 }
      ringWrite k f e.die c.part c.evRing (64 + 32 * (c.evWrite % c.evEntries)) (eventBytes e seq)
        (.event e.ctx (c.evWrite + 1) e.die)
    else loseEvent k f e.ctx c e.die

/-- Decide events of a context in order (13 R387); where the last reading of READ shows the ring full, READ is read again before the
device decides, and the rest waits. -/
def emitEvents (k : Keel) (ctx : Nat) : Fab → List (Nat × Event) → Fab
  | f, [] => f
  | f, e :: es =>
    match findCtx f ctx with
    | none => f
    | some c =>
      if ringUnreached f c.evRing || decide (c.evWrite - c.evRead < c.evEntries) then emitEvents k ctx (emitEvent k f e.2 e.1) es
      else match ringAt f c.part .load c.evRing 8 8 with
        | .error _ => emitEvents k ctx (loseEvent k f ctx c e.2.die) es
        | .ok loc => startRead k (modCtx f ctx fun c => { c with evHeld := e :: es }) (.evRead ctx) (partsOf loc 8) e.2.die

/-- Post an event (13 R387): SEQ counts it. It waits behind those that wait, and while the ring's words are written anew. -/
def postEvent (k : Keel) (f : Fab) (e : Event) : Fab :=
  match findCtx f e.ctx with
  | none => f
  | some c =>
    let f := modCtx f e.ctx fun c => { c with evSeq := c.evSeq + 1 }
    if !ringUnreached f c.evRing && (c.evSync != 0 || !c.evHeld.isEmpty) then
      modCtx f e.ctx fun c => { c with evHeld := c.evHeld ++ [(c.evSeq - 1, e)] }
    else emitEvents k e.ctx f [(c.evSeq, e)]

/-- READ has arrived: the held events are decided in order, unless the ring's words are being written anew. -/
def eventReadDone (k : Keel) (f : Fab) (ctx : Nat) (j : ReadJob) : Fab :=
  match findCtx f ctx with
  | none => f
  | some c =>
    let f := modCtx f ctx fun c => { c with
      evHeld := if c.evSync = 0 then [] else c.evHeld, evRead := if j.fault = 0 then leNat j.bytes else c.evRead }
    if c.evSync = 0 then c.evHeld.foldl (fun f e => emitEvent k f e.2 e.1) f else f

/-- The contexts whose ring lies in tether-side memory. -/
def sideCtxs (f : Fab) : List (Nat × Ctx) :=
  f.tab.ctxs.filter fun c => (tfind f.tab.objs (slotOf c.2.evRing)).any (·.kind == 3)

/-- The link comes up: WRITE and LOST of the rings in tether-side memory are written before any further event (13 R387, 15 R439). -/
def linkIsUp (k : Keel) (f : Fab) : Fab :=
  (sideCtxs f).foldl (fun f c =>
    let word := fun (at_ v : Nat) (f : Fab) => ringWrite k f 0 c.2.part c.2.evRing at_ (bytesLE 8 v) (.event c.1 0 0)
    match ringAt f c.2.part .store c.2.evRing 0 24 with
    | .error _ => f
    | .ok _ => word 16 c.2.evLost (word 0 c.2.evWrite (modCtx f c.1 fun c => { c with evSync := 2 }))) f

/-- One of the words is written; after the last, the events that wait go on. -/
def wordWritten (k : Keel) (f : Fab) (ctx : Nat) : Fab :=
  let f := modCtx f ctx fun c => { c with evSync := c.evSync - 1 }
  match findCtx f ctx with
  | none => f
  | some c => if c.evSync = 0 then emitEvents k ctx (modCtx f ctx fun c => { c with evHeld := [] }) c.evHeld else f

/-- Records that the link carried when it was lost, and events that waited for the ring, are lost and counted in the device's copy of LOST; a
record that was acknowledged, with those before it, stays (15 R439). -/
def loseRecords (f : Fab) : Fab :=
  (sideCtxs f).foldl (fun f (i, c) =>
    let acked := fun (w : Nat) => f.net.any fun m => match m.2 with
      | .eventAck x y _ 0 => x == i && y == w
      | _ => false
    let kept := c.evAcked + ((List.range (c.evWrite - c.evAcked)).takeWhile fun n => acked (c.evAcked + 1 + n)).length
    let f := { f with net := f.net.filter fun m => match m.2 with
      | .eventAck x y _ _ => x != i || (y != 0 && decide (y ≤ kept))
      | _ => true }
    modCtx f i fun c => { c with evWrite := kept, evLost := c.evLost + (c.evWrite - kept) + c.evHeld.length, evHeld := [], evSync := 0 }) f

def mkEvent (ty part ctx die : Nat) : Event :=
  { ty := ty, part := part, ctx := ctx, tag := 0, source := 0, code := 0, detail := 0, die := die }

/-! ### Reference words -/

def ObjKind.code : ObjKind → Nat
  | .context => 1 | .queue => 2 | .memory => 3 | .counter => 4 | .fence => 5

def refOf (f : Fab) : ObjKind → Nat → Option Ref
  | .context, i => (findCtx f i).map (·.ref)
  | .queue, i => (findQueue f i).map (·.ref)
  | .memory, i => (tfind f.tab.objs i).map (·.ref)
  | .counter, i => (tfind f.tab.ctrs i).map (·.ref)
  | .fence, i => (tfind f.tab.fences i).map (·.ref)

def modRef (f : Fab) (kd : ObjKind) (i : Nat) (g : Ref → Ref) : Fab :=
  match kd with
  | .context => modCtx f i fun x => { x with ref := g x.ref }
  | .queue => modQueue f i fun x => { x with ref := g x.ref }
  | .memory => onTab f fun t => { t with objs := tmod t.objs i fun x => { x with ref := g x.ref } }
  | .counter => modCtr f i fun x => { x with ref := g x.ref }
  | .fence => modFence f i fun x => { x with ref := g x.ref }

def partOfObj (f : Fab) : ObjKind → Nat → Option Nat
  | .context, i => (findCtx f i).map (·.part)
  | .queue, i => (findQueue f i).map (·.part)
  | .memory, i => (tfind f.tab.objs i).map (·.part)
  | .counter, i => (tfind f.tab.ctrs i).map (·.owner)
  | .fence, i => (tfind f.tab.fences i).map (·.part)

def ownerOf (f : Fab) : ObjKind → Nat → Option Nat
  | .context, i => some i
  | .queue, i => (findQueue f i).map (·.ctx)
  | .memory, i => (tfind f.tab.objs i).map (·.owner)
  | .counter, i => (tfind f.tab.ctrs i).map (·.ctx)
  | .fence, i => (tfind f.tab.fences i).map (·.owner)

def slotKey (kd : ObjKind) (i : Nat) : Nat := kd.code * 65536 + i

def Epoch.zero : Epoch := { value := 0, lastAt := none, due := false }

/-- An epoch advances at most once per 1 ms (13 R396). -/
def mayAdvance (k : Keel) (e : Epoch) : Bool := match e.lastAt with
  | none => true
  | some t => decide (t + 200000 ≤ k.time)

def Epoch.next (k : Keel) (e : Epoch) : Epoch := { value := (e.value + 1) % 256, lastAt := some k.time, due := false }

/-- EPOCH of a slot (13 R371). -/
def epochOf (f : Fab) (kd : ObjKind) (i : Nat) : Nat := (tgetD f.tab.slotEpoch (slotKey kd i) Epoch.zero).value

/-- Remove an object's record from its table. -/
def eraseObj (f : Fab) (kd : ObjKind) (i : Nat) : Fab :=
  onTab f fun t => match kd with
    | .context => { t with ctxs := tdel t.ctxs i }
    | .queue => { t with queues := tdel t.queues i }
    | .memory => { t with objs := tdel t.objs i }
    | .counter => { t with ctrs := tdel t.ctrs i, xlate := t.xlate.filter fun e => e.2.toNat % 16384 != i || !e.2.getLsbD 31 }
    | .fence => { t with fences := tdel t.fences i }

/-- The object is released (13 R373): its slot is free, EPOCH advances, and an object-released event goes to the owning
context, or to the partition's admin context if the owner has ended. -/
def releaseNow (k : Keel) (f : Fab) (kd : ObjKind) (i die : Nat) : Fab :=
  let part := (partOfObj f kd i).getD 0
  let owner := ownerOf f kd i
  let f := eraseObj f kd i
  let f := onTab f fun t => { t with slotEpoch := tupd t.slotEpoch (slotKey kd i) Epoch.zero (·.next k) }
  let told := match owner.filter fun o => (findCtx f o).any (!·.ref.dying) with
    | some o => some o
    | none => (partRec k part).map (·.adminCtx)
  match told with
  | none => f
  | some o => postEvent k f { mkEvent 5 part o die with detail := BitVec.ofNat 64 (kd.code * 2 ^ 60 + i) }

/-- The release of a slot whose EPOCH may not yet advance waits (13 R396). -/
def slotReady (k : Keel) (f : Fab) (kd : ObjKind) (i : Nat) : Bool := mayAdvance k (tgetD f.tab.slotEpoch (slotKey kd i) Epoch.zero)

def releaseLater (f : Fab) (kd : ObjKind) (i die : Nat) : Fab :=
  onTab f fun t => { t with releases := t.releases.filter (fun r => r.1 != kd || r.2.1 != i) ++ [(kd, i, die)] }

def releaseOnly (k : Keel) (f : Fab) (kd : ObjKind) (i die : Nat) : Fab :=
  if slotReady k f kd i then releaseNow k f kd i die else releaseLater f kd i die

/-- Drop a device reference of an object that carries no references of its own (memory objects, counters). -/
def dropDevLeaf (k : Keel) (f : Fab) (kd : ObjKind) (i die : Nat) : Fab :=
  match refOf f kd i with
  | none => f
  | some r =>
    let f := modRef f kd i fun r => { r with dev := r.dev - 1 }
    if r.dev ≤ 1 ∧ r.host = 0 then releaseOnly k f kd i die else f

/-- Release, and drop the device references that the object itself holds: a fence's on its counter, until it has completed, a queue's on
its ring, a context's on its event ring (13 R372). -/
def releaseObj (k : Keel) (f : Fab) (kd : ObjKind) (i die : Nat) : Fab :=
  let inner := match kd with
    | .fence => (tfind f.tab.fences i).bind fun x =>
        if x.errword.getLsbD 63 && !x.notifying then none else some (ObjKind.counter, x.phys)
    | .queue => (findQueue f i).map fun q => (.memory, slotOf q.ring)
    | .context => (findCtx f i).map fun c => (.memory, slotOf c.evRing)
    | _ => none
  if !slotReady k f kd i then releaseLater f kd i die
  else
    let f := releaseNow k f kd i die
    match inner with
    | some (kd', i') => dropDevLeaf k f kd' i' die
    | none => f

/-- Releases that waited for their EPOCH. -/
def settleReleases (k : Keel) (f : Fab) : Fab :=
  f.tab.releases.foldl (fun f r =>
    if slotReady k f r.1 r.2.1 then
      releaseObj k (onTab f fun t => { t with releases := t.releases.erase r }) r.1 r.2.1 r.2.2
    else f) f

def takeDev (f : Fab) (kd : ObjKind) (i : Nat) : Fab := modRef f kd i fun r => { r with dev := r.dev + 1 }

def takeAll (f : Fab) (refs : List (ObjKind × Nat)) : Fab := refs.foldl (fun f r => takeDev f r.1 r.2) f

/-- Device references that would take a count past 2²⁴ − 1 (13 R372). -/
def refsPast (f : Fab) (refs : List (ObjKind × Nat)) : Bool :=
  refs.any fun r => (refOf f r.1 r.2).any fun x => decide (x.dev + refs.count r ≥ 2 ^ 24)

def dropDev (k : Keel) (f : Fab) (kd : ObjKind) (i die : Nat) : Fab :=
  match refOf f kd i with
  | none => f
  | some r =>
    let f := modRef f kd i fun r => { r with dev := r.dev - 1 }
    if r.dev ≤ 1 ∧ r.host = 0 then releaseObj k f kd i die else f

/-- Drop a host reference: the object is dying while device references stand, or is released (13 R371, R373). -/
def dropHost (k : Keel) (f : Fab) (kd : ObjKind) (i die : Nat) : Fab :=
  match refOf f kd i with
  | none => f
  | some r =>
    let f := modRef f kd i fun r => { r with host := r.host - 1, dying := decide (r.host ≤ 1) }
    if r.host ≤ 1 ∧ r.dev = 0 then releaseObj k f kd i die else f

def dropAll (k : Keel) (f : Fab) (refs : List (ObjKind × Nat)) (die : Nat) : Fab :=
  refs.foldl (fun f r => dropDev k f r.1 r.2 die) f

/-- An object exists and takes new device references (13 R374). -/
def alive (f : Fab) (kd : ObjKind) (i : Nat) : Bool := ((refOf f kd i).map fun r => !r.dying).getD false

/-! ### Fences -/

def Fence.done (x : Fence) : Bool := x.errword.getLsbD 63

/-- 13 R389. CAUSE 0 is success. -/
def errWord (cause code errCount : Nat) : Word64 :=
  BitVec.ofNat 64 (2 ^ 63 + (if cause = 0 then 0 else 2 ^ 62) + cause * 2 ^ 60 + errCount * 2 ^ 48 + code)

/-- The die of a counter's station (12 R346). -/
def stationDie (k : Keel) (phys : Nat) : Nat := phys % k.sails

/-- Steps 3 to 5 of a fence's completion (13 R390): the event, the queues that wait, and the reference on the counter. A fence that no host
holds any longer posts no event (13 R393). -/
def finishFence (k : Keel) (f : Fab) (i die : Nat) : Fab :=
  match tfind f.tab.fences i with
  | none => f
  | some x =>
    let f := modFence f i fun x => { x with notifying := false }
    let f := if x.ref.host ≠ 0 && x.event then
        postEvent k f { mkEvent 6 x.part x.owner (stationDie k x.phys) with
          code := fld x.errword.toNat 0 32, detail := BitVec.ofNat 64 i }
      else f
    let f := modCtr f x.phys fun c => { c with owait := c.owait.filter fun w =>
      !(w.isQueue && (findQueue f w.wslot).any fun q => q.cmds.any fun e => e.2.stage == .waiting && fld (numAt e.2.bytes 0 8) 32 15 == i) }
    dropDevLeaf k f .counter x.phys die

/-- Where a fence writes its NOTIFY; one that no host holds any longer writes none (13 R390, R393). -/
def notifyPlace (f : Fab) (x : Fence) : Option Loc :=
  if x.ref.host = 0 ∨ x.notify = 0 then none
  else match checkAt f x.part none .store x.notify 1 8 with
    | .ok loc => if loc.kind = 2 ∨ loc.kind = 4 then none else some loc
    | .error _ => none

/-- A fence completes once (13 R390): ERRWORD, then NOTIFY, and the rest once that write is acknowledged. `die` is that of the queue whose
command caused it, else 0. -/
def completeFence (k : Keel) (f : Fab) (i cause code errCount die : Nat) : Fab :=
  match tfind f.tab.fences i with
  | none => f
  | some x =>
    if x.done then f
    else
      let w := errWord cause code errCount
      let f := modFence f i fun x => { x with errword := w }
      match notifyPlace f x with
      | none => finishFence k f i die
      | some loc =>
        writeOut k (modFence f i fun x => { x with notifying := true }) (stationDie k x.phys) (.notify i (epochOf f .fence i) die) loc
          (bytesLE 8 w.toNat)

/-- The write of NOTIFY is acknowledged, or has failed. -/
def fenceNotified (k : Keel) (f : Fab) (i epoch die : Nat) : Fab :=
  if epochOf f .fence i = epoch ∧ (tfind f.tab.fences i).any (·.notifying) then finishFence k f i die else f

/-- The armed fences that name a counter. -/
def fencesOn (f : Fab) (phys : Nat) : List (Nat × Fence) := f.tab.fences.filter fun e => e.2.phys == phys && !e.2.done

/-! ### Counters -/

/-- 12 R360: the condition for n. -/
def Counter.holds (c : Counter) (n : Nat) : Bool :=
  if c.paired then decide ((c.value + 2 ^ 32 - n % 2 ^ 32) % 2 ^ 32 < 2 ^ 31) else decide (c.value ≥ n)

/-- Step 2 of 12 R360: the head of the consume list is released while its condition holds, and its n is subtracted: the released, the rest and the
counter as they leave it. -/
def consume (c : Counter) : List Waiter → List Waiter × Counter
  | [] => ([], { c with cwait := [] })
  | w :: ws =>
    if c.holds w.n then
      let r := consume { c with value := (c.value + 2 ^ 32 - w.n % 2 ^ 32) % 2 ^ 32, last := groupLast (w.wslot / 4) w.ctx } ws
      (w :: r.1, r.2)
    else ([], { c with cwait := w :: ws })

/-- The die of the queue whose command made an operation, else 0 (15 R430). -/
def causeDie (f : Fab) (src : LastOp) : Nat := if src.kind = 6 then ((findQueue f src.unit).map (·.die)).getD 0 else 0

/-- The station evaluates its lists: observe-waiters, fences, then consume-waiters (12 R360, 13 R390). -/
def evaluate (k : Keel) (f : Fab) (phys die : Nat) : Fab :=
  match tfind f.tab.ctrs phys with
  | none => f
  | some c =>
    let out := c.owait.filter fun w => !w.isQueue && c.holds w.n
    let f := modCtr f phys fun c => { c with owait := c.owait.filter fun w => w.isQueue || !c.holds w.n }
    let f := sendAll f (out.map fun w => .release w true)
    let f := (fencesOn f phys).foldl (fun f e => if c.holds e.2.target then completeFence k f e.1 0 0 0 die else f) f
    let r := consume c c.cwait
    sendAll (modCtr f phys fun x => { x with cwait := r.2.cwait, value := r.2.value, last := r.2.last }) (r.1.map fun w => .release w true)

/-- An error reaches a counter (12 R356, R357): every waiter and every fence is released with it. -/
def recordErr (k : Keel) (f : Fab) (phys code : Nat) (src : LastOp) : Fab :=
  match tfind f.tab.ctrs phys with
  | none => f
  | some c =>
    let err := if c.err = 0 then code else c.err
    let cnt := if c.err = 0 then c.errCount else sat 255 (c.errCount + 1)
    let out := (c.owait ++ c.cwait).filter (!·.isQueue)
    let f := modCtr f phys fun c => { c with
      err := err, errCount := cnt, last := if c.err = 0 then src else c.last, owait := c.owait.filter (·.isQueue), cwait := [] }
    let f := sendAll f (out.map fun w => .release w false)
    (fencesOn f phys).foldl (fun f e => completeFence k f e.1 1 err cnt (causeDie f src)) f

def deviceLast : LastOp := { noLast with kind := 7 }

/-- 12 R364: the bound of a pair, with the partner's value as last reported. -/
def Counter.boundBroken (c : Counter) : Bool :=
  c.paired && (let p := if c.consumer then c.partnerSeen else c.value
               let q := if c.consumer then c.value else c.partnerSeen
               decide ((p + 2 ^ 32 - q) % 2 ^ 32 > c.bound))

/-- After a change the station reports to the partner's station and checks the bound with the partner's value as last reported (12 R364). A
partner that has been freed takes nothing. -/
def pairChanged (k : Keel) (f : Fab) (phys : Nat) : Fab :=
  match tfind f.tab.ctrs phys with
  | none => f
  | some c =>
    if !c.paired then f
    else
      let f := send f (.pair c.partner phys c.value)
      if c.boundBroken then sendCnt (recordErr k f phys 0x0404 deviceLast) c.partner (.pairError phys) 0x0404 deviceLast else f

def setCounter (f : Fab) (phys v : Nat) (src : LastOp) : Fab := modCtr f phys fun c => { c with value := v, last := src }

/-- A counter operation at its station (12 R354, R355). The reply of a read is VALUE and ERR. -/
def performCnt (k : Keel) (f : Fab) (o : CntOp) : Fab :=
  match tfind f.tab.ctrs o.phys with
  | none => f
  | some c =>
    let changed := fun (v : Nat) => pairChanged k (evaluate k (setCounter f o.phys v o.src) o.phys (causeDie f o.src)) o.phys
    match o.kind with
    | .add =>
      if c.paired then changed ((c.value + o.n) % 2 ^ 32)
      else if c.value + o.n > 0xFFFFFFFF then recordErr k (changed 0xFFFFFFFF) o.phys 0x0402 o.src
      else changed (c.value + o.n)
    | .sub =>
      if c.paired then recordErr k f o.phys 0x0405 o.src
      else if c.value ≥ o.n then setCounter f o.phys (c.value - o.n) o.src
      else recordErr k f o.phys 0x0403 o.src
    | .set_ => if c.paired then recordErr k f o.phys 0x0405 o.src else changed o.n
    | .reset =>
      let f := modCtr f o.phys fun c => { c with value := o.n, err := 0, errCount := 0, last := o.src }
      pairChanged k (evaluate k f o.phys (causeDie f o.src)) o.phys
    | .error => recordErr k f o.phys o.n o.src
    | .pairError partner => if c.paired && c.partner == partner then recordErr k f o.phys o.n o.src else f
    | .read => f

/-- A wait request at the station (12 R359). -/
def performWait (k : Keel) (f : Fab) (phys : Nat) (consuming : Bool) (w : Waiter) : Fab :=
  match tfind f.tab.ctrs phys with
  | none => send f (.release w false)
  | some c =>
    if consuming && c.paired then send (recordErr k f phys 0x0405 (groupLast (w.wslot / 4) w.ctx)) (.release w false)
    else if c.err ≠ 0 then send f (.release w false)
    else if w.n = 0 then send f (.release w true)
    else if !consuming then
      if c.holds w.n then send f (.release w true) else modCtr f phys fun c => { c with owait := c.owait ++ [w] }
    else if c.cwait.isEmpty && decide (c.value ≥ w.n) then
      send (setCounter f phys (c.value - w.n) (groupLast (w.wslot / 4) w.ctx)) (.release w true)
    else modCtr f phys fun c => { c with cwait := c.cwait ++ [w] }

/-! ### Queues -/

/-- STATE of a queue's ring (13 R379). -/
def writeState (k : Keel) (f : Fab) (q : Nat) : Fab :=
  match findQueue f q with
  | none => f
  | some x => ringWrite k f x.die x.part x.ring 24 (bytesLE 8 (x.abort * 2 ^ 32 + x.state)) .none

def setQueueState (k : Keel) (f : Fab) (q st abort : Nat) : Fab :=
  writeState k (modQueue f q fun x => { x with state := st, abort := abort }) q

/-- A queue closes with an abort code (13 R380). -/
def closeQueue (k : Keel) (f : Fab) (q code : Nat) : Fab :=
  match findQueue f q with
  | none => f
  | some x =>
    postEvent k (setQueueState k f q 3 code) { mkEvent 2 x.part x.ctx x.die with code := code, source := 2 ^ 15 + q }

/-! ### Role epochs (13 R394, R395) -/

def roleKey (kind unit part : Nat) : Nat := kind * 65536 + unit * 16 + part
def copyRole (cluster part : Nat) : Nat := roleKey 1 cluster part
def routeRole (cluster part : Nat) : Nat := roleKey 2 cluster part
def bindRole (core part : Nat) : Nat := roleKey 3 core part
def roleOf (f : Fab) (key : Nat) : Nat := (tgetD f.tab.roles key Epoch.zero).value

/-- An epoch is due to advance. -/
def dueRole (f : Fab) (key : Nat) : Fab :=
  onTab f fun t => { t with roles := tupd t.roles key Epoch.zero fun e => { e with due := true } }

/-- A dropped message is counted against the target's partition on a die. -/
def roleDrop (f : Fab) (die part kind : Nat) : Fab :=
  { f with roleDrops := tupd f.roleDrops (die * 16 + part) (0, 0) fun d => (kind, sat 0xFFFFFFFF (d.2 + 1)) }

/-! ### Engine faults (05 R154) -/

/-- An engine records a fault code on the completion counter and posts an engine-fault event to the issuing context. `kind`
codes the unit as SYNC_DBG_LAST does. -/
def engineFault (k : Keel) (f : Fab) (kind unit part ctx die cid code : Nat) (addr : Word64) : Fab :=
  let f := match translate f ctx cid .sig with
    | some p => sendCnt f p .error code (unitLast kind ctx unit)
    | none => f
  postEvent k f { mkEvent 4 part ctx die with code := code, source := kind * 2 ^ 12 + unit, detail := addr }

end Sys2Proof.Machine
end

