-- ==== Sys2Proof/Machine/Flags.lean ====
section
/-!
DEFINITION. Flags.lean: the number formats of 08 R230 to R235, exact arithmetic on their values, the conversions of 08 R244,
R245 and R249 and the IEEE 754 operations of 08 R247, each with the sticky flags it sets (08 R250).
-/
namespace Sys2Proof.Machine

def fInexact : BitVec 6 := 1
def fUnderflow : BitVec 6 := 2
def fOverflow : BitVec 6 := 4
def fInvalid : BitVec 6 := 8
def fSfSat : BitVec 6 := 16
def fEmptyRow : BitVec 6 := 32

/-- A floating-point format (08 R230): `code` is the largest finite code without its sign, `inf` and `nan` the codes of
infinity and the canonical NaN where there are any; `negZero` is whether the format has a negative zero. -/
structure Fmt where
  ebits : Nat
  mbits : Nat
  bias : Nat
  code : Nat
  inf : Option Nat
  nan : Option Nat
  negZero : Bool
  deriving DecidableEq, Repr

def Fmt.bits (t : Fmt) : Nat := 1 + t.ebits + t.mbits

def fmtF4 : Fmt := { ebits := 2, mbits := 1, bias := 1, code := 7, inf := none, nan := some 8, negZero := false }
def fmtF6a : Fmt := { ebits := 3, mbits := 2, bias := 3, code := 31, inf := none, nan := none, negZero := true }
def fmtF6b : Fmt := { ebits := 2, mbits := 3, bias := 1, code := 31, inf := none, nan := none, negZero := true }
def fmtF8a : Fmt := { ebits := 4, mbits := 3, bias := 7, code := 0x7E, inf := none, nan := some 0x7F, negZero := true }
def fmtF8b : Fmt := { ebits := 5, mbits := 2, bias := 15, code := 0x7B, inf := some 0x7C, nan := some 0x7F, negZero := true }
def fmtB16 : Fmt := { ebits := 8, mbits := 7, bias := 127, code := 0x7F7F, inf := some 0x7F80, nan := some 0x7FC0, negZero := true }
def fmtH16 : Fmt := { ebits := 5, mbits := 10, bias := 15, code := 0x7BFF, inf := some 0x7C00, nan := some 0x7E00, negZero := true }
def fmtS32 : Fmt :=
  { ebits := 8, mbits := 23, bias := 127, code := 0x7F7FFFFF, inf := some 0x7F800000, nan := some 0x7FC00000, negZero := true }

/-- The format of a code of 06 R162, 0 to 7. -/
def fmtOf : Nat → Fmt
  | 0 => fmtF4 | 1 => fmtF6a | 2 => fmtF6b | 3 => fmtF8a | 4 => fmtF8b | 5 => fmtB16 | 6 => fmtH16 | _ => fmtS32

/-- The value of a code. -/
def decodeNum (t : Fmt) (v : Nat) : Num :=
  let v := v % 2 ^ t.bits
  let neg := v / 2 ^ (t.bits - 1) == 1
  let mag := v % 2 ^ (t.bits - 1)
  let e := mag / 2 ^ t.mbits
  let m := mag % 2 ^ t.mbits
  if t.nan = some v ∧ t.negZero = false then .nan
  else if mag > t.code then (if t.inf = some mag then .inf neg else .nan)
  else if e = 0 then .fin neg m (1 - (t.bias : Int) - t.mbits)
  else .fin neg (m + 2 ^ t.mbits) ((e : Int) - t.bias - t.mbits)

/-- Round the remainder of a division by 2^s: whether the quotient goes up. RND is that of 04 R90. -/
def roundUp (rnd : Nat) (neg : Bool) (q r half : Nat) : Bool :=
  match rnd with
  | 0 => decide (r > half) || (r == half && q % 2 == 1)
  | 1 => false
  | 2 => neg && r != 0
  | _ => !neg && r != 0

/-- A magnitude rounded to a multiple of 2^e: quotient and whether it is inexact. -/
def roundAt (rnd : Nat) (neg : Bool) (sig : Nat) (exp e : Int) : Nat × Bool :=
  if exp ≥ e then (sig * 2 ^ (exp - e).toNat, false)
  else
    let s := (e - exp).toNat
    let q := sig / 2 ^ s
    let r := sig % 2 ^ s
    (if roundUp rnd neg q r (2 ^ (s - 1)) && (s != 0) then q + 1 else q, r != 0)

/-- A nonzero magnitude rounded to `p` significant bits with an unbounded exponent. -/
def roundTo (rnd p : Nat) (neg : Bool) (sig : Nat) (exp : Int) : Nat × Int × Bool :=
  let len := Nat.log2 sig + 1
  if len ≤ p then (sig, exp, false)
  else
    let e := exp + ((len - p : Nat) : Int)
    let (q, inex) := roundAt rnd neg sig exp e
    (q, e, inex)

/-- The code of a magnitude q × 2^e that has at most mbits + 1 bits after normalising, ignoring the range. -/
def normCode (t : Fmt) (q : Nat) (e : Int) : Int :=
  let len := Nat.log2 q + 1
  let sig := if len ≤ t.mbits + 1 then q * 2 ^ (t.mbits + 1 - len) else q / 2 ^ (len - (t.mbits + 1))
  let ex := e + (len : Int) - (t.mbits + 1)
  (ex + t.mbits + t.bias) * 2 ^ t.mbits + ((sig : Int) - 2 ^ t.mbits)

def signBit (t : Fmt) (neg : Bool) : Nat := if neg then 2 ^ (t.bits - 1) else 0

/-- Put a value into a format (08 R244, R245). With `ieee`, overflow and infinity are those of 08 R247. DESIGN CHOICE (log 68): a tiny value is
rounded again from the value that is converted, not from the value rounded once. -/
def encodeNum (t : Fmt) (rnd : Nat) (ieee : Bool) (x : Num) : Nat × BitVec 6 :=
  match x with
  | .nan => ((t.nan.getD 0), if ieee then 0 else fInvalid)
  | .inf neg =>
    match t.inf with
    | some c => (signBit t neg + c, 0)
    | none => (signBit t neg + t.code, fOverflow ||| fInexact)
  | .fin neg sig exp =>
    let zero := if t.negZero then signBit t neg else 0
    if sig = 0 then (zero, 0)
    else
      let (q, e, inex) := roundTo rnd (t.mbits + 1) neg sig exp
      let c := normCode t q e
      if c > t.code then
        let toInf := ieee && (rnd == 0 || (rnd == 2 && neg) || (rnd == 3 && !neg))
        (signBit t neg + (if toInf then t.inf.getD t.code else t.code), fOverflow ||| fInexact)
      else if c < 2 ^ t.mbits then
        let (q', inex') := roundAt rnd neg sig exp (1 - (t.bias : Int) - t.mbits)
        (if q' = 0 then zero else signBit t neg + q', if inex' then fUnderflow ||| fInexact else 0)
      else (signBit t neg + c.toNat, if inex then fInexact else 0)

/-- Put a value into an integer range (08 R245, R249). -/
def encodeInt (lo hi : Int) (rnd : Nat) (x : Num) : Int × BitVec 6 :=
  match x with
  | .nan => (0, fInvalid)
  | .inf neg => (if neg then lo else hi, fOverflow ||| fInexact)
  | .fin neg sig exp =>
    let (q, inex) := roundAt rnd neg sig exp 0
    let v : Int := if neg then -(q : Int) else q
    if v < lo then (lo, fOverflow ||| fInexact)
    else if v > hi then (hi, fOverflow ||| fInexact)
    else (v, if inex then fInexact else 0)

/-! ### Exact arithmetic -/

def Num.isNan : Num → Bool
  | .nan => true
  | _ => false

def Num.isInf : Num → Bool
  | .inf _ => true
  | _ => false

def Num.isNeg : Num → Bool
  | .nan => false
  | .inf n => n
  | .fin n _ _ => n

def Num.isZero : Num → Bool
  | .fin _ 0 _ => true
  | _ => false

/-- A signed integer times 2^e. -/
def ofInt (v e : Int) : Num := .fin (decide (v < 0)) v.natAbs e

/-- The value at a common exponent. -/
def alignTo (neg : Bool) (sig : Nat) (exp e : Int) : Int :=
  let m : Int := sig * 2 ^ (exp - e).toNat
  if neg then -m else m

/-- The exact sum, and whether the operation is invalid. `down` is rounding toward −∞, which makes an exact zero negative. -/
def addNum (down : Bool) (x y : Num) : Num × Bool :=
  match x, y with
  | .nan, _ | _, .nan => (.nan, false)
  | .inf a, .inf b => if a = b then (.inf a, false) else (.nan, true)
  | .inf a, _ => (.inf a, false)
  | _, .inf b => (.inf b, false)
  | .fin a s e, .fin b t f =>
    let g := min e f
    let v := alignTo a s e g + alignTo b t f g
    if v = 0 then (.fin (if s = 0 ∧ t = 0 then (if a = b then a else down) else down) 0 g, false)
    else (ofInt v g, false)

/-- The exact product, and whether it is invalid. -/
def mulNum (x y : Num) : Num × Bool :=
  match x, y with
  | .nan, _ | _, .nan => (.nan, false)
  | .inf a, .inf b => (.inf (a != b), false)
  | .inf a, .fin b t _ => if t = 0 then (.nan, true) else (.inf (a != b), false)
  | .fin a s _, .inf b => if s = 0 then (.nan, true) else (.inf (a != b), false)
  | .fin a s e, .fin b t f => (.fin (a != b) (s * t) (e + f), false)

def negNum : Num → Num
  | .nan => .nan
  | .inf n => .inf (!n)
  | .fin n s e => .fin (!n) s e

def absNum : Num → Num
  | .nan => .nan
  | .inf _ => .inf false
  | .fin _ s e => .fin false s e

/-- x < y for values that are not NaN. -/
def ltNum (x y : Num) : Bool :=
  match x, y with
  | .nan, _ | _, .nan => false
  | .inf a, .inf b => a && !b
  | .inf a, _ => a
  | _, .inf b => !b
  | .fin a s e, .fin b t f => decide (alignTo a s e (min e f) < alignTo b t f (min e f))

def eqNum (x y : Num) : Bool := !x.isNan && !y.isNan && !ltNum x y && !ltNum y x

/-- Round a value to `p` significant bits, to nearest with ties to even. -/
def roundNum (p : Nat) : Num → Num
  | .fin n s e => if s = 0 then .fin n 0 e else
      let (q, e', _) := roundTo 0 p n s e
      .fin n q e'
  | x => x

/-- The extended format of 08 R239 has a 24-bit significand and, by 08 R240, never leaves its range. -/
def roundExt (x : Num) : Num := roundNum 24 x

/-! ### Vector operations (08 R247) -/

/-- The formats of the floating-point types of 04 R90. -/
def typeFmt : Nat → Fmt
  | 0 => fmtS32 | 3 => fmtH16 | 4 => fmtB16 | 5 => fmtF8a | _ => fmtF8b

def opResult (t : Fmt) (rnd : Nat) (r : Num × Bool) : Nat × BitVec 6 :=
  let (c, fl) := encodeNum t rnd true r.1
  (c, if r.2 then fl ||| fInvalid else fl)

def fAdd (t : Fmt) (rnd a b : Nat) : Nat × BitVec 6 := opResult t rnd (addNum (rnd == 2) (decodeNum t a) (decodeNum t b))
def fMul (t : Fmt) (rnd a b : Nat) : Nat × BitVec 6 := opResult t rnd (mulNum (decodeNum t a) (decodeNum t b))

/-- `fma` rounds once; ∞ × 0 is invalid whatever is added to it. -/
def fFma (t : Fmt) (rnd a b c : Nat) : Nat × BitVec 6 :=
  let (p, bad) := mulNum (decodeNum t a) (decodeNum t b)
  let (s, bad') := addNum (rnd == 2) p (decodeNum t c)
  opResult t rnd (s, bad || bad')

/-- `fmin` and `fmax`: the other operand when exactly one is NaN; −0 below +0. -/
def fMinMax (t : Fmt) (wantMax : Bool) (a b : Nat) : Nat × BitVec 6 :=
  let x := decodeNum t a
  let y := decodeNum t b
  let canon := fun v => (encodeNum t 0 true (decodeNum t v)).1
  if x.isNan then (canon b, 0)
  else if y.isNan then (canon a, 0)
  else
    let less := ltNum x y || (x.isZero && y.isZero && x.isNeg && !y.isNeg)
    (if less == wantMax then canon b else canon a, 0)

/-- One element of a floating-point instruction, by its opcode of 04 R100. -/
def floatElem (opc : Nat) (t : Fmt) (rnd a b c : Nat) : Nat × BitVec 6 :=
  match opc with
  | 0x40 => fAdd t rnd a b
  | 0x41 => fMul t rnd a b
  | 0x42 => fFma t rnd a b c
  | 0x43 => fMinMax t false a b
  | 0x44 => fMinMax t true a b
  | 0x45 => (a % 2 ^ (t.bits - 1), 0)
  | _ => ((a + 2 ^ (t.bits - 1)) % 2 ^ t.bits, 0)

/-- Element i of a packed register, of n elements. -/
def elemOf (n i : Nat) (v : Nat) : Nat := v / 2 ^ (32 / n * i) % 2 ^ (32 / n)

/-- A register from its elements, and the OR of their flags. -/
def packElems (n : Nat) (es : List (Nat × BitVec 6)) : Nat × BitVec 6 :=
  (((es.mapIdx fun i e => e.1 % 2 ^ (32 / n) * 2 ^ (32 / n * i))).sum, es.foldl (fun a e => a ||| e.2) 0)

/-- A floating-point instruction on one lane's registers. -/
def floatOp (opc ty rnd a b c : Nat) : Nat × BitVec 6 :=
  let n := elems' ty
  packElems n ((List.range n).map fun i => floatElem opc (typeFmt ty) rnd (elemOf n i a) (elemOf n i b) (elemOf n i c))
where elems' (t : Nat) : Nat := if t = 0 then 1 else 2

/-- The range of an integer type of 04 R90. -/
def intRange : Nat → Int × Int
  | 1 => (-(2 ^ 31), 2 ^ 31 - 1)
  | 2 => (0, 2 ^ 32 - 1)
  | 7 => (-128, 127)
  | _ => (0, 255)

def isIntTy (t : Nat) : Bool := t == 1 || t == 2 || t == 7 || t == 8

/-- The value of an integer element. -/
def intVal (t v : Nat) : Int :=
  let w : Nat := if t ≤ 2 then 32 else 8
  if (t = 1 ∨ t = 7) ∧ v ≥ 2 ^ (w - 1) then (v : Int) - 2 ^ w else v

/-- An integer narrowed to a type: saturated, or its low bits. -/
def narrow (t : Nat) (sat : Bool) (v : Int) : Nat :=
  let w : Nat := if t ≤ 2 then 32 else 8
  let (lo, hi) := intRange t
  let v := if sat then max lo (min hi v) else v
  (v % 2 ^ w).toNat

/-- One element of `cvt` (08 R249). -/
def cvtElem (src dst rnd : Nat) (sat : Bool) (v : Nat) : Nat × BitVec 6 :=
  if isIntTy src then
    if isIntTy dst then
      let x := intVal src v
      (narrow dst sat x, 0)
    else encodeNum (typeFmt dst) rnd false (ofInt (intVal src v) 0)
  else
    let x := decodeNum (typeFmt src) v
    if isIntTy dst then
      let (lo, hi) := intRange dst
      let (y, fl) := encodeInt lo hi rnd x
      (narrow dst false y, fl)
    else encodeNum (typeFmt dst) rnd false x

end Sys2Proof.Machine
end

