-- ==== Sys2Proof/Machine/Xti.lean ====
section
/-!
DEFINITION. Xti.lean: the 64-bit instruction word of the sub-cores (04 R84 to R101): its fields, the class of command that
issues it, the check of 04 R88, and the vector registers it names.
-/
namespace Sys2Proof.Machine

/-- Which row of the table issues an instruction. -/
inductive XClass where
  | integer | cmp | pred | mov | movI32 | sel | cvt | xlane | float
  | sfLookup | sfAcc | sfNorm | sfRead | sfSacc | sfMean | sfVar | sfRms
  | ld | st | ldTr | atomic | ldRes | stCond | fragLd | fragSt | lockAcq | lockRel
  | mxIssue | cpIssue | rtIssue
  | fence | cntSig | cntCwait | cntOwait | cntSet | cntRd | barBlk
  | nop | br | brJoin | brInd | call | exit | rdSrc
  deriving DecidableEq, Repr

/-- A field of the word. -/
def xf (w : Word64) (lo len : Nat) : Nat := fld w.toNat lo len

def xFmt (w : Word64) : Nat := xf w 61 3
def xOpc (w : Word64) : Nat := xf w 48 8

/-! ### Arithmetic fields (04 R90) -/
def aDst (w : Word64) : Nat := xf w 40 8
def aSa (w : Word64) : Nat := xf w 32 8
def aSb (w : Word64) : Nat := xf w 24 8
def aSc (w : Word64) : Nat := xf w 16 8
def aDk (w : Word64) : Nat := xf w 14 2
def aAk (w : Word64) : Nat := xf w 12 2
def aBk (w : Word64) : Nat := xf w 10 2
def aCk (w : Word64) : Nat := xf w 8 2
def aTy (w : Word64) : Nat := xf w 4 4
def aSat (w : Word64) : Bool := w.getLsbD 3
def aRnd (w : Word64) : Nat := xf w 0 3
/-- The 16-bit immediate SC:SB (04 R91). -/
def aImm (w : Word64) : Nat := aSc w * 256 + aSb w

/-! ### Memory fields (04 R92) -/
def mD (w : Word64) : Nat := xf w 40 8
def mA (w : Word64) : Nat := xf w 32 8
def mS (w : Word64) : Nat := xf w 24 8
def mAk (w : Word64) : Nat := xf w 22 2
def mSk (w : Word64) : Nat := xf w 20 2
def mScope (w : Word64) : Nat := xf w 18 2
def mSize (w : Word64) : Nat := xf w 15 3
def mFar (w : Word64) : Bool := w.getLsbD 14
/-- OFF, signed. -/
def mOff (w : Word64) : Int := (BitVec.ofNat 13 (xf w 0 13)).toInt
/-- Bytes of an access: 1, 2, 4, 8, 16; 32 for a fragment row. -/
def mBytes (w : Word64) : Nat := 2 ^ mSize w

/-! ### Sync fields (04 R95) -/
def yScope (w : Word64) : Nat := xf w 6 2
def yKind (w : Word64) : Nat := xf w 4 2
def yRd (w : Word64) : Nat := xf w 8 6
def yCk (w : Word64) : Nat := xf w 32 2
def yNk (w : Word64) : Nat := xf w 14 2

/-! ### Control fields (04 R96) -/
def cTarget (w : Word64) : Int := (BitVec.ofNat 24 (xf w 24 24)).toInt
def cJoin (w : Word64) : Int := (BitVec.ofNat 24 (xf w 0 24)).toInt

def isFloatTy (t : Nat) : Bool := t == 0 || t == 3 || t == 4

/-- The mode of an `sf.*` instruction with its control word, if 09 R255 to R257 define it. -/
def sfClass (w : Word64) : Option XClass :=
  let imm := aImm w
  let mode := imm % 8
  let sel := bitAt imm 3
  let clr := bitAt imm 4
  let row := fld imm 5 5
  let opc := xOpc w
  let fixed := aDk w == 0 && aAk w == 0 && aBk w == 2 && aCk w == 2 && !aSat w && aRnd w == 0 && isFloatTy (aTy w)
    && decide (imm < 1024) && (row == 0 || mode == 2) && (!sel || mode == 3)
    && (!clr || mode == 1 || mode == 4 || (mode == 3 && sel))
  if !fixed then none
  else match mode with
  | 0 => some .sfLookup
  | 1 => if opc = 0x80 then some .sfAcc else none
  | 2 => if opc = 0x80 then some .sfNorm else none
  | 3 => if opc = 0x80 ∧ (sel = false ∨ aTy w = 0) then some .sfRead else none
  | 4 => if opc = 0x83 then some .sfSacc else none
  | 5 => if opc = 0x83 then some .sfMean else none
  | 6 => if opc = 0x83 then some .sfVar else none
  | _ => if opc = 0x83 then some .sfRms else none

/-- Sources of an arithmetic opcode: 1 for A alone, 2 for A and B, 3 for all. -/
def arity (w : Word64) : Nat :=
  match xOpc w with
  | 0x04 | 0x32 | 0x42 => 3
  | 0x08 | 0x0E | 0x0F | 0x2B | 0x30 | 0x33 | 0x45 | 0x46 => 1
  | _ => 2

/-- 04 R91: every source that the opcode takes comes from a uniform register or an immediate. -/
def uniformSources (w : Word64) : Bool :=
  aAk w == 1 && (decide (arity w < 2) || aBk w == 1 || aBk w == 2) && (decide (arity w < 3) || aCk w == 1)

/-- The register numbers of the sources lie in the range of their class. -/
def sourcesInClass (w : Word64) : Bool :=
  (!(aAk w == 1) || decide (aSa w < 64)) && (!(aAk w == 2) || decide (aSa w < 8)) &&
  (decide (arity w < 2) || !(aBk w == 1) || decide (aSb w < 64)) && (decide (arity w < 3) || !(aCk w == 1) || decide (aSc w < 64))

/-- Fields that every arithmetic opcode but `mov.i32` must encode (04 R90, R91). -/
def arithOk (w : Word64) (types : List Nat) (needC : Bool) : Bool :=
  decide (aDk w < 3) && decide (aAk w < 3) && decide (aBk w < 3) && decide (aCk w < 3) && decide (aRnd w < 4)
  && types.contains (aTy w)
  && (!(aSat w) || !(isFloatTy (aTy w)))
  && (!(aBk w == 2) || aCk w == 2)
  && (!needC || decide (aCk w < 2))
  && (!(aDk w == 1) || (uniformSources w && decide (aDst w < 64)))
  && (!(aDk w == 2) || decide (aDst w < 8))
  && sourcesInClass w

/-- Elements in a register of a type (08 R248). -/
def elems (t : Nat) : Nat := if t ≤ 2 then 1 else if t ≤ 4 then 2 else 4

def isFloatType (t : Nat) : Bool := t == 0 || decide (3 ≤ t ∧ t ≤ 6)

/-- 08 R248, R249. -/
def cvtOk (w : Word64) : Bool :=
  let src := aImm w % 16
  let sel := fld (aImm w) 4 2
  let ns := elems src
  let nd := elems (aTy w)
  decide (aDk w < 2) && decide (aAk w < 2) && aBk w == 2 && aCk w == 2 && decide (aTy w ≤ 8) && decide (aRnd w < 4)
  && decide (src ≤ 8) && decide (aImm w < 64)
  && decide (sel < (if ns = nd then 1 else if ns > nd then ns / nd else nd / ns))
  && (!(aSat w) || !(isFloatType (aTy w)))
  && (!(aDk w == 1) || (aAk w == 1 && decide (aDst w < 64))) && (!(aAk w == 1) || decide (aSa w < 64))

def intTypes : List Nat := [1, 2]
def rawTypes : List Nat := [0, 1, 2, 3, 4]

/-- The class of an arithmetic word. DESIGN CHOICE (log 65): 04 R90 has no code for a predicate as source B, so predicate logic carries BK 0, CK 2
and a predicate number in SB, `pnot` too. -/
def arithClass (w : Word64) : Option XClass :=
  let o := xOpc w
  let when := fun (c : XClass) (b : Bool) => if b then some c else none
  if o ≤ 0x0F then when .integer (arithOk w intTypes (o == 0x04))
  else if 0x20 ≤ o ∧ o ≤ 0x25 then when .cmp (arithOk w [0, 1, 2] false)
  else if 0x28 ≤ o ∧ o ≤ 0x2B then
    when .pred (arithOk w rawTypes false && aDk w == 2 && aAk w == 2 && aBk w == 0 && aCk w == 2 && decide (aSb w < 8))
  else match o with
  | 0x30 => when .mov (arithOk w rawTypes false)
  | 0x31 => when .movI32 (decide (xf w 6 2 < 2) && xf w 0 6 == 0 && (xf w 6 2 == 0 || decide (aDst w < 64)))
  | 0x32 => when .sel (arithOk w rawTypes true && aAk w == 2)
  | 0x33 => when .cvt (cvtOk w)
  | 0x34 => when .xlane (arithOk w rawTypes false && aDk w == 0 && aAk w == 0)
  | _ =>
    if 0x40 ≤ o ∧ o ≤ 0x46 then when .float (arithOk w [0, 3, 4] (o == 0x42) && decide (aDk w < 2) && decide (aAk w < 2))
    else if 0x80 ≤ o ∧ o ≤ 0x8F then sfClass w
    else none

def evenReg (n : Nat) : Bool := n % 2 == 0

/-- The registers that an access of a size takes. -/
def regsOfSize (size : Nat) : Nat := if size ≤ 2 then 1 else if size = 3 then 2 else if size = 4 then 4 else 8

def memOk (w : Word64) (sizes : List Nat) (needS noD : Bool) : Bool :=
  decide (mAk w < 2) && decide (mScope w < 3) && xf w 13 1 == 0 && sizes.contains (mSize w) && evenReg (mA w)
  && (!(mAk w == 1) || decide (mA w < 64)) && (!needS || mSk w != 3) && (!noD || mD w == 0)
  && (!(mSk w == 1) || decide (mS w < 64))

/-- The class of a memory word. Atomics take every size but fragment rows. `atom.cmpx` takes a register for each half of a pair
up to 32 bits; DESIGN CHOICE (log 58): at 64 bits the halves are two pairs in four registers from a multiple of 4, at 128 bits two
groups of four in eight from a multiple of 8, the compare value in the lower, and locks, whose word has 32 bits, carry SIZE 2 alone. DESIGN CHOICE (log 65): a fragment access with a SCOPE other
than block (04 R101) is undefined. -/
def memClass (w : Word64) : Option XClass :=
  let o := xOpc w
  let n := regsOfSize (mSize w)
  let when := fun (c : XClass) (b : Bool) => if b then some c else none
  if 0x08 ≤ o ∧ o ≤ 0x11 then
    when .atomic (memOk w [0, 1, 2, 3, 4] true false && mD w % n == 0
      && (if o = 0x11 then decide (mSk w < 2) && mS w % (2 * n) == 0 else mSk w == 2 || mS w % n == 0))
  else if mFar w then none
  else match o with
  | 0x00 => when .ld (memOk w [0, 1, 2, 3, 4] false false && mD w % n == 0)
  | 0x01 => when .st (memOk w [0, 1, 2, 3, 4] true true && (mSk w == 2 || mS w % n == 0))
  | 0x02 => when .ldTr (memOk w [0, 1, 2] true false && mSk w == 1 && mD w % 4 == 0)
  | 0x18 => when .ldRes (memOk w [0, 1, 2, 3, 4] false false && mD w % n == 0)
  | 0x19 => when .stCond (memOk w [0, 1, 2, 3, 4] true false && (mSk w == 2 || mS w % n == 0))
  | 0x20 => when .fragLd (mScope w == 0 && memOk w [2, 3, 4, 5] true false && mAk w == 1 && mSk w == 1 && mD w % n == 0)
  | 0x21 => when .fragSt (mScope w == 0 && memOk w [2, 3, 4, 5] true false && mAk w == 1 && mSk w == 1 && mD w % n == 0)
  | 0x28 => when .lockAcq (memOk w [2] false true)
  | 0x29 => when .lockRel (memOk w [2] false true)
  | _ => none

def asyncClass (w : Word64) : Option XClass :=
  if xf w 38 2 < 2 ∧ xf w 32 6 = 0 ∧ xf w 0 31 = 0 ∧ evenReg (mD w) ∧ (xf w 38 2 = 0 ∨ mD w < 64) then
    match xOpc w with
    | 0x00 => some .mxIssue
    | 0x01 => some .cpIssue
    | 0x02 => some .rtIssue
    | _ => none
  else none

def cntOk (w : Word64) (needN : Bool) (wait : Bool) : Bool :=
  decide (yCk w < 2) && decide (yNk w < 3) && (!needN || decide (yNk w < 2)) && decide (yScope w ≥ 1) && yKind w == 0
  && (!wait || decide (yRd w < 8))

/-- The class of a sync word: a kind code of 3, a CK of 2 or 3 and an NK of 3 are undefined in each (04 R95). DESIGN CHOICE (log
38): an immediate barrier number above 15 is undefined too. DESIGN CHOICE (log 65): `bar.blk` has block scope (04 R101) whatever its SCOPE field holds. -/
def syncClass (w : Word64) : Option XClass :=
  let when := fun (c : XClass) (b : Bool) => if b then some c else none
  if xf w 0 4 ≠ 0 then none
  else match xOpc w with
  | 0x00 => when .fence (decide (yKind w < 3) && decide (yCk w < 2) && decide (yNk w < 3))
  | 0x08 => when .cntSig (cntOk w true false)
  | 0x09 => when .cntCwait (cntOk w true true)
  | 0x0A => when .cntOwait (cntOk w true true)
  | 0x0B => when .cntSet (cntOk w true false)
  | 0x0C => when .cntRd (cntOk w false false)
  | 0x10 => when .barBlk (decide (yNk w < 2) && decide (yCk w < 2) && decide (yKind w < 3) && (yNk w == 1 || decide (xf w 16 16 < 16)))
  | _ => none

/-- 04 R98. -/
def srcOk (w : Word64) : Bool :=
  let src := xf w 32 8
  let dk := xf w 30 2
  xf w 0 29 == 0 && (!(w.getLsbD 29) || src == 0x09)
  && (if src = 0 then dk == 0 else if src ≤ 0x09 then decide (dk < 2)
      else if 0x10 ≤ src ∧ src ≤ 0x13 then dk == 1 && evenReg (mD w) else false)
  && (dk == 0 || decide (mD w < 64))

def controlClass (w : Word64) : Option XClass :=
  let when := fun (c : XClass) (b : Bool) => if b then some c else none
  match xOpc w with
  | 0x00 => when .nop (xf w 0 48 == 0)
  | 0x01 => when .br (xf w 0 24 == 0)
  | 0x02 => when .brJoin (xf w 0 24 != 0)
  | 0x03 => when .brInd (xf w 24 16 == 0 && evenReg (mD w))
  | 0x04 => when .call (xf w 0 16 == 0 && evenReg (xf w 16 8))
  | 0x05 => when .exit (xf w 0 48 == 0)
  | 0x10 => when .rdSrc (srcOk w)
  | _ => none

/-- The class of a word; none where 04 R88 makes it undefined. -/
def xClass (w : Word64) : Option XClass :=
  match xFmt w with
  | 0 => arithClass w
  | 1 => memClass w
  | 2 => asyncClass w
  | 3 => syncClass w
  | 4 => controlClass w
  | _ => none

/-! ### The vector registers that an instruction names -/

def regRun (r n : Nat) : List Nat := (List.range n).map (r + ·)

def arithRegs (w : Word64) (n : Nat) : List Nat :=
  (if aDk w = 0 then [aDst w] else []) ++ (if aAk w = 0 then [aSa w] else []) ++
  (if n ≥ 2 ∧ aBk w = 0 then [aSb w] else []) ++ (if n ≥ 3 ∧ aCk w = 0 then [aSc w] else [])

def memRegs (w : Word64) (d s : Nat) : List Nat :=
  (if mAk w = 0 then regRun (mA w) 2 else []) ++ regRun (mD w) d ++ (if mSk w = 0 then regRun (mS w) s else [])

/-- Every vector register that the instruction reads or writes (03 R59, R64). -/
def xVregs (c : XClass) (w : Word64) : List Nat :=
  let n := regsOfSize (mSize w)
  match c with
  | .integer | .cmp | .mov | .sel | .xlane | .float => arithRegs w (arity w)
  | .pred => []
  | .movI32 => if xf w 6 2 = 0 then [aDst w] else []
  | .cvt | .sfLookup | .sfAcc | .sfNorm | .sfSacc => arithRegs w 1
  | .sfRead | .sfMean | .sfVar | .sfRms => [aDst w]
  | .ld | .ldRes => memRegs w n 0
  | .st => memRegs w 0 n
  | .ldTr => memRegs w 4 0
  | .atomic => memRegs w n (if xOpc w = 0x11 then 2 * n else n)
  | .stCond => memRegs w 1 n
  | .fragLd | .fragSt => memRegs w n 0
  | .lockAcq | .lockRel => memRegs w 0 0
  | .mxIssue | .cpIssue | .rtIssue => if xf w 38 2 = 0 then regRun (mD w) 2 else []
  | .fence | .cntSig | .cntCwait | .cntOwait | .cntSet | .cntRd | .barBlk => []
  | .nop | .br | .brJoin | .exit => []
  | .brInd => regRun (mD w) 2
  | .call => regRun (xf w 16 8) 2
  | .rdSrc => if xf w 30 2 = 0 then [mD w] else []

/-! ### The uniform registers and predicates that an instruction names (03 R64) -/

/-- Uniform registers of an arithmetic opcode with `n` sources. -/
def arithUregs (w : Word64) (n : Nat) : List Nat :=
  (if aDk w = 1 then [aDst w] else []) ++ (if aAk w = 1 then [aSa w] else []) ++
  (if n ≥ 2 ∧ aBk w = 1 then [aSb w] else []) ++ (if n ≥ 3 ∧ aCk w = 1 then [aSc w] else [])

def memUregs (w : Word64) (s : Nat) : List Nat :=
  (if mAk w = 1 then regRun (mA w) 2 else []) ++ (if mSk w = 1 then regRun (mS w) s else [])

/-- CID and N of a sync word, where they name uniform registers. -/
def syncUregs (w : Word64) : List Nat :=
  (if yCk w = 1 then [xf w 34 6] else []) ++ (if yNk w = 1 then [xf w 16 6] else [])

def xUregs (c : XClass) (w : Word64) : List Nat :=
  let n := regsOfSize (mSize w)
  match c with
  | .integer | .cmp | .mov | .sel | .xlane | .float => arithUregs w (arity w)
  | .cvt => arithUregs w 1
  | .movI32 => if xf w 6 2 = 1 then [aDst w] else []
  | .ld | .ldRes | .lockAcq | .lockRel => memUregs w 0
  | .st | .stCond => memUregs w n
  | .atomic => memUregs w (if xOpc w = 0x11 then 2 * n else n)
  | .ldTr | .fragLd | .fragSt => memUregs w 1
  | .mxIssue | .cpIssue | .rtIssue => if xf w 38 2 = 1 then regRun (mD w) 2 else []
  | .cntSig | .cntCwait | .cntOwait | .cntSet => syncUregs w
  | .cntRd => yRd w :: syncUregs w
  | .barBlk => if yNk w = 1 then [xf w 16 6] else []
  | .rdSrc => if xf w 30 2 = 1 then regRun (mD w) (if xf w 32 8 < 0x10 then 1 else 2) else []
  | .pred | .sfLookup | .sfAcc | .sfNorm | .sfRead | .sfSacc | .sfMean | .sfVar | .sfRms | .fence | .nop | .br | .brJoin
  | .brInd | .call | .exit => []

/-- Every predicate that the instruction reads or writes, its guard among them. -/
def xPregs (c : XClass) (w : Word64) : List Nat :=
  (if w.getLsbD 60 then [xf w 57 3] else []) ++
  match c with
  | .integer | .cmp | .mov | .sel | .xlane | .float =>
    (if aDk w = 2 then [aDst w] else []) ++ (if aAk w = 2 then [aSa w] else [])
  | .pred => [aDst w, aSa w, aSb w]
  | .cntCwait | .cntOwait => [yRd w]
  | _ => []

/-- Whether the instruction is performed once for the running path (04 R87). -/
def xOnce (c : XClass) (w : Word64) : Bool :=
  match c with
  | .mxIssue | .cpIssue | .rtIssue | .fence | .cntSig | .cntCwait | .cntOwait | .cntSet | .cntRd | .barBlk => true
  | .integer | .cmp | .mov | .sel | .float | .cvt => aDk w == 1
  | .movI32 => xf w 6 2 == 1
  | .rdSrc => xf w 30 2 == 1
  | _ => false

end Sys2Proof.Machine
end

