-- ==== Sys2Proof/Machine/Operands.lean ====
section
/-!
DEFINITION. Operands.lean: the registers of a group (03 R59), the guard (04 R86), every operand form of the instruction word
(04 R90 to R96) and the integer and comparison results (04 R100).
-/
namespace Sys2Proof.Machine

/-! ### Registers -/

def vget (g : Group) (r lane : Nat) : Word32 := cread 0 g.vreg (r * 32 + lane)
def uget (g : Group) (r : Nat) : Word32 := cread 0 g.ureg r
def pword (g : Group) (p : Nat) : Word32 := cread 0 g.preg p
def pget (g : Group) (p lane : Nat) : Bool := (pword g p).getLsbD lane

def vput (g : Group) (r lane : Nat) (v : Word32) : Group := { g with vreg := cwrite 0 g.vreg (r * 32 + lane) v }
def uput (g : Group) (r : Nat) (v : Word32) : Group := { g with ureg := cwrite 0 g.ureg r v }
def pputWord (g : Group) (p : Nat) (v : Word32) : Group := { g with preg := cwrite 0 g.preg p v }
def pput (g : Group) (p lane : Nat) (b : Bool) : Group :=
  pputWord g p (if b then pword g p ||| BitVec.ofNat 32 (2 ^ lane) else pword g p &&& ~~~(BitVec.ofNat 32 (2 ^ lane)))

/-- 04 R89: a 64-bit value in an even-numbered pair, low half first. -/
def vpair (g : Group) (r lane : Nat) : Word64 := vget g (r + 1) lane ++ vget g r lane
def upair (g : Group) (r : Nat) : Word64 := uget g (r + 1) ++ uget g r
def uputPair (g : Group) (r : Nat) (v : Word64) : Group := uput (uput g r (v.truncate 32)) (r + 1) ((v >>> 32).truncate 32)

/-- Bytes from consecutive registers of a lane, and back. -/
def vbytes (g : Group) (r n lane : Nat) : List Byte := (List.range n).flatMap fun i => bytesLE 4 (vget g (r + i) lane).toNat
def ubytes (g : Group) (r n : Nat) : List Byte := (List.range n).flatMap fun i => bytesLE 4 (uget g (r + i)).toNat
def vputBytes (g : Group) (r lane : Nat) (bs : List Byte) : Group :=
  (List.range (ceilDiv bs.length 4)).foldl (fun g i => vput g (r + i) lane (BitVec.ofNat 32 (numAt bs (4 * i) 4))) g

/-! ### Lanes and guards -/

def lanes (m : Word32) : List Nat := (List.range 32).filter m.getLsbD
def laneBit (l : Nat) : Word32 := BitVec.ofNat 32 (2 ^ l)
def lanesMask (ls : List Nat) : Word32 := ls.foldl (fun m l => m ||| laneBit l) 0

/-- 04 R86: the lanes of a mask whose guard is true. -/
def guarded (g : Group) (w : Word64) (mask : Word32) : Word32 :=
  if w.getLsbD 60 then
    let p := pword g (xf w 57 3)
    mask &&& (if w.getLsbD 56 then ~~~p else p)
  else mask

/-! ### Arithmetic operands (04 R90, R91) -/

/-- 04 R91: the 16-bit immediate in a type. -/
def immOf (ty imm : Nat) : Nat :=
  match ty with
  | 1 => ((BitVec.ofNat 16 imm).signExtend 32).toNat
  | 2 => imm
  | 0 => imm * 65536
  | _ => imm * 65536 + imm

/-- Source A; a predicate reads as 0 or 1 (log 28). -/
def srcA (g : Group) (w : Word64) (lane : Nat) : Nat :=
  match aAk w with
  | 0 => (vget g (aSa w) lane).toNat
  | 1 => (uget g (aSa w)).toNat
  | _ => if pget g (aSa w) lane then 1 else 0

def srcB (g : Group) (w : Word64) (lane : Nat) : Nat :=
  match aBk w with
  | 0 => (vget g (aSb w) lane).toNat
  | 1 => (uget g (aSb w)).toNat
  | _ => immOf (aTy w) (aImm w)

def srcC (g : Group) (w : Word64) (lane : Nat) : Nat :=
  match aCk w with
  | 0 => (vget g (aSc w) lane).toNat
  | 1 => (uget g (aSc w)).toNat
  | _ => 0

/-- Write one value per lane to a destination of kind `dk`: a vector register, a uniform register once (04 R87), or one bit
of a predicate. -/
def putDst (g : Group) (dk dst : Nat) (vs : List (Nat × Nat)) : Group :=
  match dk with
  | 0 => vs.foldl (fun g v => vput g dst v.1 (BitVec.ofNat 32 v.2)) g
  | 1 => match vs with
    | [] => g
    | v :: _ => uput g dst (BitVec.ofNat 32 v.2)
  | _ => vs.foldl (fun g v => pput g dst v.1 (v.2 % 2 == 1)) g

/-! ### Integer results (04 R100) -/

/-- Bit count of a word. -/
def bitCount (v : Nat) : Nat := popcount 32 v

/-- An integer instruction on exact operands: the exact result that the type then narrows, or none where the manual states
no result (a shift by 32 or more, log 29). -/
def intExact (opc ty a b c : Nat) : Option Int :=
  let x := intVal ty a
  let y := intVal ty b
  match opc with
  | 0x00 => some (x + y)
  | 0x01 => some (x - y)
  | 0x02 => some (x * y)
  | 0x03 => some ((x * y) / 2 ^ 32)
  | 0x04 => some (x * y + intVal ty c)
  | 0x05 => some (intVal ty (a &&& b))
  | 0x06 => some (intVal ty (a ||| b))
  | 0x07 => some (intVal ty (a ^^^ b))
  | 0x08 => some (intVal ty (0xFFFFFFFF - a))
  | 0x09 => if b < 32 then some (x * 2 ^ b) else none
  | 0x0A => if b < 32 then some (intVal ty (a / 2 ^ b)) else none
  | 0x0B => if b < 32 then some ((BitVec.ofNat 32 a).toInt / 2 ^ b) else none
  | 0x0C => some (min x y)
  | 0x0D => some (max x y)
  | 0x0E => some (x.natAbs : Int)
  | _ => some (bitCount a : Int)

/-- The 32-bit result, the same for the same operands (08 R243); one that the manual does not state is free (log 29). `mull` is the low half (04 R100), saturated only
where SAT asks. -/
def intResult (opc ty : Nat) (sat : Bool) (a b c : Nat) : Nat :=
  match intExact opc ty a b c with
  | none => (Config.wideShift opc a b).toNat
  | some v =>
    if opc = 0x0B ∧ ty = 2 then (v % 2 ^ 32).toNat else narrow ty sat v

/-- A comparison: S32 by value with an unordered NaN unequal, I32 and U32 as integers. -/
def cmpResult (opc ty a b : Nat) : Bool :=
  if ty = 0 then
    let x := decodeNum fmtS32 a
    let y := decodeNum fmtS32 b
    match opc with
    | 0x20 => eqNum x y
    | 0x21 => !eqNum x y
    | 0x22 => ltNum x y
    | 0x23 => ltNum x y || eqNum x y
    | 0x24 => ltNum y x
    | _ => ltNum y x || eqNum x y
  else
    let x := intVal ty a
    let y := intVal ty b
    match opc with
    | 0x20 => decide (x = y)
    | 0x21 => decide (x ≠ y)
    | 0x22 => decide (x < y)
    | 0x23 => decide (x ≤ y)
    | 0x24 => decide (x > y)
    | _ => decide (x ≥ y)

def predResult (opc : Nat) (a b : Bool) : Bool :=
  match opc with
  | 0x28 => a && b
  | 0x29 => a || b
  | 0x2A => a != b
  | _ => !a

/-! ### Memory operands (04 R92, R93) -/

/-- The base address of a lane. -/
def baseOf (g : Group) (w : Word64) (lane : Nat) : Word64 :=
  if mAk w = 0 then vpair g (mA w) lane else upair g (mA w)

/-- The bytes that OFF counts in: the access size, 4 for fragments, transposing loads' element size, 4 for locks. -/
def offUnit (c : XClass) (w : Word64) : Nat :=
  match c with
  | .fragLd | .fragSt | .lockAcq | .lockRel => 4
  | _ => mBytes w

/-- A lane's effective address: the slot of its base, and the exact offset, which may leave the range (04 R93). -/
def effAddr (g : Group) (c : XClass) (w : Word64) (lane : Nat) : Nat × Int :=
  let b := baseOf g w lane
  (slotOf b, (offOf b : Int) + mOff w * offUnit c w)

/-- The tagged address that the park record shows of an effective address. -/
def tagged (a : Nat × Int) : Word64 := BitVec.ofNat 64 (a.1 * 2 ^ 48 + (a.2 % 2 ^ 48).toNat)

/-- The bytes of S for a store or an atomic operand of a lane, `n` bytes. -/
def sBytes (g : Group) (w : Word64) (n lane : Nat) : List Byte :=
  match mSk w with
  | 0 => (vbytes g (mS w) (ceilDiv n 4) lane).take n
  | 1 => (ubytes g (mS w) (ceilDiv n 4)).take n
  | 2 => bytesLE n (mS w)
  | _ => zeros n

/-! ### Sync operands (04 R95) -/

def syncCid (g : Group) (w : Word64) : Nat := if yCk w = 0 then xf w 34 14 else (uget g (xf w 34 6)).toNat
def syncN (g : Group) (w : Word64) : Nat :=
  match yNk w with
  | 0 => xf w 16 16
  | 1 => (uget g (xf w 16 6)).toNat
  | _ => 0

/-- The word-addressed target of a control offset (04 R84, R96). -/
def wordsFrom (pc : Word64) (n : Int) : Word64 := pc + BitVec.ofInt 64 (8 * n)

end Sys2Proof.Machine
end

