-- ==== Sys2Proof/Machine/Groups.lean ====
section
/-!
DEFINITION. Groups.lean: paths and their table (03 R67 to R70), parking (03 R74 to R80), the store buffer (11 R337, R338), the
accesses that answer later (05 R143, 11 R327), fences (04 R109 to R111), wait slots (12 R358), barriers (04 R124), the end of
groups and blocks (03 R57), and what makes a group eligible (03 R64, R65, 14 R414).
-/
namespace Sys2Proof.Machine

/-! ### Dies, slots and holds -/

/-- 17 R466: the compute domain of a core: 3 domains a die, of 64 cores. -/
def coreOn (k : Keel) (core : Nat) : Bool := domainOn k (computeDom (dieOfCore core) (core % 192 / 64))

/-- The owner of a die's current slot, outside the frame tail (14 R411 to R414). -/
def slotOwner (k : Keel) (f : Fab) (die : Nat) : Option Nat :=
  let d := dieRegs f die
  if d.schedTail then none
  else (k.image.bind (·.sched)).bind fun sc => (sc.slots[d.schedSlot]?).bind fun e =>
    if e.getLsbD 30 then some (fld e.toNat 24 4) else none

/-- A compute domain's actuator, by 3 × die + field. -/
def levelOf (k : Keel) (d : Nat) : Level := tgetD k.power.levels d Level.reset

/-- A droop cut is in force in the compute domain of a core (17 R476). -/
def cutOn (k : Keel) (core : Nat) : Bool := (levelOf k (core / 64)).cut

/-- PART_RESET, which a quiesced partition runs too (19 R525). -/
def runsHeld (op : Nat) : Bool := op == 0x30

/-- Whether a partition is held: a session has quiesced it, or a device session is about to open (19 R520, R522). -/
def heldPart (k : Keel) (part : Nat) : Bool := k.sec.held.getLsbD part || k.sec.devStep != 0

/-- Whether a partition's work may go on: it is not quiesced by a debug session (19 R522) and no stop runs (17 R485). -/
def mayRun (k : Keel) (part : Nat) : Bool := !k.power.stopping && !heldPart k part

/-- A partition is being reset (13 R398), or its reset is due since a line of it was lost (10 R312); a context's work has been stopped
(13 R400). -/
def resetting (f : Fab) (part : Nat) : Bool := (tfind f.tab.resets part).isSome || f.mem.fatal.contains part
def stoppedCtx (f : Fab) (ctx : Nat) : Bool := ((findCtx f ctx).bind (·.ending)).any (·.stopped)

/-! ### Bytes as an instruction fetch finds them (log 30) -/

/-- The copy that shows a line's present contents: the owner's, or any. -/
def shownCopy (f : Fab) (l : Line) : Option L2Copy :=
  (f.mem.l2.find? fun c => c.line == l && c.st != .S).or (f.mem.l2.find? (·.line == l))

/-- A dirty line on its way out of an eviction buffer. -/
def shownEntry (f : Fab) (l : Line) : Option Evicting := (f.mem.evb.filter fun e => e.line == l && e.dirtyLine).getLast?

/-- The die where reading a line now meets bad parity (10 R311). -/
def flawAt (f : Fab) (l : Line) : Option Nat :=
  match shownCopy f l with
  | some c => if c.flaw = .ok then none else some c.die
  | none => ((shownEntry f l).filter (·.flaw)).map (·.die)

/-- A line's present contents: the owner's copy, any copy, a write-back under way, memory. -/
def lineNow (f : Fab) (l : Line) : LineData :=
  match (shownCopy f l).filter (·.flaw == .ok) with
  | some c => c.d
  | none => match (shownEntry f l).filter fun e => !e.flaw with
    | some e => overlayLine (memNow f l) e.d
    | none => memNow f l
where overlayLine (m d : LineData) : LineData :=
  { m with bytes := overlay m.bytes (d.bytes.mapIdx fun i b => if d.dirty.getLsbD (i / 32) then some b else none) }

/-- Bytes inside one line of near memory or LPDDR6, with whether a sector they touch is poisoned. -/
def peek (k : Keel) (f : Fab) (loc : Loc) (n : Nat) : List Byte × Bool :=
  let d := if cached k loc then lineNow f (lineOf loc) else memLine f.mem (lineOf loc)
  (slice d.bytes (loc.off % 128) n, d.poison.getLsbD (loc.off % 128 / 32))

/-! ### Paths -/

def Group.liveMask (g : Group) : Word32 := g.paths.foldl (fun m p => m ||| p.2.mask) 0
def Group.running (g : Group) : Option (Nat × Path) := g.paths.find? fun p => p.2.st == .running

/-- 03 R69: the next ready entry after `key`, in table order. -/
def nextReady (g : Group) (key : Nat) : Option Nat :=
  let ready := (g.paths.filter fun p => p.2.st == .ready).map (·.1)
  (ready.find? (key < ·)).or ready.head?

def setPath (g : Group) (key : Nat) (p : Path) : Group := { g with paths := tput g.paths key p }

/-- The group rotates: where no path runs, the next ready one begins. -/
def rotate (g : Group) (key : Nat) : Group :=
  if g.running.isSome then g
  else match nextReady g key with
    | none => g
    | some r => { g with paths := tmod g.paths r fun p => { p with st := .running, back := 0 } }

/-- Whether `l` ends the list of joins in force on a path. -/
def joinsEnd (l js : List Word64) : Bool := decide (l.length ≤ js.length) && js.drop (js.length - l.length) == l

/-- Merge every family of paths whose members have all arrived at their join address (03 R68); a merged path may itself have
reached the join address in force before. -/
def mergePaths : (fuel : Nat) → Group → Group
  | 0, g => g
  | fuel + 1, g =>
    match g.paths.find? fun p => p.2.st == .arrived && (g.paths.all fun q =>
        !joinsEnd p.2.joins q.2.joins || (q.2.st == .arrived && q.2.joins == p.2.joins)) with
    | none => g
    | some (key, p) =>
      let family := g.paths.filter fun q => q.2.joins == p.joins
      let rest := g.paths.filter fun q => q.2.joins != p.joins
      let joins := p.joins.tail
      let st := if joins.head? = some p.pc then .arrived
                else if rest.any fun q => q.2.st == .running then .ready else .running
      let merged : Path :=
        { pc := p.pc, mask := family.foldl (fun m q => m ||| q.2.mask) 0, joins := joins, st := st, back := 0 }
      mergePaths fuel { g with paths := tput rest key merged }

/-- A path stands at an address in a state: it has arrived where the address is its join address. -/
def placePath (g : Group) (key : Nat) (p : Path) (st : PathState) : Group :=
  let arrived := p.joins.head? = some p.pc
  rotate (mergePaths 33 (setPath g key { p with st := if arrived then .arrived else st })) key

/-- The running path goes on at an address. A backward branch counts; the 64th rotates while another entry is ready or
waiting (03 R68). -/
def goOn (g : Group) (key : Nat) (p : Path) (pc : Word64) (branch : Bool) : Group :=
  let back := if branch && decide (pc.toNat ≤ p.pc.toNat) then p.back + 1 else p.back
  let others := g.paths.any fun q => q.1 != key && q.2.st != .arrived
  if back ≥ 64 && others then placePath g key { p with pc := pc, back := 0 } .ready
  else placePath g key { p with pc := pc, back := min back 64 } .running

/-- The path begins to wait and rotates; its next instruction stands in the table. -/
def waitPath (g : Group) (key : Nat) (p : Path) (pc : Word64) (st : PathState) : Group :=
  rotate (setPath g key { p with pc := pc, st := st, back := 0 }) key

/-- A wait ends: the path is ready, and runs where no path of the group does. -/
def wakePath (g : Group) (key : Nat) : Group :=
  match tfind g.paths key with
  | none => g
  | some p => placePath g key p .ready

/-- Free keys of the 32 entries, lowest first. -/
def freeKeys (g : Group) : List Nat := (List.range 32).filter fun i => (tfind g.paths i).isNone

/-! ### Parking -/

def parkEvent (gid : Nat) (g : Group) (ty : Nat) : Event :=
  { mkEvent ty g.part g.ctx (dieOfCore (coreOfGid gid)) with
    code := g.faultCode, detail := g.faultAddr
    source := dieOfCore (coreOfGid gid) * 16384 + coreOfGid gid % 192 * 64 + gid % 64 }

/-- The store-buffer entries of a sub-core, and those of a group. -/
def sbOf (f : Fab) (u : Nat) : List SbEntry := tgetD f.cores.sb u []
def entriesOf (f : Fab) (gid : Nat) : List SbEntry := (sbOf f (gid / 16)).filter (·.gid == gid)
def modSb (f : Fab) (u : Nat) (g : List SbEntry → List SbEntry) : Fab :=
  onCores f fun c => { c with sb := tupd c.sb u [] g }

/-- A die already asks for a line in E or M, or its grant is on the way. -/
def ownAsked (f : Fab) (die : Nat) (l : Line) : Bool :=
  (f.net.any fun m => match m.2 with
    | .home l' (.own a _) => l' == l && a == die
    | .fill l' _ d st _ till => l' == l && d == die && till.isNone && (st == .E || st == .M)
    | .memRead loc _ (.fill a st) => lineOf loc == l && a == die && (st == .E || st == .M)
    | _ => false) ||
  ((findDir f.mem l).bind (·.txn)).any fun t => match t.req with
    | .own a _ => a == die
    | _ => false

/-- A die already asks for a line in any state. A fill that will not be installed answers only the lanes asked before. -/
def readAsked (f : Fab) (die : Nat) (l : Line) : Bool :=
  ownAsked f die l ||
  (f.net.any fun m => match m.2 with
    | .home l' (.read a) => l' == l && a == die
    | .fill l' _ d _ _ till => l' == l && d == die && till.isNone
    | .memRead loc _ (.fill a _) => lineOf loc == l && a == die
    | _ => false) ||
  ((findDir f.mem l).bind (·.txn)).any fun t => match t.req with
    | .read a => a == die
    | _ => false

/-- A read of a line at the home, where the die does not ask already. -/
def needRead (f : Fab) (die : Nat) (l : Line) : Fab :=
  if readAsked f die l then f else send f (.home l (.read die))

/-- An ownership request at the home, where the die does not ask already. -/
def needOwn (f : Fab) (die : Nat) (l : Line) (forStore : Bool) : Fab :=
  if ownAsked f die l then f else send f (.home l (.own die forStore))

/-! ### Prefetch streams (10 R303, R307) -/

/-- A unit that sends requests to an L2: its number among the streams' keys, its die and its request port (10 R303). -/
structure L2Port where
  unit : Nat
  die : Nat
  slice : Nat
  deriving DecidableEq, Repr

/-- Slice i takes the requests of die-local cores 4i to 4i + 3. -/
def subPort (u : Nat) : L2Port := { unit := u, die := dieOfCore (u / 4), slice := u / 4 % 192 / 4 }
/-- Slice 4c takes the requests of cluster c's copy engine and routing engine. -/
def copyPort (cluster : Nat) : L2Port := { unit := 4096 + cluster, die := cluster / 12, slice := 4 * (cluster % 12) }
def routePort (cluster : Nat) : L2Port := { unit := 8192 + cluster, die := cluster / 12, slice := 4 * (cluster % 12) }

def prefetchDepth (k : Keel) (p : Nat) : Nat := ((partRec k p).map (·.depth)).getD 0

/-- Lines beyond a request that continues a trained stride, inside the object; into the request port's L2. -/
def prefetch (k : Keel) (f : Fab) (die : Nat) (o : MemObj) (n : Nat) (stride : Int) : Fab :=
  (List.range (prefetchDepth k o.part)).foldl (fun f (m : Nat) =>
    let x : Int := (n : Int) + ((m : Int) + 1) * stride
    let l : Line := { kind := o.kind, part := o.part, idx := x.toNat }
    if x ≥ 0 && decide (o.base ≤ x.toNat * 128) && decide (x.toNat * 128 < o.base + o.len) &&
        (findL2 f.mem die l).isNone && (findEvb f.mem die l).isNone && !bufferFullAt f die (homeOf k l).slice
    then needRead f die l else f) f

/-- A request trains or follows the stream of its unit and object slot at its request-port slice. -/
def streamStep (k : Keel) (f : Fab) (at_ : L2Port) (slot : Nat) (loc : Loc) : Fab :=
  match tfind f.tab.objs slot with
  | none => f
  | some o =>
    if loc.kind > 1 || !cached k loc then f
    else
      let n := loc.off / 128
      let f := onMem f tick
      let here := f.mem.streams.filter fun x => x.die == at_.die && x.slice == at_.slice
      match here.find? fun x => x.unit == at_.unit && x.objSlot == slot with
      | none =>
        let old := here.foldl (fun (b : Option Stream) x => match b with
          | none => some x
          | some y => if x.use < y.use then some x else b) none
        let keep := if here.length ≥ 64 then (match old with | some y => f.mem.streams.erase y | none => f.mem.streams)
                    else f.mem.streams
        onMem f fun m => { m with streams := keep ++
          [{ die := at_.die, slice := at_.slice, unit := at_.unit, objSlot := slot, last := n, stride := 0, run := 1, use := m.use }] }
      | some x =>
        let d : Int := (n : Int) - x.last
        if d = 0 then onMem f fun m => { m with streams := m.streams.map fun y => if y == x then { y with run := 1, use := m.use } else y }
        else
          let same := x.run ≥ 2 && d == x.stride
          let run := if same then x.run + 1 else if d.natAbs ≤ 64 then 2 else 1
          let f := onMem f fun m => { m with streams := m.streams.map fun y =>
            if y == x then { y with last := n, stride := d, run := run, use := m.use } else y }
          if same && x.run ≥ 3 then prefetch k f at_.die o n d else f

/-- The distinct lines among places, in order. -/
def distinctLines : List Loc → List Loc
  | [] => []
  | x :: xs => x :: (distinctLines xs).filter fun y => lineOf y != lineOf x

/-- The requests of one access of a unit to an object, a line each. -/
def trainOn (k : Keel) (f : Fab) (at_ : L2Port) (slot : Nat) (locs : List Loc) : Fab :=
  (distinctLines locs).foldl (fun f loc => streamStep k f at_ slot loc) f

/-! ### Leaving the store buffer (11 R338) -/

/-- A store reaches the die's L2: it is performed in a copy in E or M of the line's slice, else the home is asked. A line in the
eviction buffer is installed again first (10 R305). -/
def storeAtDie (k : Keel) (f : Fab) (u : Nat) (e : SbEntry) : Fab :=
  let die := dieOfCore (u / 4)
  let l := lineOf e.loc
  let f := useCheck (reinstall k (lineBeat k f die l) die l) die l
  match findL2 f.mem die l with
  | some c =>
    if (c.st == .E || c.st == .M) && !astray k f die l then
      let (f, d) := performEntry f u e c.d
      onMem f fun m => modL2 (touch m die l) die l fun c => { c with st := .M, d := d }
    else needOwn f die l true
  | none => needOwn f die l true

/-- What a store to a door raises (16 R453, R454): the counter identifier and the number in the value stored. -/
def doorFrame (k : Keel) (e : SbEntry) (off : Nat) : Frame :=
  let v := leNat ((slice (e.bytes.map (·.getD 0)) (off % 128) 8))
  sigFrame k e.loc.part e.loc.kdata off (fld v 0 14) (fld v 32 32)

/-- An entry closes and leaves the buffer (11 R338): it updates the core's L1, and is performed at the die's copy, asked for
at the home, or sent to its memory. One for a lost line is dropped (10 R313). -/
def leaveEntry (k : Keel) (f : Fab) (u id : Nat) : Fab :=
  match (sbOf f u).find? fun e => e.id == id && e.closed.isNone with
  | none => f
  | some e =>
    let core := u / 4
    let l := lineOf e.loc
    let base := { e.loc with off := e.loc.off / 128 * 128 }
    let f := modSb f u fun es => es.map fun x => if x.id = id then { x with closed := some f.nextId, issued := true } else x
    let f := { f with nextId := f.nextId + 1 }
    if e.door then
      askPeer k f (doorFrame k e (base.off + (e.bytes.takeWhile (·.isNone)).length)) (.signal (.store core (u % 4) id))
    else
    let f := onMem f fun m => l1Update m core e.loc.part l e.bytes
    let f := streamStep k f (subPort u) e.slot e.loc
    if cached k e.loc then (if f.mem.lost.contains l then storeDone f u e else storeAtDie k f u e)
    else agentWrite k f { loc := base, bytes := e.bytes, hint := 0, target := 0, sink := .store core (u % 4) id } (dieOfCore core)

/-! ### Entering the store buffer (11 R337) -/

/-- The open entry of a group that a store merges into. -/
def mergesWith (gid : Nat) (loc : Loc) (e : SbEntry) : Bool :=
  e.gid == gid && e.closed.isNone && !e.door && !loc.isDoor && e.loc == { loc with off := loc.off / 128 * 128 }

/-- A lane's bytes enter the store buffer: they merge into the group's open entry for the line, or take a free entry of the sub-core's
16, or wait for one. -/
def buffer (f : Fab) (gid : Nat) (x : LaneStore) : Fab :=
  let row := placed 128 (x.loc.off % 128) (x.bytes.map some)
  let u := gid / 16
  let mine := mergesWith gid x.loc
  if (sbOf f u).any mine then modSb f u fun es => es.map fun e => if mine e then { e with bytes := overlayM e.bytes row } else e
  else if (sbOf f u).length ≥ 16 then modGroup f gid fun g => { g with unstored := g.unstored ++ [x] }
  else
    let f := modSb f u fun es => es ++
      [{ id := f.nextId, gid := gid, slot := x.slot, loc := { x.loc with off := x.loc.off / 128 * 128 }, bytes := row, closed := none
         issued := false, done := false, door := x.loc.isDoor }]
    { f with nextId := f.nextId + 1 }

/-- Close entries of a group, in the order they stand. -/
def closeWhere (k : Keel) (f : Fab) (gid : Nat) (p : SbEntry → Bool) : Fab :=
  ((entriesOf f gid).filter fun e => e.closed.isNone && p e).foldl (fun f e => leaveEntry k f (gid / 16) e.id) f

def closeAll (k : Keel) (f : Fab) (gid : Nat) : Fab := closeWhere k f gid fun _ => true

/-- Lanes of a store enter the store buffer in order, so that the highest lane's byte stands (05 R138); the first that finds no entry
holds those after it back. The reservations of the group's other lanes on the bytes are lost (04 R118). Full entries close, and so do
those of a door (16 R454) and those of a group that has stopped. -/
def bufferAll (k : Keel) (f : Fab) (gid : Nat) (xs : List LaneStore) : Fab :=
  let f := xs.foldl (fun f x =>
    if (findGroup f gid).any (!·.unstored.isEmpty) then modGroup f gid fun g => { g with unstored := g.unstored ++ [x] }
    else buffer (loseResv f x.loc x.bytes.length fun r => r.gid != gid || r.lane == x.lane) gid x) f
  let stopped := (findGroup f gid).any fun g => g.park != .running || g.killed
  closeWhere k f gid fun e => stopped || e.door || e.bytes.all (·.isSome)

/-- The stores of a sub-core that wait for free entries go on. -/
def pumpStores (k : Keel) (f : Fab) (u : Nat) : Fab :=
  (f.cores.groups.filter fun g => g.1 / 16 == u && !g.2.unstored.isEmpty).foldl (fun f g =>
    bufferAll k (modGroup f g.1 fun x => { x with unstored := [] }) g.1 g.2.unstored) f

/-- Step 1 of 03 R77: the instruction is withdrawn, STATE reads PARKING, and the group's reservations are lost (04 R118). Its
stores leave the buffer, for step 2. A fault that an access of an earlier instruction returns while the group is parking
takes the record over (log 31). -/
def park (k : Keel) (f : Fab) (gid : Nat) (at_ : Stand) (code : Nat) (addr : Word64) (faulted : List Nat) : Fab :=
  let f := modGroup f gid fun g =>
    let late := g.park != .running
    { g with
      park := .parking, parkCount := if late then g.parkCount else sat 255 (g.parkCount + 1), faultCode := code,
      faultAddr := addr, faultLanes := lanesMask faulted, faultPc := at_.pc, faultAt := at_, replay := none }
  let f := onMem f fun m => { m with resv := m.resv.filter (·.gid != gid), failedLane := m.failedLane.filter (·.gid != gid) }
  closeAll k f gid

/-! ### Accesses that answer later -/

def findLoad (f : Fab) (id : Nat) : Option Load := tfind f.cores.loads id
def loadsOf (f : Fab) (gid : Nat) : Table Load := f.cores.loads.filter (·.2.gid == gid)

def modPiece (f : Fab) (id i : Nat) (g : Piece → Piece) : Fab :=
  onCores f fun c => { c with loads := tmod c.loads id fun l => { l with
    pieces := l.pieces.mapIdx fun j p => if j = i then g p else p } }

/-- The bytes of a place that a group's entries hold. -/
def bufferedBytes (f : Fab) (gid : Nat) (loc : Loc) (n : Nat) : List (Option Byte) :=
  let es := (entriesOf f gid).filter fun e => e.loc.kind == loc.kind && e.loc.part == loc.part && e.loc.kdata == loc.kdata &&
    decide (e.loc.off / 128 = loc.off / 128)
  (List.range n).map fun i => es.foldl (fun b e => ((e.bytes[loc.off % 128 + i]?).getD none).or b) none

/-- The tether's MEM_ATOM for an atomic (15 R424). DESIGN CHOICE (log 58): the flit tells 64 bits from 32 alone and carries 64-bit
operands, so an atomic of another size goes as one of 32 bits with the low halves of its operands. -/
def memAtom (a : AtomicReq) : Flit :=
  upFlit 0xA2 a.loc.part 0 0 (BitVec.ofNat 64 a.loc.off) (if a.op = 0x11 then 0 else a.a.truncate 64) 0
    (a.op + if a.size = 8 then 128 else 0)
    (if a.op = 0x11 then bytesLE 8 a.a.toNat ++ bytesLE 8 a.b.toNat ++ zeros 16 else [])

/-- An atomic on its way from a die (11 R327). -/
def startAtomic (k : Keel) (f : Fab) (die : Nat) (a : AtomicReq) (far : Bool) : Fab :=
  match a.loc.kind with
  | 0 | 1 =>
    if !cached k a.loc then send f (.farAt a)
    else if far then send f (.home (lineOf a.loc) (.far a))
    else send f (.home (lineOf a.loc) (.atomic a))
  | 2 =>
    let old := locBytes f.mem a.loc.core a.loc.off a.size
    let new := atomicNew a.op (8 * a.size) (leNat old) (a.a.toNat % 2 ^ (8 * a.size)) (a.b.toNat % 2 ^ (8 * a.size))
    let f := onMem (locSeen f a.loc.core a.loc.off a.size) fun m => locWrite m a.loc.core a.loc.off ((bytesLE a.size new).map some)
    ackAtomic k (loseResv f a.loc a.size a.keep) a.sink old 0
  | 3 => askTether k (loseResv f a.loc a.size a.keep) die (memAtom a) (.atomic a.sink)
  | _ => askPeer k f (atomFrame k a.loc.part a.loc.kdata a.loc.off a.op a.size (a.a.truncate 64) (a.b.truncate 64)) (.atomic a.sink)

/-- The atomic of a lane. -/
def laneAtomic (ld : Load) (id i : Nat) (p : Piece) : AtomicReq :=
  let o := (ld.operands[i]?).getD (0, 0)
  { loc := p.loc, op := ld.op, size := p.size, a := o.1, b := o.2, who := some (ld.gid, p.lane), sink := .load id i }

/-- A load reaches the die's L2: its slice answers from the copy there, or from the eviction buffer where the line finds no way (10
R305); else the home is asked. A loop-mode reserved load needs the line in E or M. -/
def loadAtDie (k : Keel) (f : Fab) (id i : Nat) (ld : Load) (p : Piece) : Fab :=
  let die := dieOfCore (coreOfGid ld.gid)
  let l := lineOf p.loc
  let loop := ld.kind == .res && (granuleOf k p.loc.part).isNone
  let f := useCheck (reinstall k (lineBeat k f die l) die l) die l
  let ask := fun f => if loop then needOwn f die l false else needRead f die l
  match findL2 f.mem die l with
  | some c =>
    if astray k f die l then ask f
    else if !loop then capture k (onMem f fun m => touch m die l) id i ld p c.d
    else if c.st == .E || c.st == .M then markLane (capture k (onMem f fun m => touch m die l) id i ld p c.d) ld.gid p.lane p.loc
    else ask f
  | none => match findEvb f.mem die l with
    | some e => if loop then ask f else capture k f id i ld p e.d
    | none => ask f

/-- A lane's plain or reserved access is asked of where its bytes lie (05 R143). -/
def askPlain (k : Keel) (f : Fab) (id i : Nat) (ld : Load) (p : Piece) : Fab :=
  let core := coreOfGid ld.gid
  match p.loc.kind with
  | 0 | 1 =>
    let (f, hit) := if ld.scope = 0 && ld.kind == .plain && p.loc.c then l1Look f core p.loc.part (lineOf p.loc) (p.loc.off % 128 / 32)
                    else (f, none)
    match hit with
    | some s => fillPiece f id i (slice s (p.loc.off % 32) p.size) 0
    | none => if cached k p.loc then loadAtDie k f id i ld p else send f (.memRead p.loc p.size (.piece id i))
  | 2 => fillPiece (locSeen f p.loc.core p.loc.off p.size) id i (locBytes f.mem p.loc.core p.loc.off p.size) 0
  | 3 => askTether k f (dieOfCore core) (upFlit 0xA0 p.loc.part 0 0 (BitVec.ofNat 64 (p.loc.off / 32 * 32)) 0 0 1 []) (.piece id i)
  | _ => askPeer k f (rdFrame k p.loc.part p.loc.kdata p.loc.off p.size) (.piece id i)

/-- The failed attempts of a lane on a line since a conditional store of any lane succeeded there. -/
def condFails (f : Fab) (gid lane : Nat) (l : Line) : Nat :=
  ((f.mem.failedLane.find? fun c => c.gid == gid && c.lane == lane && c.line == l).map (·.n)).getD 0

/-- A lane's reservation ends. -/
def endResv (f : Fab) (gid lane : Nat) : Fab :=
  onMem f fun m => { m with resv := m.resv.filter fun r => !(r.gid == gid && r.lane == lane) }

/-- A conditional store has failed: the lane's reservation ends, and in loop mode the attempt counts (04 R119). -/
def condFailed (k : Keel) (f : Fab) (gid lane : Nat) (loc : Loc) : Fab :=
  let n := condFails f gid lane (lineOf loc)
  let f := endResv f gid lane
  if (granuleOf k loc.part).isSome && loc.kind ≠ 3 then f
  else onMem f fun m => { m with failedLane := m.failedLane.filter (fun c => !(c.gid == gid && c.lane == lane && c.line == lineOf loc)) ++
    [{ gid := gid, lane := lane, line := lineOf loc, n := n + 1 }] }

/-- A conditional store on the granule has succeeded: its reservations end, and so do the counts of failed attempts. -/
def condDone (f : Fab) (gid lane : Nat) (loc : Loc) (size : Nat) : Fab :=
  endResv (onMem (loseResv f loc size noKeep) fun m => { m with failedLane := m.failedLane.filter (·.line != lineOf loc) }) gid lane

/-- A lane's conditional store (04 R117): in the core for local memory, at the die's copy in loop mode, at the deciding home
in granule mode, at the tether die for kind 3. In loop mode whether a store that could succeed fails spuriously (04 R118), and for kind 3
whether an agent of the tether die has stored to the granule, is a free value (log 19), but the 64th attempt in a row does not fail so (04
R119, R120). -/
def askCond (k : Keel) (f : Fab) (id i : Nat) (ld : Load) (p : Piece) : Fab :=
  let loop := (granuleOf k p.loc.part).isNone
  let open_ := loop || p.loc.kind == 3
  let lost := open_ && decide (condFails f ld.gid p.lane (lineOf p.loc) < 63) && (fresh f).getLsbD 0
  let f := if open_ then spend f 1 else f
  let o := (ld.operands[i]?).getD (0, 0)
  let bytes := ((bytesLE 16 o.1.toNat).take p.size).map some
  let held := !lost && f.mem.resv.any fun r => r.gid == ld.gid && r.lane == p.lane && r.meets p.loc 1
  let fail := fun f => fillPiece (condFailed k f ld.gid p.lane p.loc) id i [0] 0
  let w : AgentWrite := { loc := p.loc, bytes := bytes, hint := 0, target := 0, sink := .cond id i }
  if !held then fail f
  else if p.loc.kind = 2 then
    if locBadWrite f.mem p.loc.core p.loc.off bytes then fillPiece (endResv f ld.gid p.lane) id i [] 0x0208
    else fillPiece (condDone (onMem f fun m => locWrite m p.loc.core p.loc.off bytes) ld.gid p.lane p.loc p.size) id i [1] 0
  else if p.loc.kind = 3 then agentWrite k (condDone f ld.gid p.lane p.loc p.size) w (dieOfCore (coreOfGid ld.gid))
  else if !loop then send f (.home (lineOf p.loc) (.cond ld.gid p.lane id i w))
  else
    let die := dieOfCore (coreOfGid ld.gid)
    let f := useCheck (lineBeat k f die (lineOf p.loc)) die (lineOf p.loc)
    match findL2 f.mem die (lineOf p.loc) with
    | some c =>
      if c.st == .E || c.st == .M then
        let d := mergeLine c.d (p.loc.off % 128) bytes
        let f := onMem f fun m => modL2 (touch m die (lineOf p.loc)) die (lineOf p.loc) fun c => { c with st := .M, d := d }
        fillPiece (condDone f ld.gid p.lane p.loc p.size) id i [1] 0
      else fail f
    | none => fail f

/-- Accesses whose lanes are performed one after another (05 R138, 04 R122). -/
def LoadKind.serial : LoadKind → Bool
  | .atomic | .lock | .unlock => true
  | _ => false

/-- A lane of a serial access starts, in lane order (05 R138), once every lane before it has its answer, and none of them has faulted. -/
def myTurn (ld : Load) (i : Nat) : Bool := !ld.kind.serial || (ld.pieces.take i).all fun p => p.data.isSome && p.fault == 0

/-- Every lane has its answer, or one of a serial access has faulted and no other is under way. -/
def answered (ld : Load) : Bool :=
  ld.pieces.all (·.data.isSome) ||
  (ld.kind.serial && ld.pieces.any (·.fault != 0) && ld.pieces.all fun p => !p.asked || p.data.isSome)

/-- A lane's access starts, unless the group's own store-buffer entries for the line hold it back (11 R337, R338), or a store of the
core to the line that has left its buffer stands before it at the die's slice (11 R332). -/
def askPiece (k : Keel) (f : Fab) (id i : Nat) : Fab :=
  match findLoad f id with
  | none => f
  | some ld =>
    match ld.pieces[i]? with
    | none => f
    | some p =>
      if p.asked || !myTurn ld i || (ld.kind != .plain && coreStores f (coreOfGid ld.gid) p.loc) then f
      else if ld.kind == .plain then
        let bs := bufferedBytes f ld.gid p.loc p.size
        let mark := fun f => modPiece f id i fun p => { p with asked := true, stamp := f.nextId }
        if bs.all (·.isSome) then fillPiece (mark f) id i (bs.map (·.getD 0)) 0
        else if bs.any (·.isSome) || coreStores f (coreOfGid ld.gid) p.loc then f
        else askPlain k (mark f) id i ld p
      else if (entriesOf f ld.gid).any fun e => e.loc.kind == p.loc.kind && e.loc.part == p.loc.part &&
          e.loc.kdata == p.loc.kdata && decide (e.loc.off / 128 = p.loc.off / 128) then f
      else
        let f := modPiece f id i fun p => { p with asked := true, stamp := f.nextId }
        match ld.kind with
        | .atomic | .lock | .unlock => startAtomic k f (dieOfCore (coreOfGid ld.gid)) (laneAtomic ld id i p) ld.far
        | .cond => askCond k f id i ld p
        | _ => askPlain k f id i ld p

def askAll (k : Keel) (f : Fab) (id : Nat) : Fab :=
  match findLoad f id with
  | none => f
  | some ld => (List.range ld.pieces.length).foldl (fun f i => askPiece k f id i) f

/-- A new access of a group: atomics, reserved accesses and locks close the group's entries for their lines (11 R337) and drop
the sectors of the core's L1 (05 R143). -/
def startLoad (k : Keel) (f : Fab) (ld : Load) : Fab × Nat :=
  let id := f.nextId
  let f := { f with nextId := id + 1 }
  let f := onCores f fun c => { c with loads := tput c.loads id ld }
  let f := if ld.kind == .plain then f
    else ld.pieces.foldl (fun f p =>
      let f := closeWhere k f ld.gid fun e => e.loc.kind == p.loc.kind && e.loc.part == p.loc.part &&
        decide (e.loc.off / 128 = p.loc.off / 128)
      if p.loc.kind ≤ 1 then onMem f fun m => l1Drop m (coreOfGid ld.gid) p.loc.part (lineOf p.loc) (p.loc.off % 128 / 32) else f) f
  (askAll k f id, id)

/-! ### Fences -/

/-- Loads of the given lanes whose value is not fixed (11 R332). -/
def loadsOut (f : Fab) (gid : Nat) (mask : Word32) : Bool :=
  (loadsOf f gid).any fun l => l.2.kind != .lock && l.2.kind != .unlock && l.2.pieces.any fun p => mask.getLsbD p.lane

/-- Stores of a group, and stores of the partition's groups on the core that its loads may have read from the L1, that are not
performed at the scope (04 R109, 11 R333). At device scope a store to a peer is not waited for (11 R336). -/
def storesOut (f : Fab) (gid part scope : Nat) : Bool :=
  let counts := fun (e : SbEntry) => e.issued && (decide (scope ≥ 3) || e.loc.kind != 4)
  (entriesOf f gid).any counts ||
  (List.range 4).any fun s => (sbOf f (coreOfGid gid * 4 + s)).any fun e => counts e && e.loc.part == part

/-- Whether a fence's guarantee holds. KIND 0 acquire, 1 release, 2 full; SCOPE 0 group to 3 system. -/
def fenceHolds (f : Fab) (gid : Nat) (g : Group) (mask : Word32) (scope kind : Nat) : Bool :=
  !loadsOut f gid mask && (kind == 0 || decide (scope ≤ 1) || !storesOut f gid g.part scope)

/-- The fence begins: a release or full fence of block scope or wider closes the group's entries (11 R337). -/
def fenceBegin (k : Keel) (f : Fab) (gid scope kind : Nat) : Fab :=
  if kind ≠ 0 && decide (scope ≥ 1) then closeAll k f gid else f

/-- 04 R110: a device- or system-scope acquire or full fence invalidates the partition's L1 lines on the core. -/
def fenceAcquire (f : Fab) (gid part scope kind : Nat) : Fab :=
  if kind ≠ 1 && decide (scope ≥ 2) then
    onMem f fun m => { m with l1 := m.l1.filter fun x => !(x.core == coreOfGid gid && x.part == part) }
  else f

/-- Bytes of a descriptor (05 R149, 06, 07). -/
def descLen : EngKind → Nat
  | .matrix => 64
  | .copy => 64
  | .routing => 128

/-- The holder value of a lane (04 R122). -/
def holderOf (gid lane : Nat) : Nat := 1 + gid * 32 + lane

/-- A lock's word as it stands now. -/
def lockWord (k : Keel) (f : Fab) (loc : Loc) : Option Nat :=
  match loc.kind with
  | 0 | 1 => some (leNat (peek k f loc 4).1)
  | 2 => some (leNat (locBytes f.mem loc.core loc.off 4))
  | _ => none

/-- `lock.rel` after its release (04 R123): the paths of the group that wait for the word are ready; the word is released by a
compare with the holder, unless a word that can be seen is not the lane's own. -/
def unlockNow (k : Keel) (f : Fab) (gid key : Nat) (p : Path) (pc : Word64) (ls : List (Nat × Word64 × Loc)) : Fab :=
  match findGroup f gid with
  | none => f
  | some g =>
    let at_ : Stand := { key := key, pc := pc, mask := p.mask, act := lanesMask (ls.map (·.1)), fetched := true, joins := p.joins }
    let bad := ls.filter fun x => (lockWord k f x.2.2).any (· != holderOf gid x.1)
    if !bad.isEmpty then
      park k (modGroup f gid fun g => { g with paths := tmod g.paths key fun p => { p with pc := at_.pc, st := .ready } }) gid at_
        0x0107 ((bad.map (·.2.1)).headD 0) (bad.map (·.1))
    else
      let f := modGroup f gid fun g =>
        (g.paths.filter fun q => match q.2.st with
          | .waitLock locs => locs.any fun l => ls.any fun x => x.2.2 == l
          | _ => false).foldl (fun g q => wakePath g q.1) g
      let ld : Load :=
        { gid := gid, part := g.part, kind := .unlock, dst := 0, scope := 0, op := 0x11, far := false
          operands := ls.map fun x => (BitVec.ofNat 128 (holderOf gid x.1), 0)
          pieces := ls.map fun x => { lane := x.1, addr := x.2.1, loc := x.2.2, size := 4, asked := false, stamp := 0, data := none, fault := 0 }
          stand := at_ }
      (startLoad k f ld).1

/-- The bytes of a descriptor are captured, and reach the engine 4 beats later (04 R103). -/
def launchDesc (f : Fab) (gid : Nat) (g : Group) (e : EngKind) (addr : Word64) (at_ : Nat) : Fab :=
  send (locSeen f (coreOfGid gid) at_ (descLen e))
    (.capture e gid g.ctx g.part g.level addr (locBytes f.mem (coreOfGid gid) at_ (descLen e)))

/-- What follows a fence that holds. -/
def doAfter (k : Keel) (f : Fab) (gid key : Nat) (g : Group) (p : Path) (a : After) : Fab :=
  match a with
  | .next => f
  | .count phys n set_ => sendCnt f phys (if set_ then .set_ else .add) n (groupLast gid g.ctx)
  | .launch e addr at_ => launchDesc f gid g e addr at_
  | .unlock ls => unlockNow k f gid key p (p.pc - 8) ls

/-- A path waits in a fence, or goes on at once where the guarantee holds (04 R111). -/
def fencePath (k : Keel) (f : Fab) (gid key scope kind : Nat) (a : After) (next : Word64) : Fab :=
  let f := fenceBegin k f gid scope kind
  match findGroup f gid with
  | none => f
  | some g => match tfind g.paths key with
    | none => f
    | some p =>
      if fenceHolds f gid g p.mask scope kind then
        let f := fenceAcquire f gid g.part scope kind
        let f := modGroup f gid fun g => if p.st == .running then goOn g key p next false else placePath g key { p with pc := next } .ready
        doAfter k f gid key g { p with pc := next } a
      else modGroup f gid fun g => waitPath g key p next (.waitFence scope kind a)

/-- Every fence wait of a group whose guarantee holds now ends. -/
def recheckFences (k : Keel) (f : Fab) (gid : Nat) : Fab :=
  match findGroup f gid with
  | none => f
  | some g => g.paths.foldl (fun f e =>
      match (findGroup f gid).bind fun g => (tfind g.paths e.1).map fun p => (g, p) with
      | none => f
      | some (g, p) => match p.st with
        | .waitFence scope kind a =>
          if fenceHolds f gid g p.mask scope kind then
            let f := fenceAcquire f gid g.part scope kind
            doAfter k (modGroup f gid fun g => wakePath g e.1) gid e.1 g p a
          else f
        | _ => f) f

/-! ### Block barriers (03 R70, 04 R124) -/

/-- Every live lane of a group waits at barrier n, with its loads delivered: the block-scope full fence holds. A group that parks
or is parked has not arrived (03 R75). -/
def atBarrier (f : Fab) (n gid : Nat) : Bool :=
  match findGroup f gid with
  | none => true
  | some g => g.park == .running && g.paths.all (fun p => p.2.st == .waitBarrier n) && !loadsOut f gid g.liveMask

/-- The barriers of a block that every group has reached release them all. -/
def checkBarriers (f : Fab) (block : Nat) : Fab :=
  match tfind f.cores.blocks block with
  | none => f
  | some b => (List.range 16).foldl (fun f n =>
      if b.gids.all (atBarrier f n) then
        b.gids.foldl (fun f gid => modGroup f gid fun g => g.paths.foldl (fun g p => wakePath g p.1) g) f
      else f) f

/-! ### The end of groups and blocks -/

/-- A block's groups, registers and slice are freed together (03 R57); each ended block, a killed one too,
counts for its LAUNCH (log 33). -/
def freeBlock (f : Fab) (block : Nat) : Fab :=
  match tfind f.cores.blocks block with
  | none => f
  | some b =>
    let f := onCores f fun c => { c with
      groups := c.groups.filter fun g => !b.gids.contains g.1, blocks := tdel c.blocks block }
    let f := onMem f fun m => { m with
      resv := m.resv.filter (fun r => !b.gids.contains r.gid)
      failedLane := m.failedLane.filter fun r => !b.gids.contains r.gid }
    match findCmd f b.q b.j with
    | none => f
    | some c =>
      let f := modCmd f b.q b.j fun c => { c with left := c.left - 1 }
      if c.left ≤ 1 && !resetting f b.part && !stoppedCtx f b.ctx then actCmd f b.q b.j 0 else f

/-- Every load and every store of a group has been answered. -/
def accessesDone (f : Fab) (gid : Nat) : Bool :=
  (loadsOf f gid).isEmpty && (entriesOf f gid).isEmpty && (findGroup f gid).all (·.unstored.isEmpty)

/-- Whether every group of a block has ended. -/
def blockEnded (f : Fab) (b : Block) : Bool :=
  b.gids.all fun gid => ((findGroup f gid).map fun g => g.paths.isEmpty && g.park == .running).getD true

/-- After lanes exit: merges, the next path, and the end of the block. DESIGN CHOICE (log 57): the block stays allocated until its
groups' outstanding loads and stores have been answered. -/
def afterExit (f : Fab) (gid key : Nat) : Fab :=
  let f := modGroup f gid fun g => rotate (mergePaths 33 g) key
  match findGroup f gid with
  | none => f
  | some g =>
    if g.paths.isEmpty then
      match tfind f.cores.blocks g.block with
      | none => f
      | some b => if blockEnded f b && (b.gids.all (accessesDone f))
          then freeBlock f g.block else checkBarriers f g.block
    else checkBarriers f g.block

/-- Waiters leave their lists, with no subtraction, and so do their requests and releases on the way (12 R361). -/
def withdraw (f : Fab) (mine : Waiter → Bool) : Fab :=
  let f := onTab f fun t => { t with ctrs := t.ctrs.map fun c => (c.1, { c.2 with
    owait := c.2.owait.filter fun w => !mine w, cwait := c.2.cwait.filter fun w => !mine w }) }
  { f with net := f.net.filter fun m => match m.2 with
      | .waitReq _ _ w => !mine w
      | .release w _ => !mine w
      | _ => true }

/-- 03 R79: a block is killed: its groups stop, its wait slots leave their lists. The block ends by BLOCK_KILL_COMPLETE once its
accesses are done; until then a group that was parked is parking again (log 57), so that 03 R83 refuses what comes after. -/
def killBlock (k : Keel) (f : Fab) (block : Nat) : Fab :=
  match tfind f.cores.blocks block with
  | none => f
  | some b =>
    let f := onCores f fun c => { c with blocks := tmod c.blocks block fun b => { b with killed := true } }
    let stop := fun (g : Group) => { g with killed := true, park := if g.park == .running then .running else .parking }
    withdraw (b.gids.foldl (fun f gid => closeAll k (modGroup f gid stop) gid) f)
      fun w => !w.isQueue && b.gids.contains (w.wslot / 4)

/-! ### Wait slots -/

/-- A path begins a counter wait: it takes a free wait slot and its request is sent, or it waits for one (12 R358). -/
def takeWait (f : Fab) (gid key phys : Nat) (consuming : Bool) (n pred scope : Nat) (act : Word32) : Fab :=
  match findGroup f gid with
  | none => f
  | some g =>
    match (List.range 4).find? fun s => (tfind g.waits s).isNone with
    | none => modGroup f gid fun g => { g with
        paths := tmod g.paths key fun p => { p with st := .waitSlot phys consuming n pred scope act } }
    | some s =>
      let f := modGroup f gid fun g => { g with
        waits := tput g.waits s { phys := phys, consume := consuming, pred := pred, scope := scope, act := act }
        paths := tmod g.paths key fun p => { p with st := .waitCounter s } }
      send f (.waitReq phys consuming { isQueue := false, ctx := g.ctx, wslot := gid * 4 + s, n := n })

/-- A wait slot is free again: the first path that waits for one takes it. -/
def passSlot (f : Fab) (gid : Nat) : Fab :=
  match (findGroup f gid).bind fun g => g.paths.find? fun p => match p.2.st with
      | .waitSlot .. => true
      | _ => false with
  | none => f
  | some (key, p) => match p.st with
    | .waitSlot phys consuming n pred scope act => takeWait f gid key phys consuming n pred scope act
    | _ => f

/-! ### Issue -/

/-- An instruction about to issue: its group, running path, word and active lanes under the guard. -/
structure Iss where
  gid : Nat
  g : Group
  key : Nat
  p : Path
  w : Word64
  act : Word32
  deriving DecidableEq, Repr

inductive Fetch where
  | word (w : Word64)
  | flawed (die : Nat) (l : Line)
  | fault (code : Nat)
  deriving DecidableEq, Repr

/-- The instruction at an address (04 R84): a failure of the object check is "instruction fetch outside object" (03 R81); a poisoned sector is an
uncorrectable near-memory read, a copy with bad parity gives no word. DESIGN CHOICE (log 65): a misaligned address counts among those failures. -/
def fetch (k : Keel) (f : Fab) (part : Nat) (pc : Word64) : Fetch :=
  match checkAt f part none .fetch pc 8 8 with
  | .error _ => .fault 0x0105
  | .ok loc =>
    let (bs, bad) := peek k f loc 8
    match if cached k loc then flawAt f (lineOf loc) else none with
    | some die => .flawed die (lineOf loc)
    | none => if bad then .fault 0x0209 else .word (BitVec.ofNat 64 (leNat bs))

/-- Entries of a core's matrix queue, copy and routing engines that a sub-core or core holds (04 R104). -/
def srcGid : EngSrc → Option Nat
  | .group gid => some gid
  | _ => none

def capturesOf (f : Fab) (e : EngKind) (p : Nat → Bool) : Nat :=
  (f.net.filter fun m => match m.2 with
    | .capture e' gid _ _ _ _ _ => e' == e && p gid
    | _ => false).length

/-- Issues with REL whose fence still waits (04 R94): they count from their issue. -/
def launchesOf (f : Fab) (e : EngKind) (p : Nat → Bool) : Nat :=
  ((f.cores.groups.filter fun g => p g.1).flatMap fun g => g.2.paths.filter fun q => match q.2.st with
    | .waitFence _ _ (.launch e' _ _) => e' == e
    | _ => false).length

/-- The issues of an engine kind that have not reached its queue. -/
def issuing (f : Fab) (e : EngKind) (p : Nat → Bool) : Nat := capturesOf f e p + launchesOf f e p

/-- All 40 entries of a core's array are taken, those of issues on their way among them (06 R159). -/
def arrayFull (f : Fab) (core : Nat) : Bool :=
  decide (((tfind f.eng.mx core).map (·.queue.length)).getD 0 + issuing f .matrix (fun x => coreOfGid x == core) ≥ 40)

def engineFull (f : Fab) (gid : Nat) (c : XClass) : Bool :=
  match c with
  | .mxIssue =>
    let mine := fun (x : Nat) => x / 16 == gid / 16
    let q := ((tfind f.eng.mx (coreOfGid gid)).map (·.queue)).getD []
    decide ((q.filter fun e => (srcGid e.src).any mine).length + issuing f .matrix mine ≥ 8) || arrayFull f (coreOfGid gid)
  | .cpIssue =>
    let mine := fun (x : Nat) => coreOfGid x == coreOfGid gid
    let q := ((tfind f.eng.cp (clusterOfCore (coreOfGid gid))).map (·.descs)).getD []
    decide ((q.filter fun e => (srcGid e.src).any mine).length + issuing f .copy mine ≥ 4)
  | .rtIssue =>
    let mine := fun (x : Nat) => coreOfGid x == coreOfGid gid
    let q := ((tfind f.eng.rt (clusterOfCore (coreOfGid gid))).map (·.runs)).getD []
    decide ((q.filter fun e => (srcGid e.src).any mine).length + issuing f .routing mine ≥ 2)
  | _ => false

/-- Vector registers that a pending access will write. -/
def pendingRegs (f : Fab) (gid : Nat) : List Nat :=
  (loadsOf f gid).flatMap fun l => regRun l.2.dst (match l.2.kind with
    | .cond => 1
    | .lock | .unlock => 0
    | _ => ((l.2.pieces.map fun p => ceilDiv p.size 4).foldl max 1))

/-- Uniform registers and predicates that the paths of a group wait to have written: of `cnt.rd`, and of counter waits (04 R114). -/
def waitedUregs (g : Group) : List Nat := g.paths.filterMap fun p => match p.2.st with
  | .waitRead reg _ => some reg
  | _ => none

def waitedPregs (g : Group) : List Nat := g.paths.filterMap fun p => match p.2.st with
  | .waitSlot _ _ _ pred _ _ => some pred
  | .waitCounter s => (tfind g.waits s).map (·.pred)
  | _ => none

/-- 03 R64: a register that the instruction reads or writes has its result pending. -/
def resultPending (f : Fab) (gid : Nat) (g : Group) (c : XClass) (w : Word64) : Bool :=
  (xVregs c w).any (pendingRegs f gid).contains || (xUregs c w).any (waitedUregs g).contains || (xPregs c w).any (waitedPregs g).contains



/-- Branches of the control format, in which every active lane takes part (04 R86). -/
def isBranch (w : Word64) : Bool := xFmt w == 4 && decide (1 ≤ xOpc w ∧ xOpc w ≤ 3)

/-- The lanes that an instruction is executed for: those whose guard is true, or, on replay, those that were active when it
faulted (03 R80). -/
def activeLanes (g : Group) (w : Word64) (p : Path) : Word32 :=
  if isBranch w then guarded g w p.mask else (g.replay.getD (guarded g w p.mask)) &&& p.mask

/-- 11 R337: none of the sub-core's 16 entries is free, and a lane of the store would take one: its place is in a memory object, and
no open entry of the group is for its line. -/
def bufferFull (f : Fab) (gid : Nat) (g : Group) (p : Path) (c : XClass) (w : Word64) : Bool :=
  c == .st && decide ((sbOf f (gid / 16)).length ≥ 16) &&
  (lanes (activeLanes g w p)).any fun l =>
    let a := effAddr g c w l
    match check f g.part (some (coreOfGid gid)) .st a.1 a.2 (mBytes w) (mBytes w) with
    | .error _ => false
    | .ok loc => loc.kind != 2 && !(sbOf f (gid / 16)).any (mergesWith gid loc)

/-- 03 R64: the group may issue in this beat. -/
def eligible (k : Keel) (f : Fab) (gid : Nat) (g : Group) : Bool :=
  g.park == .running && !g.killed && g.unstored.isEmpty && mayRun k g.part && coreOn k (coreOfGid gid) &&
  !((loadsOf f gid).any fun l => l.2.kind == .lock || l.2.kind == .unlock) &&
  match g.running with
  | none => false
  | some (_, p) => match fetch k f g.part p.pc with
    | .fault _ | .flawed _ _ => true
    | .word w => match xClass w with
      | none => true
      | some c => !resultPending f gid g c w && !engineFull f gid c && !bufferFull f gid g p c w

/-- The key of the slot that last issued on a sub-core at a level. -/
def levelKey (gid level : Nat) : Nat := gid / 16 * 4 + level

/-- 03 R65: before group `a` at the same level, in slot order from the slot after `last`. -/
def slotBefore (last a b : Nat) : Bool := decide ((slotOfGid a + 15 - last) % 16 < (slotOfGid b + 15 - last) % 16)

/-- 03 R65, 14 R414: the sub-core issues from this group and no other. -/
def picked (k : Keel) (f : Fab) (gid : Nat) (g : Group) : Bool :=
  let owner := slotOwner k f (dieOfCore (coreOfGid gid))
  let own := fun (x : Group) => owner == some x.part
  let last := tgetD f.cores.lastSlot (levelKey gid g.level) 15
  eligible k f gid g &&
  f.cores.groups.all fun (o, x) =>
    o == gid || o / 16 != gid / 16 || !eligible k f o x ||
    (if own g != own x then own g
     else if g.level ≠ x.level then decide (g.level > x.level)
     else slotBefore last gid o)

inductive Issue where
  | notDue
  | park (at_ : Stand) (code : Nat)
  | flawed (die : Nat) (l : Line)
  | skip (i : Iss)
  | go (i : Iss)
  deriving DecidableEq, Repr

/-- The lanes that can fault: an inactive lane cannot (04 R86). -/
def faultable (g : Group) (w : Word64) (p : Path) : Word32 := if isBranch w then p.mask else activeLanes g w p

def Path.stand (p : Path) (key : Nat) (act : Word32) : Stand :=
  { key := key, pc := p.pc, mask := p.mask, act := act, fetched := true, joins := p.joins }

/-- What a command that issues an instruction of some classes finds at a group. -/
def issueOf (k : Keel) (f : Fab) (at_ : GroupAt) (ok : XClass → Bool) : Issue :=
  let gid := GroupAtGid at_
  match findGroup f gid with
  | none => .notDue
  | some g =>
    if at_.sub ≥ 4 || at_.slot ≥ 16 || !picked k f gid g then .notDue
    else match g.running with
      | none => .notDue
      | some (key, p) => match fetch k f g.part p.pc with
        | .fault c => .park { p.stand key p.mask with fetched := false } c
        | .flawed die l => .flawed die l
        | .word w =>
          let act := faultable g w p
          match xClass w with
          | none => if act = 0 then .skip { gid := gid, g := g, key := key, p := p, w := w, act := 0 } else .park (p.stand key act) 0x0101
          | some c =>
            if !ok c then .notDue
            else if act ≠ 0 && (xVregs c w).any (g.nregs ≤ ·) then .park (p.stand key act) 0x0102
            else .go { gid := gid, g := g, key := key, p := p, w := w, act := activeLanes g w p }

/-- The slot has issued at its level; a replay is over. -/
def noteIssue (f : Fab) (gid level : Nat) : Fab :=
  let f := onCores f fun c => { c with lastSlot := tput c.lastSlot (levelKey gid level) (slotOfGid gid) }
  workUp (modGroup f gid fun g => { g with replay := none }) 0 (gid / 16) 1

/-- A command that issues: the instruction faults at issue, is not due, or runs. One that no lane executes goes by; one whose line shows bad parity is
fetched again (10 R311). DESIGN CHOICE
(log 57): an instruction that faults at its fetch, decoding or register check has not issued, so the slot order stands; one that
faults in its own checks has. -/
def issue (s : State) (at_ : GroupAt) (ok : XClass → Bool) (run : Keel → Fab → Iss → Fab) : Out :=
  onFab s fun k f =>
    match issueOf k f at_ ok with
    | .notDue => f
    | .flawed die l => (parityOn f die l .ok).1
    | .park st code => park k f (GroupAtGid at_) st code 0 (lanes st.act)
    | .skip i => modGroup (noteIssue f i.gid i.g.level) i.gid fun x => goOn x i.key i.p (i.p.pc + 8) false
    | .go i => run k (noteIssue f i.gid i.g.level) i

/-- Where the instruction stands. -/
def Iss.stand (i : Iss) : Stand := i.p.stand i.key (if isBranch i.w then i.p.mask else i.act)

/-- The instruction parks its group with no effect in any lane (03 R74). -/
def Iss.park (i : Iss) (k : Keel) (f : Fab) (code : Nat) (addr : Word64) (faulted : List Nat) : Fab :=
  Machine.park k f i.gid i.stand code addr faulted

/-- The registers change and the path goes on at the next instruction. -/
def Iss.next (i : Iss) (f : Fab) (g : Group → Group) : Fab :=
  modGroup f i.gid fun x => goOn (g x) i.key i.p (i.p.pc + 8) false

def Iss.core (i : Iss) : Nat := coreOfGid i.gid
def Iss.die (i : Iss) : Nat := dieOfCore i.core

end Sys2Proof.Machine
end

