-- ==== Sys2Proof/Machine/Access.lean ====
section
/-!
DEFINITION. Access.lean: the memory instructions of a group (05 R130 to R147, 04 R107, R108, R117 to R123, 11 R327, R337, R341,
R342) and the arrival of their answers.
-/
namespace Sys2Proof.Machine

/-! ### The checks of the lanes -/

/-- One lane's access: its tagged address and its place or fault. -/
structure LaneAt where
  lane : Nat
  slot : Nat
  addr : Word64
  res : Except Nat Loc

/-- Check every active lane (05 R130); `extra` is the check of step 8. -/
def laneChecks (f : Fab) (i : Iss) (c : XClass) (u : Use) (align size : Nat) (extra : Loc → Nat) : List LaneAt :=
  (lanes i.act).map fun l =>
    let a := effAddr i.g c i.w l
    let r := match check f i.g.part (some i.core) u a.1 a.2 align size with
      | .error e => .error e
      | .ok loc => if extra loc = 0 then .ok loc else .error (extra loc)
    { lane := l, slot := a.1, addr := tagged a, res := r }

def LaneAt.bad (x : LaneAt) : Option Nat :=
  match x.res with
  | .error e => some e
  | .ok _ => none

def LaneAt.place (x : LaneAt) : Option Loc :=
  match x.res with
  | .error _ => none
  | .ok l => some l

/-- The fault of the lowest faulting lane, with its address and the mask of every faulting lane (03 R74). -/
def laneFault (xs : List LaneAt) : Option (Nat × Word64 × List Nat) :=
  match xs.find? (·.bad.isSome) with
  | none => none
  | some x => some (x.bad.getD 0, x.addr, (xs.filter (·.bad.isSome)).map (·.lane))

/-- Park where a lane faults, or run on the places, whose sectors of n bytes each take the thread pipe. -/
def withLanes (k : Keel) (f : Fab) (i : Iss) (n : Nat) (xs : List LaneAt) (run : Fab → List (LaneAt × Loc) → Fab) : Fab :=
  match laneFault xs with
  | some (code, addr, ls) => i.park k f code addr ls
  | none =>
    let ys := xs.filterMap fun x => x.place.map fun l => (x, l)
    run (pipeBeats f i.core (ys.map fun y => (y.2, n))) ys

/-- Lanes whose place is out of reach fail at the port at once: each is counted on its route (16 R461), and an atomic's failure sets
REMOTE_FAIL (04 R99). -/
def countLost (k : Keel) (f : Fab) (i : Iss) (xs : List LaneAt) : Fab :=
  let lost := xs.filter fun x => x.bad == some 0x0501
  if lost.isEmpty then f
  else lost.foldl (fun f x => match findObj f i.g.part x.slot with
    | .ok o => match (if o.kind = 4 then routeOf k (fld o.kdata.toNat 0 32) else none) with
      | some r => modRoute f r.1 fun s => { s with failed := sat 65535 (s.failed + 1) }
      | none => f
    | .error _ => f) (if xClass i.w == some .atomic then modGroup f i.gid fun g => { g with gstatus := g.gstatus ||| 1 } else f)

/-- 05 R139 for a read of local memory. -/
def badRead (f : Fab) (size : Nat) (loc : Loc) : Nat := if loc.kind = 2 ∧ locBad f.mem loc.core loc.off size then 0x0208 else 0

/-- The fault of a serial access at its issue: an unreadable word of local memory, a poisoned sector (10 R288), or a lost peer (11 R345). -/
def reachFault (k : Keel) (f : Fab) (n : Nat) (loc : Loc) : Nat :=
  if lostPlace k f loc then 0x0501 else if loc.kind ≤ 1 && (peek k f loc n).2 then 0x0209 else badRead f n loc

def mkPieces (size : Nat) (xs : List (LaneAt × Loc)) : List Piece :=
  xs.map fun x => { lane := x.1.lane, addr := x.1.addr, loc := x.2, size := size, asked := false, stamp := 0, data := none, fault := 0 }

def mkLoad (i : Iss) (kind : LoadKind) (dst : Nat) (pieces : List Piece) : Load :=
  { gid := i.gid, part := i.g.part, kind := kind, dst := dst, scope := mScope i.w, op := 0, far := false, operands := [],
    pieces := pieces, stand := i.stand }

/-- The requests of an instruction at its core's request port, by object slot (10 R307). -/
def trainStreams (k : Keel) (f : Fab) (i : Iss) (xs : List (LaneAt × Loc)) : Fab :=
  ((xs.map (·.1.slot)).eraseDups).foldl (fun f slot =>
    trainOn k f (subPort (i.gid / 16)) slot ((xs.filter (·.1.slot == slot)).map (·.2))) f

/-! ### Loads -/

/-- A lane's load goes on to the L2: neither the group's own buffered stores nor the L1 hold its bytes. -/
def pastL1 (f : Fab) (i : Iss) (n : Nat) (x : LaneAt × Loc) : Bool :=
  (bufferedBytes f i.gid x.2 n).any (·.isNone) &&
  (mScope i.w != 0 || !x.2.c || (l1Look f i.core x.2.part (lineOf x.2) (x.2.off % 128 / 32)).2.isNone)

/-- `ld` (05 R143). -/
def runLd (k : Keel) (f : Fab) (i : Iss) : Fab :=
  let n := mBytes i.w
  withLanes k f i n (laneChecks f i .ld .load n n (badRead f n)) fun f xs =>
    if xs.isEmpty then i.next f id
    else
      let past := xs.filter (pastL1 f i n)
      i.next (trainStreams k (startLoad k f (mkLoad i .plain (mD i.w) (mkPieces n xs))).1 i past) id

/-- The rows of a tile, each through steps 1 to 7 of 05 R130. -/
def trRows (f : Fab) (i : Iss) (a : Nat × Int) (e stride : Nat) : Except Nat (List Loc) :=
  (List.range (16 / e)).foldl (fun r (row : Nat) =>
    match r with
    | .error x => .error x
    | .ok ls => match check f i.g.part (some i.core) .load a.1 (a.2 + row * stride) 1 (32 * e) with
      | .error x => .error x
      | .ok loc => .ok (ls ++ [loc])) (.ok [])

/-- `ld.tr` (05 R146, R147): the tile of an active lane's base, checked whole; then what step 8 of 05 R130 adds, in the order of R147
(log 60): base and stride, the kind, and words that cannot be read. -/
def trCheck (f : Fab) (i : Iss) (l e stride : Nat) : Except Nat (List Loc) :=
  let a := effAddr i.g .ldTr i.w l
  match trRows f i a e stride with
  | .error x => .error x
  | .ok ls =>
    if a.2 % 32 ≠ 0 ∨ stride % 32 ≠ 0 then .error 0x0204
    else if ls.any (·.kind != 2) then .error 0x0203
    else if ls.any fun loc => badRead f (32 * e) loc != 0 then .error 0x0208 else .ok ls

def runLdTr (k : Keel) (f : Fab) (i : Iss) : Fab :=
  let e := 2 ^ mSize i.w
  let stride := (uget i.g (mS i.w)).toNat
  let tiles := (lanes i.act).map fun l => (l, trCheck f i l e stride)
  let bad := tiles.filterMap fun t => match t.2 with
    | .error x => some (t.1, x)
    | .ok _ => none
  match bad with
  | (l, code) :: _ => i.park k f code (tagged (effAddr i.g .ldTr i.w l)) (bad.map (·.1))
  | [] =>
    let read := fun (f : Fab) (loc : Loc) => locSeen f loc.core loc.off (32 * e)
    let seen := tiles.foldl (fun f t => match t.2 with
      | .error _ => f
      | .ok rows => rows.foldl read f) (pipeBeats f i.core (tiles.flatMap fun t => match t.2 with
        | .error _ => []
        | .ok rows => rows.map fun loc => (loc, 32 * e)))
    i.next seen fun g => tiles.foldl (fun g t => match t.2 with
      | .error _ => g
      | .ok rows => vputBytes g (mD i.w) t.1
          (rows.flatMap fun loc => locBytes f.mem loc.core (loc.off + t.1 * e) e)) g

/-- The rows of a fragment (04 R107, R108): each lane's row, checked in full. -/
def fragChecks (f : Fab) (i : Iss) (c : XClass) (u : Use) : List LaneAt :=
  let n := mBytes i.w
  let b := effAddr i.g c i.w 0
  let stride := (uget i.g (mS i.w)).toNat
  (List.range 32).map fun (l : Nat) =>
    let off : Int := b.2 + l * stride
    let r := match check f i.g.part (some i.core) u b.1 off n n with
      | .error e => .error e
      | .ok loc => if loc.kind ≠ 2 then .error 0x0206
                   else if u = .load ∧ locBad f.mem loc.core loc.off n then .error 0x0208 else .ok loc
    { lane := l, slot := b.1, addr := tagged (b.1, off), res := r }

/-- `frag.ld` needs all 32 lanes (03 R72); one that no lane executes goes by (04 R86). -/
def runFragLd (k : Keel) (f : Fab) (i : Iss) : Fab :=
  if i.act = 0 then i.next f id
  else if i.act ≠ 0xFFFFFFFF then i.park k f 0x0103 0 (lanes i.act)
  else
    let n := mBytes i.w
    withLanes k f i n (fragChecks f i .fragLd .load) fun f xs =>
    i.next (xs.foldl (fun f x => locSeen f x.2.core x.2.off (mBytes i.w)) f) fun g => xs.foldl (fun g x => vputBytes g (mD i.w) x.1.lane (locBytes f.mem x.2.core x.2.off (mBytes i.w))) g

/-- A store of a lane to local memory; the reservations of other lanes and agents on those bytes are lost (04 R118). -/
def storeLocal (f : Fab) (gid lane : Nat) (loc : Loc) (bs : List Byte) : Fab :=
  loseResv (onMem f fun m => locWrite m loc.core loc.off (bs.map some)) loc bs.length fun r => r.gid == gid && r.lane == lane

/-- `frag.st`: as `frag.ld`. -/
def runFragSt (k : Keel) (f : Fab) (i : Iss) : Fab :=
  if i.act = 0 then i.next f id
  else if i.act ≠ 0xFFFFFFFF then i.park k f 0x0103 0 (lanes i.act)
  else
    let n := mBytes i.w
    withLanes k f i n (fragChecks f i .fragSt .store) fun f xs =>
    i.next (xs.foldl (fun f x => storeLocal f i.gid x.1.lane x.2 (vbytes i.g (mD i.w) (n / 4) x.1.lane)) f) id

/-! ### Stores -/

/-- A store to a door holds a counter identifier and a number, and no other bit (16 R454). -/
def doorValue (i : Iss) (n : Nat) (x : LaneAt) : LaneAt :=
  match x.res with
  | .ok loc =>
    let v := leNat (sBytes i.g i.w n x.lane)
    if loc.isDoor && fld v 14 18 != 0 then { x with res := .error 0x0301 } else x
  | .error _ => x

/-- `st` (05 R137, R138, R143): lanes in order, so that the highest lane's byte stands. -/
def runSt (k : Keel) (f : Fab) (i : Iss) : Fab :=
  let n := mBytes i.w
  let part := fun (loc : Loc) =>
    if loc.kind = 2 ∧ n < 4 ∧ locBad f.mem loc.core loc.off n then 0x0208 else 0
  withLanes k f i n ((laneChecks f i .st .st n n part).map (doorValue i n)) fun f xs =>
    let bs := fun (x : LaneAt × Loc) => sBytes i.g i.w n x.1.lane
    let f := (xs.filter (·.2.kind == 2)).foldl (fun f x => storeLocal f i.gid x.1.lane x.2 (bs x)) f
    i.next (bufferAll k f i.gid ((xs.filter (·.2.kind != 2)).map fun x => { lane := x.1.lane, slot := x.1.slot, loc := x.2, bytes := bs x })) id

/-! ### Atomics, reservations and locks -/

/-- The operands of an atomic for a lane (04 R92): for `atom.cmpx` the compare value lies in the lower half of the register group
that S names and the new value in the upper. -/
def atomOperands (i : Iss) (l : Nat) : Word128 × Word128 :=
  let n := mBytes i.w
  let r := 4 * regsOfSize (mSize i.w)
  if xOpc i.w = 0x11 then
    let bs := sBytes i.g i.w (2 * r) l
    (BitVec.ofNat 128 (leNat (bs.take n)), BitVec.ofNat 128 (leNat ((bs.drop r).take n)))
  else (BitVec.ofNat 128 (leNat (sBytes i.g i.w n l)), 0)

/-- `atom.*` (11 R327). -/
def runAtomic (k : Keel) (f : Fab) (i : Iss) : Fab :=
  let n := mBytes i.w
  let xs := laneChecks f i .atomic .both n n (reachFault k f n)
  withLanes k (countLost k f i xs) i n xs fun f xs =>
    if xs.isEmpty then i.next f id
    else
      let ld := { mkLoad i .atomic (mD i.w) (mkPieces n xs) with
                  op := xOpc i.w, far := mFar i.w, operands := xs.map fun x => atomOperands i x.1.lane }
      i.next (trainStreams k (startLoad k f ld).1 i xs) id

/-- The lines of a granule. -/
def granuleLines (loc : Loc) (gran : Nat) : List Line :=
  (List.range (gran / 128)).map fun j => { kind := loc.kind, part := loc.part, idx := loc.off / gran * gran / 128 + j }

/-- While the entries of a granule stand, its lines are held in E and M by no agent (11 R342): copies, and fills on their way, are
reduced to S, and what was dirty is written back; one on its way out of an eviction buffer can come back in S or O, and the tether die's goes to S
or O by a read of the home's. -/
def reduceLine (k : Keel) (f : Fab) (l : Line) : Fab :=
  let unowned := fun (f : Fab) => modDir f l fun e => { e with owner := none }
  let f := (f.mem.l2.filter (·.line == l)).foldl (fun f c => useCheck f c.die l) f
  let f := (f.mem.l2.filter fun c => c.line == l && (c.st == .E || c.st == .M)).foldl (fun f c =>
    let f := homeWrite f l c.d
    unowned (onMem f fun m => modL2 m c.die l fun c => { c with st := .S, d := { c.d with dirty := 0 } })) f
  let owning := fun (st : LState) => st == .E || st == .M
  let f := (f.net.filter fun m => match m.2 with
      | .fill l' _ d st _ _ => l' == l && decide (d < 4) && owning st
      | _ => false).foldl (fun f m => match m.2 with
    | .fill _ src d _ x till =>
      let f := homeWrite f l x
      unowned { f with net := tput f.net m.1 (.fill l src d .S { x with dirty := 0 } till) }
    | _ => f) f
  let f := { f with net := f.net.map fun m => match m.2 with
    | .memRead loc n (.fill a st) => if lineOf loc == l && owning st then (m.1, .memRead loc n (.fill a .S)) else m
    | _ => m }
  let f := onMem f fun m => { m with evb := m.evb.map fun e =>
    if e.line == l then { e with st := if e.st == .E then .S else if e.st == .M then .O else e.st } else e }
  match findDir f.mem l with
  | some e => if e.owner = some 4 ∧ e.txn.isNone then startTxn k f l (.read (homeOf k l).die) else f
  | none => f

/-- Entries of a partition's reservations in the slice of a line (11 R342): one for each line of a granule. -/
def entriesAt (k : Keel) (f : Fab) (part : Nat) (l : Line) : Nat :=
  let at_ := fun (x : Line) => ((homeOf k x).die, (homeOf k x).slice)
  ((f.mem.resv.filter fun r => r.granule && r.loc.part == part).flatMap fun r =>
    (granuleLines r.loc r.gran).filter fun x => at_ x == at_ l).length

/-- A slice keeps 32 entries for each partition: new ones, of which `n` are to be placed there, displace the partition's oldest (11
R342). -/
def displaceResv (k : Keel) (part : Nat) (l : Line) (n : Nat) : (fuel : Nat) → Fab → Fab
  | 0, f => f
  | fuel + 1, f =>
  let at_ := fun (x : Line) => ((homeOf k x).die, (homeOf k x).slice)
  if entriesAt k f part l + n ≤ 32 then f
  else match (f.mem.resv.filter fun r => r.granule && r.loc.part == part && (granuleLines r.loc r.gran).any fun x => at_ x == at_ l).foldl
      (fun (b : Option Resv) r => match b with
        | none => some r
        | some y => if r.use < y.use then some r else b) none with
    | none => f
    | some old => displaceResv k part l n fuel (onMem f fun m => { m with resv := m.resv.erase old })

/-- Room for the entries of a granule's lines. -/
def makeRoom (k : Keel) (f : Fab) (part : Nat) : (ls : List Line) → Fab
  | [] => f
  | l :: ls =>
    let same := fun (x : Line) => (homeOf k x).die == (homeOf k l).die && (homeOf k x).slice == (homeOf k l).slice
    makeRoom k (displaceResv k part l ((ls.filter same).length + 1) 32 f) part ls

/-- A reservation placed when the instruction issues: in the core for local memory and for a cacheable object of kind 3, whose line
has its home in the tether die (log 19); at the homes in granule mode. -/
def placeResv (k : Keel) (f : Fab) (i : Iss) (lane : Nat) (loc : Loc) : Fab :=
  let f := onMem f fun m => { m with resv := m.resv.filter fun r => !(r.gid == i.gid && r.lane == lane) }
  let gran := (granuleOf k loc.part).getD 128
  let base := { loc with off := loc.off / gran * gran }
  let add := fun (granule : Bool) (f : Fab) => onMem f fun m =>
    let m := tick m
    { m with resv := m.resv ++ [{ gid := i.gid, lane := lane, loc := base, gran := gran, granule := granule, use := m.use }] }
  if loc.kind = 2 ∨ loc.kind = 3 then add false f
  else if loc.kind ≤ 1 && (granuleOf k loc.part).isSome then
    let ls := granuleLines loc gran
    add true (ls.foldl (reduceLine k) (makeRoom k f loc.part ls))
  else f

/-- 04 R101: `ld.res` and `st.cond` carry block scope for local memory, device or system scope for every other object; another scope
code is undefined for the instruction (log 60). -/
def resScope (i : Iss) (loc : Loc) : Bool := (loc.kind == 2) == (mScope i.w == 0)

/-- 04 R121: whether a reserved load may name the object; behind a route that is down it loses its peer (11 R345). -/
def resCheck (k : Keel) (f : Fab) (i : Iss) (n : Nat) (loc : Loc) : Nat :=
  if !resScope i loc then 0x0101
  else if loc.kind = 4 ∧ lostPlace k f loc then 0x0501
  else if loc.kind = 4 ∨ (loc.kind = 3 ∧ !loc.c) ∨ (loc.kind ≤ 1 ∧ !cached k loc) then 0x0207 else badRead f n loc

/-- `ld.res` (04 R117, 11 R341, R342). -/
def runLdRes (k : Keel) (f : Fab) (i : Iss) : Fab :=
  let n := mBytes i.w
  let xs := laneChecks f i .ldRes .both n n (resCheck k f i n)
  withLanes k (countLost k f i xs) i n xs fun f xs =>
    if xs.isEmpty then i.next f id
    else
      let f := xs.foldl (fun f x => placeResv k f i x.1.lane x.2) f
      i.next (trainStreams k (startLoad k f (mkLoad i .res (mD i.w) (mkPieces n xs))).1 i xs) id

/-- The reservation of a lane that meets a place. -/
def resvAt (f : Fab) (gid lane : Nat) (loc : Loc) : Option Resv :=
  f.mem.resv.find? fun r => r.gid == gid && r.lane == lane && r.meets loc 1

/-- 04 R121: of the lanes of one `st.cond` that hold reservations on one granule only the lowest can succeed. -/
def outranked (f : Fab) (gid : Nat) (xs : List (LaneAt × Loc)) (x : LaneAt × Loc) : Bool :=
  match resvAt f gid x.1.lane x.2 with
  | none => false
  | some r => xs.any fun y => decide (y.1.lane < x.1.lane) && (resvAt f gid y.1.lane y.2).any fun q => q.loc == r.loc

/-- A write of part of an unreadable word of local memory (05 R139), and the scope of 04 R101. -/
def condCheck (f : Fab) (i : Iss) (n : Nat) (loc : Loc) : Nat :=
  if !resScope i loc then 0x0101 else if loc.kind = 2 ∧ n < 4 ∧ locBad f.mem loc.core loc.off n then 0x0208 else 0

/-- `st.cond` (04 R117): the outranked lanes fail at once, the others are decided where their reservation is kept. -/
def runStCond (k : Keel) (f : Fab) (i : Iss) : Fab :=
  let n := mBytes i.w
  withLanes k f i n (laneChecks f i .stCond .both n n (condCheck f i n)) fun f xs =>
    if xs.isEmpty then i.next f id
    else
      let lost := xs.filter (outranked f i.gid xs)
      let pieces := (mkPieces n xs).map fun p =>
        if lost.any (·.1.lane == p.lane) then { p with asked := true, data := some [0] } else p
      let f := lost.foldl (fun f x => condFailed k f i.gid x.1.lane x.2) f
      i.next (startLoad k f { mkLoad i .cond (mD i.w) pieces with
        operands := xs.map fun x => (BitVec.ofNat 128 (leNat (sBytes i.g i.w n x.1.lane)), 0) }).1 id

/-- `lock.acq` (04 R122): an exchange of each active lane in lane order. The path stands at the instruction until the words
answer. -/
def runLockAcq (k : Keel) (f : Fab) (i : Iss) : Fab :=
  let xs := laneChecks f i .lockAcq .both 4 4 (reachFault k f 4)
  withLanes k (countLost k f i xs) i 4 xs fun f xs =>
    if xs.isEmpty then i.next f id
    else (startLoad k f { mkLoad i .lock 0 (mkPieces 4 xs) with
      op := 0x11, operands := xs.map fun x => (0, BitVec.ofNat 128 (holderOf i.gid x.1.lane)) }).1

/-- `lock.rel` (04 R123): a release at the scope, then the words. -/
def runLockRel (k : Keel) (f : Fab) (i : Iss) : Fab :=
  let xs := laneChecks f i .lockRel .both 4 4 (reachFault k f 4)
  withLanes k (countLost k f i xs) i 4 xs fun f xs =>
    if xs.isEmpty then i.next f id
    else fencePath k f i.gid i.key (mScope i.w + 1) 1 (.unlock (xs.map fun x => (x.1.lane, x.1.addr, x.2))) (i.p.pc + 8)

/-! ### Answers -/

/-- What ends with an access or a store of a group: fence waits on its core, barriers, the end of its block. -/
def afterAccess (k : Keel) (f : Fab) (gid : Nat) : Fab :=
  let core := coreOfGid gid
  let f := (f.cores.groups.filter fun g => coreOfGid g.1 == core).foldl (fun f g => recheckFences k f g.1) f
  match findGroup f gid with
  | none => f
  | some g => if g.paths.isEmpty then afterExit f gid 0 else checkBarriers f g.block

/-- The words of a lock have answered: the lanes that took theirs go on with an acquire; the others split off and wait at the
instruction (04 R122). -/
def lockDecided (k : Keel) (f : Fab) (ld : Load) (scope : Nat) : Fab :=
  match findGroup f ld.gid with
  | none => f
  | some g => match tfind g.paths ld.stand.key with
    | none => f
    | some p =>
      let failed := ld.pieces.filter fun x => leNat (x.data.getD []) != 0
      let won := ld.pieces.any fun x => leNat (x.data.getD []) == 0
      let fm := lanesMask (failed.map (·.lane))
      let wait : PathState := .waitLock (failed.map (·.loc))
      if p.mask &&& ~~~fm = 0 then modGroup f ld.gid fun g => waitPath g ld.stand.key p ld.stand.pc wait
      else
        let f := modGroup f ld.gid fun g =>
          let g := setPath g ld.stand.key { p with mask := p.mask &&& ~~~fm }
          if failed.isEmpty then g
          else match (freeKeys g).head? with
            | none => g
            | some key => setPath g key { p with mask := fm, pc := ld.stand.pc, st := wait, back := 0 }
        if won then fencePath k f ld.gid ld.stand.key scope 0 .next (ld.stand.pc + 8)
        else modGroup f ld.gid fun g => match tfind g.paths ld.stand.key with
          | none => g
          | some p => goOn g ld.stand.key p (ld.stand.pc + 8) false

/-- The registers that an answered access writes. A load below 32 bits leaves the upper bits of its register free (log 22). -/
def writeLoad (f : Fab) (ld : Load) : Fab :=
  let free := f.free
  modGroup (spend f 32) ld.gid fun g => ld.pieces.foldl (fun g p =>
    let d := p.data.getD []
    if ld.kind = .cond then vput g ld.dst p.lane (BitVec.ofNat 32 (leNat d))
    else if d.length < 4 then vputBytes g ld.dst p.lane (d ++ (bytesLE 4 (Config.freeWord (free + p.lane)).toNat).drop d.length)
    else vputBytes g ld.dst p.lane d) g

/-- Whether an older access of the group to a line of this one is still pending: answers come in issue order per line. -/
def olderPending (f : Fab) (id : Nat) (ld : Load) : Bool :=
  (loadsOf f ld.gid).any fun l => decide (l.1 < id) && l.2.pieces.any fun p => ld.pieces.any fun q =>
    p.loc.kind == q.loc.kind && lineOf p.loc == lineOf q.loc && p.loc.core == q.loc.core

/-- The lanes that an access reports as faulted (03 R74): those that have, and those not yet sent that a lost peer would fail. -/
def faultedLanes (k : Keel) (f : Fab) (ld : Load) (bad : Piece → Bool) : List Nat :=
  (ld.pieces.filter fun p => bad p || (!p.asked && lostPlace k f p.loc)).map (·.lane)

/-- LOAD_COMPLETE (05 R145): every lane's answer is in; registers are written, a lock is decided, or the group parks. While lanes
are outstanding, those that waited for a lower lane or for the store buffer go on. -/
def runLoadComplete (k : Keel) (f : Fab) (id : Nat) : Fab :=
  match findLoad f id with
  | none => f
  | some ld =>
    if !answered ld || olderPending f id ld then askAll k f id
    else
      let f := onCores f fun c => { c with loads := tdel c.loads id }
      match findGroup f ld.gid with
      | none => f
      | some g =>
        if g.killed then afterAccess k f ld.gid
        else
          let notHeld := fun (p : Piece) => ld.kind == .unlock && leNat (p.data.getD []) != holderOf ld.gid p.lane
          let bad := ld.pieces.filter fun p => p.fault != 0 || notHeld p
          match bad with
          | p :: _ =>
            let f := if ld.kind == .atomic && bad.any (·.fault == 0x0501) then
                modGroup f ld.gid fun g => { g with gstatus := g.gstatus ||| 1 } else f
            let code := if p.fault = 0 then 0x0107 else p.fault
            afterAccess k (park k f ld.gid ld.stand code p.addr (faultedLanes k f ld fun p => p.fault != 0 || notHeld p)) ld.gid
          | [] =>
            let f := match ld.kind with
              | .lock => lockDecided k f ld (ld.scope + 1)
              | .unlock => f
              | _ => writeLoad f ld
            afterAccess k f ld.gid

/-- STORE_ACK (11 R332): the entry is free; a store that a lost link failed sets REMOTE_FAIL (04 R99). -/
def runStoreAck (k : Keel) (f : Fab) (m : Nat) : Fab :=
  match tfind f.net m with
  | some (.storeAck core sub entry ok) =>
    let u := core * 4 + sub
    let f := drop f m
    match (sbOf f u).find? (·.id == entry) with
    | none => f
    | some e =>
      let f := modSb f u fun es => es.filter (·.id != entry)
      let f := if ok then f else modGroup f e.gid fun g => { g with gstatus := g.gstatus ||| 1 }
      let f := pumpStores k f u
      let f := (f.cores.loads.filter fun l => coreOfGid l.2.gid == core).foldl (fun f l => askAll k f l.1) f
      afterAccess k f e.gid
  | _ => f

/-- LOCK_RETRY_TIMEOUT (04 R122): 16 beats after it began to wait, the path is ready again. -/
def runLockRetry (f : Fab) (gid key : Nat) : Fab :=
  match (findGroup f gid).bind fun g => tfind g.paths key with
  | none => f
  | some p => match p.st with
    | .waitLock _ => modGroup f gid fun g => wakePath g key
    | _ => f

/-! ### The commands -/

/-- LD (05 R143). -/
def execLd (g : GroupAt) (s : State) : Out := issue s g (· == .ld) runLd
/-- LOAD_COMPLETE (05 R145). -/
def execLoadComplete (m : Nat) (s : State) : Out := onFab s fun k f => runLoadComplete k f m
/-- ST (05 R143). -/
def execSt (g : GroupAt) (s : State) : Out := issue s g (· == .st) runSt
/-- LD_TR (05 R146). -/
def execLdTr (g : GroupAt) (s : State) : Out := issue s g (· == .ldTr) runLdTr
/-- ATOMIC (11 R327). -/
def execAtomic (g : GroupAt) (s : State) : Out := issue s g (· == .atomic) runAtomic
/-- LD_RES (04 R117). -/
def execLdRes (g : GroupAt) (s : State) : Out := issue s g (· == .ldRes) runLdRes
/-- ST_COND (04 R117). -/
def execStCond (g : GroupAt) (s : State) : Out := issue s g (· == .stCond) runStCond
/-- FRAG_LD (04 R107). -/
def execFragLd (g : GroupAt) (s : State) : Out := issue s g (· == .fragLd) runFragLd
/-- FRAG_ST (04 R107). -/
def execFragSt (g : GroupAt) (s : State) : Out := issue s g (· == .fragSt) runFragSt
/-- LOCK_ACQ (04 R122). -/
def execLockAcq (g : GroupAt) (s : State) : Out := issue s g (· == .lockAcq) runLockAcq
/-- LOCK_RETRY_TIMEOUT (04 R122). -/
def execLockRetryTimeout (g : GroupAt) (path : Nat) (s : State) : Out := onFab s fun _ f => runLockRetry f (GroupAtGid g) path
/-- LOCK_REL (04 R123). -/
def execLockRel (g : GroupAt) (s : State) : Out := issue s g (· == .lockRel) runLockRel
/-- STORE_ACK (11 R332). -/
def execStoreAck (m : Nat) (s : State) : Out := onFab s fun k f => runStoreAck k f m
/-- STORE_BUFFER_ENTRY_TIMEOUT (11 R337): 32 beats with no merge close an entry. -/
def execStoreBufferEntryTimeout (core sub entry : Nat) (s : State) : Out :=
  onFab s fun k f => leaveEntry k f (core * 4 + sub) entry

end Sys2Proof.Machine
end

