-- ==== Sys2Proof/Machine/Sync.lean ====
section
/-!
DEFINITION. Sync.lean: engine issue (04 R102 to R106), fences, counter operations of groups (04 R113 to R116), the counter
stations' arrivals (12 R353 to R364), block barriers, control flow (04 R96, R97, 03 R67 to R70) and special sources (04 R98).
-/
namespace Sys2Proof.Machine

/-! ### Engine issue -/

/-- The descriptor address of an asynchronous issue: of the lowest active lane, or uniform (04 R87, R94). -/
def descAddr (i : Iss) : Word64 :=
  if xf i.w 38 2 = 0 then vpair i.g (mD i.w) ((lanes i.act).headD 0) else upair i.g (mD i.w)

/-- 04 R102: the whole descriptor lies in the issuing context's share of local memory on the core, aligned. -/
def descCheck (f : Fab) (i : Iss) (e : EngKind) (addr : Word64) : Option Nat :=
  match checkAt f i.g.part (some i.core) .load addr (if e = .routing then 128 else 64) (descLen e) with
  | .error _ => none
  | .ok loc => if loc.kind = 2 ∧ (tfind f.tab.objs (slotOf addr)).any (fun o => o.kdata.toNat % 1024 == i.g.ctx)
               then some loc.off else none

def runEngineIssue (e : EngKind) (k : Keel) (f : Fab) (i : Iss) : Fab :=
  if i.act = 0 then i.next f id
  else
    let addr := descAddr i
    match descCheck f i e addr with
    | none => i.park k f 0x0106 addr (lanes i.act)
    | some at_ =>
      if i.w.getLsbD 31 then fencePath k f i.gid i.key 2 1 (.launch e addr at_) (i.p.pc + 8)
      else launchDesc (i.next f id) i.gid i.g e addr at_

/-- DESCRIPTOR_CAPTURE_COMPLETE (04 R103): the descriptor enters its engine's queue. Captures of one sub-core arrive in the
order issued. -/
def runCapture (k : Keel) (f : Fab) (m : Nat) : Fab :=
  match tfind f.net m with
  | some (.capture e gid ctx part level addr bytes) =>
    let older := f.net.any fun x => decide (x.1 < m) && (match x.2 with
      | .capture e' gid' _ _ _ _ _ => e' == e && gid' / 16 == gid / 16
      | _ => false)
    if older then f
    else
      let f := drop f m
      let core := coreOfGid gid
      let id := f.nextId
      let f := { f with nextId := id + 1 }
      match e with
      | .matrix => onEng f fun g => { g with mx := tupd g.mx core MxArray.fresh fun a => { a with queue := a.queue ++
          [MxEntry.fresh id (.group gid) ctx part level addr bytes (roleOf f (bindRole core part))] } }
      | .copy => onEng f fun g => { g with cp := tupd g.cp (clusterOfCore core) CopyEng.fresh fun a => { a with descs := a.descs ++
          [CpDesc.fresh id (.group gid) ctx part level addr bytes core (roleOf f (copyRole (clusterOfCore core) part))] } }
      | .routing => onEng f fun g => { g with rt := tupd g.rt (clusterOfCore core) RouteEng.fresh fun a => { a with runs := a.runs ++
          [RtRun.fresh id (.group gid) ctx part level addr bytes core (roleOf f (routeRole (clusterOfCore core) part))] } }
  | _ => let _ := k; f

/-! ### Fences and counters of groups -/

def runFence (k : Keel) (f : Fab) (i : Iss) : Fab :=
  if i.act = 0 then i.next f id
  else fencePath k f i.gid i.key (yScope i.w) (yKind i.w) .next (i.p.pc + 8)

/-- An instruction that names a counter runs on its physical counter, or parks with "counter identifier unmapped". -/
def withCounter (k : Keel) (f : Fab) (i : Iss) (r : Right) (run : Nat → Fab) : Fab :=
  if i.act = 0 then i.next f id
  else match translate f i.g.ctx (syncCid i.g i.w) r with
    | none => i.park k f 0x0401 0 (lanes i.act)
    | some phys => run phys

/-- `cnt.sig` (04 R114, R116): a release at S, then the add; an n of 0 adds nothing. -/
def runCntSig (k : Keel) (f : Fab) (i : Iss) : Fab :=
  withCounter k f i .sig fun phys =>
    fencePath k f i.gid i.key (yScope i.w) 1 (if syncN i.g i.w = 0 then .next else .count phys (syncN i.g i.w) false) (i.p.pc + 8)

def runCntSet (k : Keel) (f : Fab) (i : Iss) : Fab :=
  withCounter k f i .set_ fun phys =>
    fencePath k f i.gid i.key (yScope i.w) 1 (.count phys (syncN i.g i.w) true) (i.p.pc + 8)

/-- `cnt.cwait` and `cnt.owait` (04 R115): the path waits and rotates; its request is sent once a wait slot is free. -/
def runCntWait (consuming : Bool) (k : Keel) (f : Fab) (i : Iss) : Fab :=
  withCounter k f i (if consuming then .cw else .ow) fun phys =>
    let n := syncN i.g i.w
    let pred := yRd i.w % 8
    let scope := yScope i.w
    let f := modGroup f i.gid fun g => waitPath g i.key i.p (i.p.pc + 8) (.waitSlot phys consuming n pred scope i.act)
    takeWait f i.gid i.key phys consuming n pred scope i.act

/-- `cnt.rd` (04 R114): the path waits for the value. -/
def runCntRd (k : Keel) (f : Fab) (i : Iss) : Fab :=
  withCounter k f i .rd fun phys =>
    let f := modGroup f i.gid fun g => waitPath g i.key i.p (i.p.pc + 8) (.waitRead (yRd i.w) (yScope i.w))
    sendCnt f phys .read 0 (groupLast i.gid i.g.ctx) (.group i.gid i.key (yRd i.w) (yScope i.w))

/-- `bar.blk` (04 R124): the group's entries leave the buffer, and the path waits for every group of the block. DESIGN CHOICE (log
38): a barrier number that a uniform register holds counts modulo 16. -/
def runBarBlk (k : Keel) (f : Fab) (i : Iss) : Fab :=
  if i.act = 0 then i.next f id
  else
    let n := (if yNk i.w = 0 then xf i.w 16 16 else (uget i.g (xf i.w 16 6)).toNat) % 16
    let f := modGroup f i.gid fun g => waitPath g i.key i.p (i.p.pc + 8) (.waitBarrier n)
    checkBarriers (closeAll k f i.gid) i.g.block

/-! ### Arrivals at the counter stations (12) -/

/-- Requests of one group or engine to one counter arrive in the order issued (12 R353), whatever contexts an engine works for. -/
def cntSource : Msg → Option (Nat × LastOp)
  | .cnt o => some (o.phys, if o.src.kind = 1 then o.src else { o.src with ctx := 0 })
  | .waitReq phys _ w => some (phys, groupLast (w.wslot / 4) w.ctx)
  | .pair phys _ _ => some (phys, { noLast with kind := 8 })
  | _ => none

def cntInOrder (f : Fab) (m : Nat) : Bool :=
  match (tfind f.net m).bind cntSource with
  | none => true
  | some x => f.net.all fun e => !(decide (e.1 < m)) || cntSource e.2 != some x

/-- A value read for a group: it is written, and the path makes its acquire (04 R114). -/
def counterToGroup (k : Keel) (f : Fab) (gid key reg scope value : Nat) : Fab :=
  match (findGroup f gid).bind fun g => tfind g.paths key with
  | none => f
  | some p => match p.st with
    | .waitRead _ _ =>
      let f := modGroup f gid fun g => uput g reg (BitVec.ofNat 32 value)
      fencePath k f gid key scope 0 .next p.pc
    | _ => f

/-- A value read for a READ command (13 R383): VALUE and ERR are written to the address of the payload. -/
def counterToCommand (k : Keel) (f : Fab) (q j value err : Nat) : Fab :=
  match findQueue f q, findCmd f q j with
  | some x, some c =>
    match checkAt f x.part none .store (BitVec.ofNat 64 (numAt c.bytes 24 8)) 8 8 with
    | .ok loc => writeOut k f x.die (.cmd q j) loc (bytesLE 4 value ++ bytesLE 4 err)
    | .error e => actCmd f q j e
  | _, _ => f

/-- An engine's own increment whose stamp has gone stale is dropped and counted; a command fails with "target role changed"
(13 R395). -/
def staleSignal (k : Keel) (f : Fab) (o : CntOp) (key : Nat) : Fab :=
  let f := roleDrop f (stationDie k o.phys) (key % 16) (key / 65536)
  match o.reply with
  | .command q j => actCmd f q j 0x0503
  | _ => f

/-- COUNTER_OP_ARRIVAL (12 R353). -/
def runCounterOp (k : Keel) (f : Fab) (m : Nat) : Fab :=
  match tfind f.net m with
  | some (.cnt o) =>
    if !cntInOrder f m then f
    else
      let f := drop f m
      let before := tfind f.tab.ctrs o.phys
      match o.stamp.filter fun t => roleOf f t.1 != t.2 with
      | some t => staleSignal k f o t.1
      | none =>
      let f := performCnt k f o
      match o.reply with
      | .none => f
      | .group gid key reg scope => counterToGroup k f gid key reg scope ((before.map (·.value)).getD 0)
      | .command q j =>
        if o.kind = .read then counterToCommand k f q j ((before.map (·.value)).getD 0) ((before.map (·.err)).getD 0)
        else actCmd f q j 0
      | .glinen req => sendResponse k f (respFrame k (0x80 + req.ty) req 0 0 [])
  | _ => f

/-- WAIT_REQUEST_ARRIVAL (12 R359). -/
def runWaitRequest (k : Keel) (f : Fab) (m : Nat) : Fab :=
  match tfind f.net m with
  | some (.waitReq phys consuming w) =>
    if cntInOrder f m then performWait k (drop f m) phys consuming w else f
  | _ => f

/-- WAIT_RELEASE_ARRIVAL (04 R115, 12 R358): RD is written, the wait slot is free for the next path, and a successful wait
makes its acquire. -/
def runWaitRelease (k : Keel) (f : Fab) (m : Nat) : Fab :=
  match tfind f.net m with
  | some (.release w ok) =>
    let f := drop f m
    let gid := w.wslot / 4
    let s := w.wslot % 4
    match findGroup f gid with
    | none => f
    | some g =>
      match tfind g.waits s, g.paths.find? (fun p => p.2.st == .waitCounter s) with
      | some ws, some (key, p) =>
        let f := modGroup f gid fun g =>
          let g := { g with waits := tdel g.waits s, gstatus := if ok then g.gstatus else g.gstatus ||| 2 }
          (lanes ws.act).foldl (fun g l => pput g ws.pred l ok) g
        let f := passSlot f gid
        if ok then fencePath k f gid key ws.scope 0 .next p.pc else modGroup f gid fun g => wakePath g key
      | _, _ => f
  | _ => f

/-- PAIR_PARTNER_REPORT (12 R364): the partner's value, as the checks of the counter's own changes use it. -/
def runPairReport (_ : Keel) (f : Fab) (m : Nat) : Fab :=
  match tfind f.net m with
  | some (.pair phys partner value) =>
    if !cntInOrder f m then f
    else modCtr (drop f m) phys fun c => if c.paired && c.partner == partner then { c with partnerSeen := value } else c
  | _ => f

/-! ### Control flow -/

/-- The distinct targets of a branch, lowest address first. -/
def sortedTargets (choice : List (Nat × Word64)) : List Word64 :=
  choice.foldl (fun (ts : List Word64) c =>
    if ts.contains c.2 then ts
    else ts.takeWhile (fun x => decide (x.toNat < c.2.toNat)) ++ [c.2] ++ ts.dropWhile (fun x => decide (x.toNat < c.2.toNat))) []

/-- The path of a divergent branch is split, one path for each target; of the new ones the lowest target's runs. DESIGN CHOICE (log
57): one whose target is the join address has arrived at once, and never runs. -/
def splitPath (g : Group) (key : Nat) (choice : List (Nat × Word64)) (joins : List Word64) : Group :=
  let targets := sortedTargets choice
  let first := targets.find? fun t => some t != joins.head?
  let maskOf := fun (t : Word64) => lanesMask ((choice.filter (·.2 == t)).map (·.1))
  let stateOf := fun (t : Word64) => if some t = joins.head? then PathState.arrived else if some t = first then .running else .ready
  let g := { g with paths := tdel g.paths key }
  targets.foldl (fun g t => match (freeKeys g).head? with
    | none => g
    | some key => setPath g key { pc := t, mask := maskOf t, joins := joins, back := 0, st := stateOf t }) g

/-- A branch among the lanes of the running path, by the address each lane chooses: all alike move together; a divergent one
splits the path with its join address, or parks where it names no join (03 R67, 04 R97). -/
def branchTo (k : Keel) (f : Fab) (i : Iss) (choice : List (Nat × Word64)) (join : Int) : Fab :=
  match sortedTargets choice with
  | [] => i.next f id
  | [t] => modGroup f i.gid fun g => goOn g i.key i.p t (t != i.p.pc + 8)
  | _ =>
    if join = 0 then i.park k f 0x0104 0 (choice.map (·.1))
    else
      let j := wordsFrom i.p.pc join
      let joins := if i.p.joins.head? = some j then i.p.joins else j :: i.p.joins
      modGroup f i.gid fun g => rotate (mergePaths 33 (splitPath g i.key choice joins)) i.key

/-- `br` and `br.join`: the guard chooses between target and next (04 R86). -/
def runBr (k : Keel) (f : Fab) (i : Iss) : Fab :=
  let t := wordsFrom i.p.pc (cTarget i.w)
  branchTo k f i ((lanes i.p.mask).map fun l => (l, if i.act.getLsbD l then t else i.p.pc + 8)) (cJoin i.w)

/-- `br.ind`: each lane's target pair. -/
def runBrInd (k : Keel) (f : Fab) (i : Iss) : Fab :=
  branchTo k f i ((lanes i.p.mask).map fun l => (l, if i.act.getLsbD l then vpair i.g (mD i.w) l else i.p.pc + 8)) (cJoin i.w)

/-- `call` (04 R97): every active lane moves to the target, and its LINK pair receives the return address. DESIGN CHOICE (log 57):
where the guard is true in some lanes only, the whole path moves and the LINK pairs of those lanes alone are written. -/
def runCall (_ : Keel) (f : Fab) (i : Iss) : Fab :=
  let r := xf i.w 16 8
  modGroup f i.gid fun g =>
    let ret := i.p.pc + 8
    let g := (lanes i.act).foldl (fun g l => vput (vput g r l (ret.truncate 32)) (r + 1) l ((ret >>> 32).truncate 32)) g
    goOn g i.key i.p (if i.act = 0 then ret else wordsFrom i.p.pc (cTarget i.w)) (i.act != 0)

/-- `exit` (04 R97): every active lane whose guard is true ends. -/
def runExit (_ : Keel) (f : Fab) (i : Iss) : Fab :=
  if i.act = 0 then i.next f id
  else
    let rest := i.p.mask &&& ~~~i.act
    if rest = 0 then afterExit (modGroup f i.gid fun g => { g with paths := tdel g.paths i.key }) i.gid i.key
    else modGroup f i.gid fun g => goOn g i.key { i.p with mask := rest } (i.p.pc + 8) false

/-- The special sources (04 R98): a 32-bit value per lane, or a 64-bit pair. -/
def srcValue (f : Fab) (i : Iss) (src lane : Nat) : Nat :=
  match src with
  | 0x00 => lane
  | 0x01 => slotOfGid i.gid
  | 0x02 => subOfGid i.gid
  | 0x03 => i.core
  | 0x04 => clusterOfCore i.core
  | 0x05 => i.g.blockIx
  | 0x06 => i.g.gib
  | 0x07 => i.g.ctx
  | 0x08 => i.g.part
  | 0x09 => i.g.gstatus.toNat
  | 0x10 => tgetD f.elapsed (unitKey 0 (i.gid / 16)) 0
  | 0x11 => tgetD f.work (unitKey 0 (i.gid / 16)) 0
  | 0x12 => tgetD f.elapsed (unitKey 1 i.core) 0
  | _ => tgetD f.work (unitKey 1 i.core) 0

/-- `rd.src` (04 R98, R99). -/
def runRdSrc (_ : Keel) (f : Fab) (i : Iss) : Fab :=
  if i.act = 0 then i.next f id
  else
    let src := xf i.w 32 8
    let dst := mD i.w
    i.next f fun g =>
      let g := if src ≥ 0x10 then uputPair g dst (BitVec.ofNat 64 (srcValue f i src 0))
        else putDst g (xf i.w 30 2) dst ((lanes i.act).map fun l => (l, srcValue f i src l))
      if i.w.getLsbD 29 then { g with gstatus := 0 } else g

def runNop (_ : Keel) (f : Fab) (i : Iss) : Fab := i.next f id

/-! ### The commands -/

/-- MX_ISSUE (04 R102). -/
def execMxIssue (g : GroupAt) (s : State) : Out := issue s g (· == .mxIssue) (runEngineIssue .matrix)
/-- CP_ISSUE (04 R102). -/
def execCpIssue (g : GroupAt) (s : State) : Out := issue s g (· == .cpIssue) (runEngineIssue .copy)
/-- RT_ISSUE (04 R102). -/
def execRtIssue (g : GroupAt) (s : State) : Out := issue s g (· == .rtIssue) (runEngineIssue .routing)
/-- DESCRIPTOR_CAPTURE_COMPLETE (04 R103). -/
def execDescriptorCaptureComplete (m : Nat) (s : State) : Out := onFab s fun k f => runCapture k f m
/-- FENCE (04 R109). -/
def execFence (g : GroupAt) (s : State) : Out := issue s g (· == .fence) runFence
/-- CNT_SIG (04 R114). -/
def execCntSig (g : GroupAt) (s : State) : Out := issue s g (· == .cntSig) runCntSig
/-- CNT_CWAIT (04 R114). -/
def execCntCwait (g : GroupAt) (s : State) : Out := issue s g (· == .cntCwait) (runCntWait true)
/-- CNT_OWAIT (04 R114). -/
def execCntOwait (g : GroupAt) (s : State) : Out := issue s g (· == .cntOwait) (runCntWait false)
/-- CNT_SET (04 R114). -/
def execCntSet (g : GroupAt) (s : State) : Out := issue s g (· == .cntSet) runCntSet
/-- CNT_RD (04 R114). -/
def execCntRd (g : GroupAt) (s : State) : Out := issue s g (· == .cntRd) runCntRd
/-- BAR_BLK (04 R124). -/
def execBarBlk (g : GroupAt) (s : State) : Out := issue s g (· == .barBlk) runBarBlk
/-- NOP (04 R100). -/
def execNop (g : GroupAt) (s : State) : Out := issue s g (· == .nop) runNop
/-- BR (04 R97). -/
def execBr (g : GroupAt) (s : State) : Out := issue s g (· == .br) runBr
/-- BR_JOIN (03 R67). -/
def execBrJoin (g : GroupAt) (s : State) : Out := issue s g (· == .brJoin) runBr
/-- BR_IND (04 R97). -/
def execBrInd (g : GroupAt) (s : State) : Out := issue s g (· == .brInd) runBrInd
/-- CALL (04 R97). -/
def execCall (g : GroupAt) (s : State) : Out := issue s g (· == .call) runCall
/-- EXIT (04 R97). -/
def execExit (g : GroupAt) (s : State) : Out := issue s g (· == .exit) runExit
/-- RD_SRC (04 R98). -/
def execRdSrc (g : GroupAt) (s : State) : Out := issue s g (· == .rdSrc) runRdSrc
/-- COUNTER_OP_ARRIVAL (12 R353). -/
def execCounterOpArrival (m : Nat) (s : State) : Out := onFab s fun k f => runCounterOp k f m
/-- WAIT_REQUEST_ARRIVAL (12 R359). -/
def execWaitRequestArrival (m : Nat) (s : State) : Out := onFab s fun k f => runWaitRequest k f m
/-- WAIT_RELEASE_ARRIVAL (12 R358). -/
def execWaitReleaseArrival (m : Nat) (s : State) : Out := onFab s fun k f => runWaitRelease k f m
/-- PAIR_PARTNER_REPORT (12 R364). -/
def execPairPartnerReport (m : Nat) (s : State) : Out := onFab s fun k f => runPairReport k f m

end Sys2Proof.Machine
end

