-- ==== Sys2Proof/Machine/Exact.lean ====
section
/-!
DEFINITION. Exact.lean: the exact functions that the error bounds of 07 R216 and 09 R265, R281 and R283 speak of, each to at least
160 bits (log 16), and what holds a free value to such a bound.
-/
namespace Sys2Proof.Machine

def addE (x y : Num) : Num := (addNum false x y).1
def mulE (x y : Num) : Num := (mulNum x y).1
/-- Times 2^e. -/
def scaleNum (e : Int) : Num → Num
  | .fin n s x => .fin n s (x + e)
  | y => y

/-- A natural number as a value. -/
def natNum (n : Nat) : Num := .fin false n 0
def oneNum : Num := natNum 1
/-- 2^e. -/
def pow2 (e : Int) : Num := .fin false 1 e

/-- The quotient of finite values, the divisor not zero, to 256 bits. -/
def quoNum : Num → Num → Num
  | .fin a s e, .fin b t f =>
    let k := 256 + Nat.log2 t
    .fin (a != b) (s * 2 ^ k / t) (e - f - (k : Int))
  | _, _ => .nan

/-- The largest r with r² ≤ v, found bit by bit from bit n down. -/
def isqrt (v : Nat) : (n : Nat) → (r : Nat) → Nat
  | 0, r => r
  | b + 1, r => isqrt v b (if (r + 2 ^ b) ^ 2 ≤ v then r + 2 ^ b else r)

/-- The root of a value that is not negative, to 200 bits. -/
def sqrtNum : Num → Num
  | .fin _ s e =>
    let k := 400 + (e % 2).toNat
    let v := s * 2 ^ k
    .fin false (isqrt v (Nat.log2 v / 2 + 1) 0) ((e - (k : Int)) / 2)
  | x => x

/-! ### Fixed point: 192 bits of fraction -/

/-- ln 2 and 1 / √(2π). -/
def ln2Fx : Nat := 4350955369971217654477563090224794165364344896676135745069
def gaussFx : Nat := 2504201280626952864894549311249338563268063356138482501336

/-- A value in fixed point, rounded down. -/
def toFx : Num → Int
  | .fin n s e =>
    let v : Nat := if e + 192 ≥ 0 then s * 2 ^ (e + 192).toNat else s / 2 ^ (-(e + 192)).toNat
    if n then -(v : Int) else v
  | _ => 0
def ofFx (v : Int) : Num := ofInt v (-192)

/-- The sum of n terms of a series: term k leads to term k + 1. -/
def series (next : Nat → Nat → Nat) : (n k term : Nat) → Nat
  | 0, _, _ => 0
  | n + 1, k, term => term + series next n (k + 1) (next k term)

/-- e^x for a finite value of magnitude up to some thousands. -/
def expNum (x : Num) : Num :=
  let v := toFx x
  let n := v / (ln2Fx : Int)
  let r := (v - n * ln2Fx).toNat
  .fin false (series (fun k t => t * r / 2 ^ 192 / (k + 1)) 50 0 (2 ^ 192)) (n - 192)

/-- ln of a positive value, in fixed point: of its power of two, and of the rest by the series of the inverse hyperbolic tangent. -/
def lnFx (s : Nat) (e : Int) : Int :=
  let l := Nat.log2 s
  let m := s * 2 ^ 192 / 2 ^ l
  let z := (m - 2 ^ 192) * 2 ^ 192 / (m + 2 ^ 192)
  let odd := (List.range 64).foldl (fun (st : Nat × Nat) k => (st.1 + st.2 / (2 * k + 1), st.2 * z / 2 ^ 192 * z / 2 ^ 192)) (0, z)
  2 * (odd.1 : Int) + (e + (l : Int)) * ln2Fx

/-- The logistic function. -/
def logisticNum (x : Num) : Num := quoNum oneNum (addE oneNum (expNum (negNum x)))

/-- tanh of a value that is not negative. -/
def tanhNum (x : Num) : Num :=
  let e := expNum (negNum (scaleNum 1 x))
  quoNum (addE oneNum (negNum e)) (addE oneNum e)

/-- The standard normal distribution function of 0 to 14. -/
def normalNum (x : Num) : Num :=
  let v := (toFx x).toNat
  let s := series (fun k t => t * v / 2 ^ 192 * v / 2 ^ 192 / (2 * k + 3)) 320 0 v
  addE (pow2 (-1)) (mulE (expNum (negNum (scaleNum (-1) (mulE x x)))) (mulE (ofFx gaussFx) (ofFx s)))

/-- x × Φ(x): beyond 14 it is x or 0 to within 2^-140. -/
def gaussGate (x : Num) : Num :=
  if !ltNum (absNum x) (natNum 14) then (if x.isNeg then .fin false 0 0 else x)
  else if x.isNeg then mulE x (addE oneNum (negNum (normalNum (absNum x)))) else mulE x (normalNum x)

/-! ### Bounds -/

/-- A free value, held to an error around the exact one: where it breaks the bound, the exact one stands. -/
def heldTo (v exact tol : Num) : Num := if v.isNan || ltNum tol (absNum (addE v (negNum exact))) then exact else v

def clampNum (lo hi v : Num) : Num := if ltNum v lo then lo else if ltNum hi v then hi else v

end Sys2Proof.Machine
end

