-- ==== Sys2Proof/Machine/Tables.lean ====
section
/-!
DEFINITION. Tables.lean: the special-function tables (09 R258 to R270): the image, the checks of a load, the evaluation of a
lookup, and the row modes' arithmetic (09 R275 to R283).
-/
namespace Sys2Proof.Machine

/-- Where a table's segments stand: a shipped table (log 13) or an image of 4,160 bytes. -/
inductive SfSrc where
  | shipped (t : Nat)
  | image (bs : List Byte)
  deriving DecidableEq, Repr

/-- A table header (09 R258). -/
structure SfHdr where
  e0 : Nat
  mb : Nat
  signed : Bool
  neg : Nat
  red : Nat
  satf : Bool
  ahp : Nat
  ahn : Nat
  lowb : Nat
  lows : Nat
  high : Nat
  highn : Nat
  deriving DecidableEq, Repr

/-- The header that bytes 0 to 23 of an image hold. -/
def imageHdr (bs : List Byte) : SfHdr :=
  let w0 := numAt bs 0 8
  { e0 := fld w0 56 8, mb := fld w0 53 3, signed := bitAt w0 52, neg := fld w0 50 2, red := fld w0 47 3
    satf := bitAt w0 44, ahp := fld w0 42 2, ahn := fld w0 40 2
    lowb := numAt bs 12 4, lows := numAt bs 8 4, high := numAt bs 20 4, highn := numAt bs 16 4 }

/-- 09 R265: the index and the ranges of the shipped tables. -/
def shippedHdr (t : Nat) : SfHdr :=
  let red := { e0 := 0, mb := 0, signed := false, neg := 0, red := t + 1, satf := false, ahp := 0, ahn := 0, lowb := 0,
               lows := 0, high := 0, highn := 0 : SfHdr }
  match t with
  | 0 | 1 | 2 | 3 => red
  | 4 => { red with red := 0, e0 := 115, mb := 4, neg := 1, lows := 0x3F800000, high := 0x3F800000 }
  | 5 => { red with red := 0, e0 := 116, mb := 3, signed := true, lowb := 0x3F000000, lows := 0x3E800000, high := 0x3F800000 }
  | _ => { red with red := 0, e0 := 103, mb := 2, signed := true, lows := 0x3F000000, ahp := 1 }

def SfSrc.hdr : SfSrc → SfHdr
  | .shipped t => shippedHdr t
  | .image bs => imageHdr bs

/-- BASE, SLOPE and CURV of a segment of an image, as S32 codes. -/
def imageSeg (bs : List Byte) (s : Nat) : Nat × Nat × Nat :=
  (numAt bs (64 + 16 * s) 4, numAt bs (68 + 16 * s) 4, numAt bs (72 + 16 * s) 4)

def s32 (v : Nat) : Num := decodeNum fmtS32 v

/-- BASE + t × SLOPE + t² × CURV, exactly. -/
def imageG (bs : List Byte) (s : Nat) (t : Num) : Num :=
  let (b, sl, c) := imageSeg bs s
  addE (addE (s32 b) (mulE t (s32 sl))) (mulE (mulE t t) (s32 c))

/-! ### The shipped tables (09 R265, R266): their functions, and a free deviation within the bound (log 13) -/

/-- The argument of a reduced table at segment s and fraction t (09 R262). -/
def reducedArg (t s : Nat) (frac : Num) : Num :=
  let at_ := addE (natNum s) frac
  match t with
  | 0 => scaleNum (-8) at_
  | 3 => if s < 128 then addE oneNum (scaleNum (-7) at_) else addE (natNum 2) (scaleNum (-6) (addE at_ (.fin true 128 0)))
  | _ => addE oneNum (scaleNum (-8) at_)

/-- The function of a shipped table. -/
def tableFun (t : Nat) (x : Num) : Num :=
  match t, x with
  | 0, x => expNum (mulE x (ofFx ln2Fx))
  | 1, .fin _ s e => quoNum (ofFx (lnFx s e)) (ofFx ln2Fx)
  | 2, x => quoNum oneNum x
  | 3, x => quoNum oneNum (sqrtNum x)
  | 4, x => tanhNum (absNum x)
  | 5, x => logisticNum x
  | 6, x => mulE x (logisticNum x)
  | _, x => gaussGate x

/-- The deviation at a knot: up to `half` either way. -/
def knot (t : Nat) (neg : Bool) (binade : Int) (i : Nat) (half : Num) : Num :=
  mulE half (.fin false (Config.tableKnot t neg binade i % (2 ^ 32 + 1)) (-31)) |> fun d => addE d (negNum half)

/-- The deviation between two knots at x1 and x2. -/
def between (d1 d2 x1 x2 x : Num) : Num :=
  addE d1 (quoNum (mulE (addE d2 (negNum d1)) (addE x (negNum x1))) (addE x2 (negNum x1)))

/-- A magnitude with a deviation that keeps what it rounds to within b units in the last place of 24 bits: knots lie 2b - 1 units apart,
so that a larger value never gets a smaller result. -/
def strayUlps (t b : Nat) (neg : Bool) (f : Num) : Num :=
  match f with
  | .fin _ s e =>
    if s = 0 then f
    else
      let l := Nat.log2 s
      let a : Int := e + l
      let w := 2 * b - 1
      let most := 2 ^ 23 / w
      let j := min ((s - 2 ^ l) * 2 ^ 23 / (2 ^ l * w)) (most - 1)
      let at_ := fun (i : Nat) => addE (pow2 a) (.fin false (i * w) (a - 23))
      let half := Num.fin false w (a - 24)
      let d1 := knot t neg a j (if j = 0 then scaleNum (-1) half else half)
      let (x2, d2) := if j = most - 1 then (pow2 (a + 1), knot t neg (a + 1) 0 half) else (at_ (j + 1), knot t neg a (j + 1) half)
      addE f (between d1 d2 (at_ j) x2 f)
  | x => x

/-- A magnitude with a deviation of at most 2^(a - 1): knots lie 2^a apart. -/
def strayBy (t : Nat) (a : Int) (neg : Bool) (f : Num) : Num :=
  match f with
  | .fin _ s e =>
    let m := if e ≥ a then s * 2 ^ (e - a).toNat else s / 2 ^ (a - e).toNat
    let half := pow2 (a - 1)
    addE f (between (knot t neg a m half) (knot t neg a (m + 1) half) (.fin false m a) (.fin false (m + 1) a) f)
  | x => x

/-- The range that each piece keeps within, so that no seam steps backward (09 R266). -/
def tableRange (t : Nat) (x : Num) : Num × Num :=
  let half := scaleNum (-1) x
  match t with
  | 0 => (oneNum, natNum 2)
  | 1 => (natNum 0, oneNum)
  | 2 | 3 => (pow2 (-1), oneNum)
  | 4 => (pow2 (-12), oneNum)
  | 5 => if x.isNeg then (natNum 0, addE (pow2 (-1)) (negNum (pow2 (-13)))) else (addE (pow2 (-1)) (pow2 (-13)), oneNum)
  | _ => if !x.isNeg then (half, x) else if ltNum x (negNum oneNum) then (half, natNum 0) else (half, negNum (pow2 (-25)))

/-- g of a shipped table within its segments. A result in B16 keeps within 1 ulp of that format where the absolute bound of tables 6 and 7 is
wider (09 R265). -/
def shippedG (t : Nat) (b16 : Bool) (x : Num) : Num :=
  let f := tableFun t x
  let m := absNum f
  let neg := if t < 6 then f.isNeg else x.isNeg
  let y := match t with
    | 0 | 3 | 4 | 5 => strayUlps t 2 neg m
    | 1 => strayBy t (-22) neg m
    | 2 => strayUlps t 1 neg m
    | _ => if ltNum m (pow2 (-20)) then
        let y := strayBy t (-40) neg m
        let near := scaleNum (-10) m
        if b16 then clampNum (addE m (negNum near)) (addE m near) y else y
      else strayUlps t 4 neg m
  let (lo, hi) := tableRange t x
  clampNum lo hi (if neg then negNum y else y)

/-- The value g of a table at segment s and fraction t; x is the element itself. -/
def SfSrc.g (src : SfSrc) (b16 : Bool) (s : Nat) (frac x : Num) : Num :=
  match src with
  | .image bs => imageG bs s frac
  | .shipped t => shippedG t b16 (if t ≤ 3 then reducedArg t s frac else x)

/-- Of a nonzero significand: the top `b` mantissa bits, and the rest as a fraction in [0, 1). -/
def topBits (sig b : Nat) : Nat × Num :=
  let l := Nat.log2 sig
  let r := (sig - 2 ^ l) * 2 ^ b
  (r / 2 ^ l, .fin false (r % 2 ^ l) (-(l : Int)))

/-- How the value g is rounded: for a lookup to the destination format (09 R263), for the epilogue to the extended format. -/
inductive SfDst where
  | fmt (t : Fmt)
  | ext
  deriving DecidableEq, Repr

/-- g rounded once, before its scale (09 R263): a lookup's under 08 R244 and R245, with their flags. -/
def SfDst.round (d : SfDst) (g : Num) : Num × BitVec 6 :=
  match d with
  | .ext => (roundExt g, 0)
  | .fmt t =>
    let (c, fl) := encodeNum t 0 false g
    (decodeNum t c, if g.isNan then 0 else fl)

/-- g of a source, rounded. -/
def SfDst.part (d : SfDst) (src : SfSrc) (s : Nat) (frac x : Num) : Num × BitVec 6 := d.round (src.g (d == .fmt fmtB16) s frac x)

/-- How log2 rounds g before E is added: as 09 R263 says, but S32 for a shipped table's result of a narrower format between -1 and 0, which
R263's rounding would leave more than R265's 1 ulp off (log 69). -/
def SfDst.ofLog2 (d : SfDst) (src : SfSrc) (e : Int) : SfDst :=
  match src, d with
  | .shipped _, .fmt _ => if e = -1 then .fmt fmtS32 else d
  | _, _ => d

/-- The largest finite value of the extended format (08 R239): 24 bits, below 2^2048. -/
def extMax : Num := .fin false (2 ^ 24 - 1) 2024

/-- 09 R258 NEG, applied to a negative input's value. -/
def applyNeg (neg : Nat) (g : Num) : Num :=
  match neg with
  | 0 => g
  | 1 => negNum g
  | 2 => .nan
  | _ => addE oneNum (negNum g)

/-- 09 R261: a table with RED 0. -/
def sfPlain (src : SfSrc) (d : SfDst) (x : Num) : Num × BitVec 6 :=
  let h := src.hdr
  let gN : Nat := (if h.signed then 128 else 256) / 2 ^ h.mb
  let neg := x.isNeg
  let above :=
    let v := if h.signed && neg then (if h.ahn = 1 then x else s32 h.highn) else if h.ahp = 1 then absNum x else s32 h.high
    d.round v
  let fin := fun (r : Num × BitVec 6) => if !h.signed && neg then (applyNeg h.neg r.1, r.2) else r
  match x with
  | .nan => (.nan, 0)
  | .inf _ => fin (above.1, 0)
  | .fin _ sig exp =>
    let e : Int := exp + Nat.log2 sig + 127
    if sig = 0 || decide (e < h.e0) then
      fin (d.round (addE (s32 h.lowb) (mulE (s32 h.lows) (if h.signed then x else absNum x))))
    else if e ≥ h.e0 + gN then fin (above.1, if h.satf then above.2 ||| fSfSat else above.2)
    else
      let (kk, t) := topBits sig h.mb
      let s := (e - h.e0).toNat * 2 ^ h.mb + kk + (if h.signed && neg then 128 else 0)
      fin (d.part src s t x)

/-- The reduced tables (09 R262) with their special inputs (09 R264). -/
def sfReduced (src : SfSrc) (d : SfDst) (x : Num) : Num × BitVec 6 :=
  let h := src.hdr
  let part := fun (s : Nat) (t : Num) => d.part src s t x
  match h.red, x with
  | _, .nan => (.nan, 0)
  | 1, .inf n => (if n then .fin false 0 0 else if d = .ext then extMax else .inf false, 0)
  | 1, .fin n sig exp =>
    if ltNum x (.fin true 2048 0) then (.fin false 0 0, fSfSat)
    else if !ltNum x (.fin false 2048 0) then (if d = .ext then extMax else .inf false, fSfSat)
    else
      let v : Int := if n then -(sig : Int) else sig
      let (i, r, w) : Int × Nat × Nat := if exp ≥ 0 then (v * 2 ^ exp.toNat, 0, 0)
        else (v / 2 ^ (-exp).toNat, (v % 2 ^ (-exp).toNat).toNat, (-exp).toNat)
      let s := r * 256 / 2 ^ w
      let t := Num.fin false (r * 256 % 2 ^ w) (-(w : Int))
      let (g, fl) := part s t
      let y := scaleNum i g
      if d = .ext then
        if !ltNum y (.fin false 1 2048) then (extMax, fl ||| fSfSat)
        else if ltNum y (.fin false 1 (-2046)) then (.fin false 0 0, fl) else (y, fl)
      else (y, fl)
  | 2, .inf n => if n then (.nan, fInvalid) else (.inf false, 0)
  | 2, .fin n sig exp =>
    if sig = 0 then (.inf true, 0)
    else if n then (.nan, fInvalid)
    else
      let (s, t) := topBits sig 8
      let (g, fl) := (d.ofLog2 src (exp + Nat.log2 sig)).part src s t x
      (addE (ofInt (exp + Nat.log2 sig) 0) g, fl)
  | 3, .inf n => (.fin n 0 0, 0)
  | 3, .fin n sig exp =>
    if sig = 0 then (.inf n, 0)
    else
      let (s, t) := topBits sig 8
      let (g, fl) := part s t
      let y := scaleNum (-(exp + Nat.log2 sig)) g
      (if n then negNum y else y, fl)
  | _, .inf n => if n then (.nan, fInvalid) else (.fin false 0 0, 0)
  | _, .fin n sig exp =>
    if sig = 0 then (.inf n, 0)
    else if n then (.nan, fInvalid)
    else
      let e : Int := exp + Nat.log2 sig
      let (s, t) := topBits sig 7
      let (g, fl) := part (if e % 2 = 0 then s else 128 + s) t
      (scaleNum (-(e / 2)) g, fl)

/-- A lookup: the value and its flags before the destination's conversion. -/
def sfEval (src : SfSrc) (d : SfDst) (x : Num) : Num × BitVec 6 :=
  if src.hdr.red = 0 then sfPlain src d x else sfReduced src d x

/-- One element of a lookup, from and to a format: a NaN result sets no flag, nor does an infinite element of a table with RED 0, and an infinity
that the table gives converts as it is (09 R264); any other value converts under 08 R245. -/
def sfElem (src : SfSrc) (t : Fmt) (v : Nat) : Nat × BitVec 6 :=
  let (y, fl) := sfEval src (.fmt t) (decodeNum t v)
  match y with
  | .nan => (t.nan.getD 0, fl)
  | y =>
    let (c, fl') := encodeNum t 0 false y
    (c, if src.hdr.red = 0 ∧ (decodeNum t v).isInf then 0 else fl ||| fl')

/-! ### The checks of an image (09 R260, R267) -/

def s32Finite (v : Nat) : Bool := decide (v % 2 ^ 31 ≤ fmtS32.code)

/-- 09 R260. -/
def imageValid (bs : List Byte) : Bool :=
  let w0 := numAt bs 0 8
  let h := imageHdr bs
  let interp := bitAt w0 46
  let segs := List.range 256
  bs.length == 4160 && fld w0 0 40 == 0 && (bs.drop 24 |>.take 40).all (· == 0) &&
  decide (h.red ≤ 4) && decide (h.ahp ≤ 1) && decide (h.ahn ≤ 1) &&
  s32Finite h.lowb && s32Finite h.lows && s32Finite h.high && s32Finite h.highn &&
  segs.all (fun s =>
    let c := numAt bs (72 + 16 * s) 4
    s32Finite (numAt bs (64 + 16 * s) 4) && s32Finite (numAt bs (68 + 16 * s) 4) && s32Finite c &&
    (interp || c == 0) && numAt bs (76 + 16 * s) 4 == 0) &&
  (h.red != 0 || (decide (1 ≤ h.e0 ∧ h.e0 ≤ 254) &&
    decide (h.e0 + (if h.signed then 128 else 256) / 2 ^ h.mb - 1 ≤ 254))) &&
  !(h.signed && h.neg != 0) &&
  (h.red == 0 || (h.e0 == 0 && h.mb == 0 && !h.signed && h.neg == 0 && h.ahp == 0 && h.ahn == 0 &&
    numAt bs 8 8 == 0 && numAt bs 16 8 == 0))

/-- A piece of a table in order of |x|: its value and slope at its start and at its end. -/
structure Piece4 where
  v0 : Num
  d0 : Num
  v1 : Num
  d1 : Num

def le0 (x : Num) : Bool := !ltNum (.fin false 0 0) x
def ge0 (x : Num) : Bool := !ltNum x (.fin false 0 0)

/-- 09 R266 on two adjacent pieces. -/
def seamHolds (l r : Piece4) : Bool :=
  if ge0 l.d1 && ge0 r.d0 then !ltNum r.v0 l.v1
  else if le0 l.d1 && le0 r.d0 then !ltNum l.v1 r.v0
  else eqNum l.v1 r.v0

def segPiece (bs : List Byte) (scale shift : Int) (s : Nat) : Piece4 :=
  let (b, sl, c) := imageSeg bs s
  let sh := fun v => addE (ofInt shift 0) (scaleNum scale v)
  { v0 := sh (s32 b), d0 := scaleNum scale (s32 sl), v1 := sh (imageG bs s oneNum)
    d1 := scaleNum scale (addE (s32 sl) (scaleNum 1 (s32 c))) }

def seamsHold : List Piece4 → Bool
  | a :: b :: t => seamHolds a b && seamsHold (b :: t)
  | _ => true

/-- 09 R267. -/
def seamCheck (bs : List Byte) : Bool :=
  let h := imageHdr bs
  if h.red = 0 then
    let half := fun (neg : Bool) (first n : Nat) =>
      let sgn := fun v => if neg then negNum v else v
      let edge := fun (e : Int) => sgn (.fin false 1 e)
      let lowSlope := sgn (s32 h.lows)
      let low : Piece4 := { v0 := s32 h.lowb, d0 := lowSlope, d1 := lowSlope
                            v1 := addE (s32 h.lowb) (mulE (s32 h.lows) (edge ((h.e0 : Int) - 127))) }
      let top := edge ((h.e0 : Int) - 127 + n / 2 ^ h.mb)
      let itself := if neg then h.ahn = 1 else h.ahp = 1
      let topV := if itself then top else s32 (if neg then h.highn else h.high)
      let topD := if itself then sgn oneNum else .fin false 0 0
      let high : Piece4 := { v0 := topV, d0 := topD, v1 := topV, d1 := topD }
      seamsHold ([low] ++ (List.range n).map (fun s => segPiece bs 0 0 (first + s)) ++ [high])
    if h.signed then half false 0 128 && half true 128 128 else half false 0 256
  else
    let wrap := match h.red with
      | 1 => segPiece bs 1 0 0
      | 2 => segPiece bs 0 1 0
      | _ => segPiece bs (-1) 0 0
    seamsHold ((List.range 256).map (segPiece bs 0 0) ++ [wrap])

/-! ### Ownership and banks (09 R270) -/

def sftOwned (k : Keel) (t part : Nat) : Bool :=
  decide (8 ≤ t) && ((k.image.map (·.sft)).getD []).any fun c => c.table == t && c.owned && c.owner == part

def SftTable.bytes (t : SftTable) (bank : Nat) : List Byte := if bank = 0 then t.bank0 else t.bank1

/-- The key of a table of a die. -/
def sftKey (die t : Nat) : Nat := die * 16 + t

/-- The table that a lookup of a partition on a die finds; none where it holds no loaded bank for it. -/
def sftFor (k : Keel) (f : Fab) (die t part : Nat) : Option SfSrc :=
  if t < 8 then some (.shipped t)
  else if sftOwned k t part then
    (tfind f.eng.sft (sftKey die t)).bind fun x => if x.loaded then some (.image (x.bytes x.active)) else none
  else none

/-! ### The row modes (09 R274 to R283) -/

def RowState.zero : RowState :=
  { sum := natNum 0, s1 := natNum 0, s2 := natNum 0, exactSum := natNum 0, exact1 := natNum 0, exact2 := natNum 0, exactAbs := natNum 0
    cnt := 0, live := 0, dead := 0 }

/-- CLR of an accumulate mode: DEAD stays. -/
def RowState.cleared (r : RowState) : RowState := { RowState.zero with dead := r.dead }

def rowMax : Nat := 2 ^ 20

/-- 09 R277: masked, or the element after clamping, with the flag. -/
def rowInput (x : Num) : Bool × Num × BitVec 6 :=
  match x with
  | .inf true => (true, x, 0)
  | .inf false => (false, .fin false 1400 0, fSfSat)
  | .nan => (false, .nan, 0)
  | x =>
    if eqNum x (.fin true (2 ^ 20) 0) then (true, x, 0)
    else if ltNum (.fin false 1400 0) x then (false, .fin false 1400 0, fSfSat)
    else if ltNum x (.fin true 1400 0) then (false, .fin true 1400 0, fSfSat)
    else (false, x, 0)

def toS32 (x : Num) : Word32 := BitVec.ofNat 32 (encodeNum fmtS32 0 true x).1

/-- Add into the row format (09 R275). -/
def addRow (x y : Num) : Num := roundNum 40 (addE x y)

/-- One element of the soft-maximum accumulate (09 R276 to R278). The evaluator's e^x is free within 2^-30 of the exact one. -/
def rowAccumulate (r : RowState) (x : Num) : RowState × BitVec 6 :=
  let (masked, y, fl) := rowInput x
  if r.cnt ≥ rowMax then (r, fl ||| fSfSat)
  else if masked then ({ r with cnt := r.cnt + 1 }, fl)
  else
    let e := if y.isNan then .nan else expNum y
    let near := if y.isNan then .nan else
      let (s, p) := Config.rowExp (toS32 y)
      heldTo (.fin false s p) e (scaleNum (-30) e)
    ({ r with cnt := r.cnt + 1, live := r.live + 1, sum := addRow r.sum near, exactSum := addE r.exactSum e }, fl)

/-- One element of the statistics accumulate (09 R282, R278). -/
def statsAccumulate (r : RowState) (x : Num) : RowState × BitVec 6 :=
  if r.cnt ≥ rowMax then (r, fSfSat)
  else ({ r with
    cnt := r.cnt + 1, s1 := addRow r.s1 x, s2 := addRow r.s2 (mulE x x)
    exact1 := addE r.exact1 x, exact2 := addE r.exact2 (mulE x x), exactAbs := addE r.exactAbs (absNum x) }, 0)

/-- The error that 09 R281 allows a row's soft maximum: 2^-30 + CNT × 2^-40. -/
def rowError (r : RowState) : Num := addE (pow2 (-30)) (.fin false r.cnt (-40))

/-- One element of the normalise mode (09 R279, R281), before conversion; the flag is that of the clamp. -/
def rowNormalise (r : RowState) (x : Num) : Num × BitVec 6 :=
  let (masked, y, fl) := rowInput x
  if masked ∨ r.live = 0 then (natNum 0, fl)
  else match r.sum, y.isNan with
    | .fin _ s e, false =>
      let (q, p) := Config.rowNorm (toS32 y) s e
      let exact := quoNum (expNum y) r.exactSum
      (heldTo (.fin false q p) exact (mulE exact (rowError r)), fl)
    | _, _ => (.nan, fl)

/-- 09 R280, R281: ln SUM. -/
def rowLogSum (r : RowState) : Num :=
  if r.live = 0 then .inf true
  else match r.sum, r.exactSum with
    | .fin _ s e, .fin _ s' e' =>
      let (n, q, p) := Config.rowLog s e
      heldTo (.fin n q p) (ofFx (lnFx s' e')) (rowError r)
    | _, _ => .nan

/-- The exact statistic of a mode, 5 mean, 6 variance, 7 RMS, and the error that 09 R283 allows it. -/
def exactStat (r : RowState) (mode : Nat) : Num × Num :=
  let n := natNum r.cnt
  let mean := quoNum r.exact1 n
  let square := quoNum r.exact2 n
  match mode with
  | 5 => (mean, scaleNum (-40) r.exactAbs)
  | 6 => (clampNum (natNum 0) square (addE square (negNum (mulE mean mean))), mulE (.fin false (r.cnt + 3) (-39)) square)
  | _ => (sqrtNum square, mulE (.fin false (r.cnt + 3) (-40)) (sqrtNum square))

/-- 09 R282: a statistic, by its mode 5 to 7, free within its error. -/
def rowStatistic (r : RowState) (mode : Nat) : Num :=
  if r.cnt = 0 then natNum 0
  else match r.s1, r.s2 with
    | .fin n1 a1 e1, .fin n2 a2 e2 =>
      let sg := fun (n : Bool) (a : Nat) => if n then -(a : Int) else (a : Int)
      let (n, q, p) := Config.rowStat mode (sg n1 a1, e1) (sg n2 a2, e2) r.cnt
      let (exact, err) := exactStat r mode
      let v := heldTo (.fin n q p) exact err
      if mode = 5 || !v.isNeg then v else natNum 0
    | _, .nan => .nan
    | s1, _ => if mode = 5 then s1 else if mode = 6 then .nan else .inf false

end Sys2Proof.Machine
end

