-- ==== Sys2Proof/Machine/Blocks.lean ====
section
/-!
DEFINITION. Blocks.lean: residency (03 R54 to R58, 14 R417, R418), the steps of parking (03 R77, R78), REPLAY and KILL (03 R79,
R80, R83) and the end of a killed block.
-/
namespace Sys2Proof.Machine

/-! ### Residency -/

def groupsOn (f : Fab) (core sub : Nat) : List (Nat × Group) := f.cores.groups.filter fun g => g.1 / 16 == core * 4 + sub

/-- The sub-core of a block's group g (03 R55), from the sub-core with the fewest groups. -/
def firstSub (f : Fab) (core : Nat) : Nat :=
  (List.range 4).foldl (fun b s => if (groupsOn f core s).length < (groupsOn f core b).length then s else b) 0

def subOf (j0 g : Nat) : Nat := (j0 + g) % 4

/-- Slots and registers that the levels above keep on every sub-core (14 R417); the image counts registers in units of 8. -/
def reservedAbove (k : Keel) (level : Nat) : Nat × Nat :=
  let rs := ((k.image.map (·.reserves)).getD []).drop level
  ((rs.map (·.1)).sum, 8 * (rs.map (·.2)).sum)

/-- Whether all groups of a block fit on the sub-cores of its core, and the reserves stay free. -/
def groupsFit (k : Keel) (f : Fab) (b : Block) : Bool :=
  let j0 := firstSub f b.core
  let keep := reservedAbove k b.level
  (List.range 4).all fun s =>
    let need := ((List.range b.ngroups).filter fun g => subOf j0 g == s).length
    let here := groupsOn f b.core s
    decide (here.length + need + keep.1 ≤ 16) &&
    decide ((here.map fun g => g.2.nregs).sum + need * b.nregs + keep.2 ≤ 512)

/-- The slices that blocks of a context hold on a core: (first byte, bytes). -/
def slicesOf (f : Fab) (core ctx : Nat) : List (Nat × Nat) :=
  (f.cores.blocks.filter fun b => b.2.core == core && b.2.ctx == ctx).map fun b => (b.2.sliceAt, b.2.slice)

/-- The lowest place of a slice in its context's share, if there is one. -/
def slicePlace (f : Fab) (b : Block) : Option Nat :=
  let share := ((findCtx f b.ctx).bind fun c => c.shares.find? (·.core == b.core)).map fun s => s.units * 16384
  let held := slicesOf f b.core b.ctx
  if b.slice = 0 then some 0
  else share.bind fun n =>
    (0 :: held.map fun h => h.1 + h.2).foldl (fun (best : Option Nat) a =>
      if a + b.slice ≤ n && held.all (fun h => h.1 + h.2 ≤ a || a + b.slice ≤ h.1) && (best.all (a < ·)) then some a else best) none

/-- A block waits for room in its share. -/
def waitsRoom (f : Fab) (b : Block) : Bool := b.slice != 0 && (slicePlace f b).isNone

/-- A block that waits may become resident: it fits, no earlier block of its command waits on the core, and no block of its context at a higher
level waits there for room in the share that it would itself take (03 R56, 14 R418). -/
def mayReside (k : Keel) (f : Fab) (before : List Block) (b : Block) : Bool :=
  coreOn k b.core && mayRun k b.part && groupsFit k f b && (slicePlace f b).isSome &&
  decide ((f.cores.blocks.filter fun x => x.2.core == b.core).length < 64) &&
  !(before.any fun x => x.core == b.core && x.q == b.q && x.j == b.j) &&
  !(b.slice != 0 && f.cores.waiting.any fun x => x.core == b.core && x.ctx == b.ctx && decide (x.level > b.level) && waitsRoom f x)

/-- The first waiting block of a core that may become resident, highest level first, with the blocks that stay. -/
def takeBlock (k : Keel) (f : Fab) (core : Nat) : (before rest : List Block) → Option (Block × List Block)
  | _, [] => none
  | before, b :: rest =>
    if b.core = core && mayReside k f before b then some (b, before ++ rest) else takeBlock k f core (before ++ [b]) rest

def freeSlots (f : Fab) (core sub : Nat) : List Nat :=
  (List.range 16).filter fun s => (findGroup f (gidOf core sub s)).isNone

/-- A group at its start (03 R58, 04 R99, 09 R274): u0 to u15 hold the arguments, every other register reads zero. -/
def newGroup (b : Block) (block g : Nat) : Group :=
  { part := b.part, ctx := b.ctx, level := b.level, block := block, gib := g, blockIx := b.ix, nregs := b.nregs, vreg := []
    ureg := (List.range 16).foldl (fun u r => cwrite 0 u r (BitVec.ofNat 32 (numAt b.args (4 * r) 4))) []
    preg := []
    paths := [(0, { pc := b.entry, mask := 0xFFFFFFFF, joins := [], st := .running, back := 0 })]
    gstatus := 0, row := RowState.zero, park := .running, parkCount := 0, faultCode := 0, faultAddr := 0, faultLanes := 0
    faultPc := 0, faultAt := { key := 0, pc := 0, mask := 0, act := 0, fetched := true, joins := [] }, replay := none, cmdErr := false, waits := [], unstored := [], killed := false }

/-- BLOCK_RESIDENT (03 R55, R56): all groups of the block are placed at once. -/
def runBlockResident (k : Keel) (f : Fab) (core : Nat) : Fab :=
  let byLevel := fun (l : Nat) => takeBlock k f core [] (f.cores.waiting.filter fun b => b.level == l)
  match [3, 2, 1, 0].findSome? byLevel with
  | none => f
  | some (b, _) =>
    let j0 := firstSub f core
    let id := f.nextId
    let f := { f with nextId := id + 1 }
    let f := onCores f fun c => { c with waiting := c.waiting.erase b }
    let (f, gids) := (List.range b.ngroups).foldl (fun (st : Fab × List Nat) g =>
      let sub := subOf j0 g
      let gid := gidOf core sub ((freeSlots st.1 core sub).headD 0)
      (onCores st.1 fun c => { c with groups := tput c.groups gid (newGroup b id g) }, st.2 ++ [gid])) (f, [])
    onCores f fun c => { c with blocks := tput c.blocks id { b with gids := gids, sliceAt := (slicePlace f b).getD 0 } }

/-! ### Parking -/

/-- Step 2 of 03 R77: the group's loads have answered and its stores have been accepted, those to a peer acknowledged. -/
def drained (f : Fab) (gid : Nat) : Bool :=
  (loadsOf f gid).isEmpty && (findGroup f gid).all (·.unstored.isEmpty) &&
  (entriesOf f gid).all fun e => e.issued && (e.loc.kind != 4 || e.done)

/-- PARK_DRAIN_COMPLETE (03 R77, R78): STATE reads PARKED and a group-parked event is posted; a context with no fault handler
has the block killed. -/
def runParkDrain (k : Keel) (f : Fab) (gid : Nat) : Fab :=
  match findGroup f gid with
  | none => f
  | some g =>
    if g.park != .parking || g.killed || !drained f gid || !mayRun k g.part then f
    else
      let f := modGroup f gid fun g => { g with park := .parked }
      let f := if (findCtx f g.ctx).any (·.handler) then f else killBlock k f g.block
      postEvent k f (parkEvent gid g 3)

/-! ### The park registers' commands (03 R82, R83) -/

/-- The group that SAIL_PARK_SEL of a die selects. -/
def parkSel (f : Fab) (die : Nat) : Option Nat :=
  let d := dieRegs f die
  if d.parkCore < 192 then some (gidOf (192 * die + d.parkCore) d.parkSub d.parkSlot) else none

/-- The selected group, if the request may see it (03 R82). -/
def parkGroup (k : Keel) (f : Fab) (m : Mark) (die : Nat) : Option (Nat × Group) :=
  (parkSel f die).bind fun gid => (findGroup f gid).bind fun g => if actsFor k m g.part then some (gid, g) else none

def setCmdErr (f : Fab) (gid : Nat) : Fab := modGroup f gid fun g => { g with cmdErr := true }

/-- Lanes leave the entries they lie in; an entry with no lane is freed. -/
def pullLanes (g : Group) (m : Word32) : Group :=
  { g with paths := (g.paths.map fun p => (p.1, { p.2 with mask := p.2.mask &&& ~~~m })).filter fun p => p.2.mask != 0 }

/-- The lanes of the faulting instruction's path stand at SAIL_PARK_PC again, and run: wherever they have come to since a late fault,
with the join addresses in force when the instruction issued. -/
def replayPath (g : Group) : Group :=
  let s := g.faultAt
  let g := pullLanes g s.mask
  let key := if (tfind g.paths s.key).isNone then s.key else (freeKeys g).headD s.key
  let g := { g with paths := g.paths.map fun p => if p.2.st == .running then (p.1, { p.2 with st := .ready }) else p }
  setPath g key { pc := g.faultPc, mask := s.mask, joins := s.joins, st := .running, back := 0 }

/-- Wait slots that no path waits in any more are free: their requests are withdrawn, and the paths that wait for a slot take them. -/
def dropWaits (f : Fab) (gid : Nat) : Fab :=
  match findGroup f gid with
  | none => f
  | some g =>
    let left := (g.waits.filter fun w => !(g.paths.any fun p => p.2.st == .waitCounter w.1)).map (·.1)
    left.foldl (fun f s =>
      let f := withdraw f fun w => !w.isQueue && w.wslot == gid * 4 + s
      passSlot (modGroup f gid fun g => { g with waits := tdel g.waits s }) gid) f

/-- REPLAY (03 R77, R80): the group is eligible again at SAIL_PARK_PC, for the lanes that were active when it faulted (of an instruction
that could not be fetched the path's, under its guard once it is), PARK_COUNT kept
and FAULT_LANES cleared. DESIGN CHOICE (log 57): SAIL_PARK_ADDR and the fault code are cleared too. -/
def replayGroup (f : Fab) (gid : Nat) : Fab :=
  dropWaits (modGroup f gid fun g =>
    { replayPath g with park := .running, faultLanes := 0, faultCode := 0, faultAddr := 0, replay := if g.faultAt.fetched then some g.faultAt.act else none }) gid

/-- A write of SAIL_PARK_CMD with an ACTION. -/
def parkCmd (k : Keel) (f : Fab) (m : Mark) (die action : Nat) : Fab :=
  match parkGroup k f m die with
  | none => f
  | some (gid, g) =>
    if action ≠ 1 ∧ action ≠ 2 then f
    else if g.park != .parked then setCmdErr f gid
    else if action = 1 then replayGroup f gid
    else killBlock k f g.block

/-- BLOCK_KILL_COMPLETE (03 R79): the accesses of a killed block are done, and its resources are freed. -/
def runBlockKill (f : Fab) (core block : Nat) : Fab :=
  match tfind f.cores.blocks block with
  | none => f
  | some b =>
    if b.killed && b.core == core && b.gids.all (accessesDone f) then
      freeBlock f block
    else f

/-! ### The commands -/

/-- BLOCK_RESIDENT (03 R56). -/
def execBlockResident (core : Nat) (s : State) : Out := onFab s fun k f => runBlockResident k f core
/-- PARK_DRAIN_COMPLETE (03 R77). -/
def execParkDrainComplete (g : GroupAt) (s : State) : Out := onFab s fun k f => runParkDrain k f (GroupAtGid g)
/-- REPLAY (03 R80): a write of SAIL_PARK_CMD with ACTION 1. -/
def execReplay (m : Mark) (die : Nat) (v : Word32) (s : State) : Out :=
  regRow s m fun k f => if fld v.toNat 0 2 = 1 then parkCmd k f m die 1 else f
/-- KILL (03 R79): a write of SAIL_PARK_CMD with ACTION 2. -/
def execKill (m : Mark) (die : Nat) (v : Word32) (s : State) : Out :=
  regRow s m fun k f => if fld v.toNat 0 2 = 2 then parkCmd k f m die 2 else f
/-- BLOCK_KILL_COMPLETE (03 R79). -/
def execBlockKillComplete (core block : Nat) (s : State) : Out := onFab s fun _ f => runBlockKill f core block

end Sys2Proof.Machine
end

