-- ==== Sys2Proof/Machine/Queues.lean ====
section
/-!
DEFINITION. Queues.lean: rings and doorbells (13 R379, R380, 15 R428, R429), the acceptance of commands (13 R382 to R384, R386),
their start (13 R381) and retirement (13 R385).
-/
namespace Sys2Proof.Machine

/-! ### The fields of a command (13 R382, R383) -/

def cmdWord (b : List Byte) (at_ : Nat) : Nat := numAt b at_ 8
def cmdOp (b : List Byte) : Nat := fld (cmdWord b 0) 56 8
def cmdBarrier (b : List Byte) : Bool := bitAt (cmdWord b 0) 55
def cmdEvent (b : List Byte) : Bool := bitAt (cmdWord b 0) 54
def cmdWaitEn (b : List Byte) : Bool := bitAt (cmdWord b 0) 53
def cmdSigEn (b : List Byte) : Bool := bitAt (cmdWord b 0) 52
def cmdFence (b : List Byte) : Nat := fld (cmdWord b 0) 32 15
def cmdSigInc (b : List Byte) : Nat := fld (cmdWord b 8) 48 16
def cmdSigCid (b : List Byte) : Nat := fld (cmdWord b 8) 32 14
def cmdTag (b : List Byte) : Nat := fld (cmdWord b 8) 0 32
def cmdAddr (b : List Byte) (at_ : Nat) : Word64 := BitVec.ofNat 64 (numAt b at_ 8)
def half (b : List Byte) (at_ : Nat) : Nat := numAt b at_ 2
def word32 (b : List Byte) (at_ : Nat) : Nat := numAt b at_ 4

/-- LAUNCH (OP 0x01). -/
def launchBlocks (b : List Byte) : Nat := fld (cmdWord b 32) 32 32
def launchGroups (b : List Byte) : Nat := fld (cmdWord b 32) 27 5 + 1
def launchRegs (b : List Byte) : Nat := 8 * (fld (cmdWord b 32) 22 5 + 1)
def launchSlice (b : List Byte) : Nat := 128 * fld (cmdWord b 32) 0 14
def launchFirst (b : List Byte) : Nat := fld (cmdWord b 40) 0 10
def launchCores (b : List Byte) : Nat := fld (cmdWord b 40) 16 10
def launchNobj (b : List Byte) : Nat := fld (cmdWord b 56) 0 9
def launchCoreList (b : List Byte) : List Nat := (List.range (launchCores b)).map (launchFirst b + ·)

/-- Bytes of a payload that must be zero: those from `from_` on. -/
def zeroFrom (b : List Byte) (from_ : Nat) : Bool := (b.drop from_ |>.take (64 - from_)).all (· == 0)
def zeroBetween (b : List Byte) (lo hi : Nat) : Bool := (slice b lo (hi - lo)).all (· == 0)

def isAdminOp (op : Nat) : Bool :=
  decide (0x20 ≤ op ∧ op ≤ 0x2A) || decide (0x2C ≤ op ∧ op ≤ 0x30)

/-- Whether OP is defined and fits a queue class, without regard to ADMIN: counter commands and MARK fit every class
(log 35). -/
def opFits (op cls : Nat) : Bool :=
  if op = 1 then cls == 0 else if op = 2 then cls == 1 else if op = 3 then cls == 2 else if op = 4 then cls == 3
  else if (8 ≤ op ∧ op ≤ 0x0C) ∨ op = 0x10 then true
  else isAdminOp op && cls == 4

def powerOf2 (n lo hi : Nat) : Bool := decide (lo ≤ n ∧ n ≤ hi) && popcount 33 n == 1

/-! ### R128, R129, R548: a slot entry's words -/

def kindPerms : Nat → Nat
  | 0 | 1 => 0xF
  | 2 | 3 | 4 => 0xB
  | _ => 0

/-- A, X, W, R of word 1 as bits 3 to 0. -/
def permsOf (w1 : Nat) : Nat := fld w1 48 4

/-- The bytes of a partition's carve-out of a kind (10 R295); a local-memory object is bounded by its context's largest
share, a peer's object by the address width. -/
def carveBytes (k : Keel) (f : Fab) (part kind : Nat) (kdata : Nat) : Nat :=
  match partRec k part with
  | none => 0
  | some r => match kind with
    | 0 => r.nmUnits * k.sails * 2 ^ 28
    | 1 => r.lpdUnits * popcount 32 r.lpdMask * 2 ^ 28
    | 2 => match findCtx f (kdata % 1024) with
      | none => 0
      | some c => if c.part = part then ((c.shares.map (·.units)).foldl max 0) * 16384 else 0
    | 3 => r.tetherBytes
    | _ => 2 ^ 48

/-- Whether words 0 to 2 of a slot entry are legal for a partition (05 R128, R129, R548; a door of 16 R454 has LENGTH 8 and W
alone). -/
def entryLegal (k : Keel) (f : Fab) (part w0 w1 w2 : Nat) : Bool :=
  let kind := fld w0 48 4
  let base := fld w0 0 48
  let len := fld w1 0 48
  fld w0 56 8 == 0 && decide (kind ≤ 4) && base % 128 == 0 && fld w1 54 10 == 0 && bitAt w1 53 &&
  (permsOf w1 &&& kindPerms kind) == permsOf w1 &&
  decide (base + len ≤ carveBytes k f part kind w2) &&
  (if kind = 2 then decide (w2 < 1024) && (findCtx f w2).any (·.part == part)
   else if kind = 4 then fld w2 56 7 == 0 && (!bitAt w2 63 || (len == 8 && permsOf w1 == 2)) else w2 == 0)

/-! ### The checks of 13 R384 -/

/-- What a command names: objects that must exist, and memory with its use, alignment and length. -/
structure Names where
  objs : List (ObjKind × Nat)
  mems : List (Word64 × Use × Nat × Nat)
  deriving DecidableEq, Repr

/-- Check 2 on the payload: reserved bytes are zero and the fields lie in range. -/
def payloadOk (k : Keel) (f : Fab) (part : Nat) (b : List Byte) : Bool :=
  match cmdOp b with
  | 0x01 => fld (cmdWord b 32) 14 8 == 0 && fld (cmdWord b 40) 10 6 == 0 && fld (cmdWord b 40) 26 38 == 0 &&
      fld (cmdWord b 56) 9 55 == 0 && decide (launchNobj b ≤ 256) &&
      (launchCores b == 0 || corePresent k (launchFirst b + launchCores b - 1))
  | 0x02 | 0x03 | 0x04 => zeroFrom b 24
  | 0x08 | 0x09 | 0x0A | 0x0B => fld (cmdWord b 16) 14 18 == 0 && zeroFrom b 24
  | 0x0C => fld (cmdWord b 16) 14 18 == 0 && zeroFrom b 32
  | 0x10 => zeroFrom b 16
  | 0x20 => zeroFrom b 44 && half b 40 != 0 && decide (half b 42 < 1024) && fld (cmdWord b 16) 56 8 == 0 &&
      (fld (cmdWord b 16) 52 4 != part || entryLegal k f part (cmdWord b 16) (cmdWord b 24) (cmdWord b 32))
  | 0x21 => zeroBetween b 18 24 && zeroFrom b 32 && (match tfind f.tab.objs (half b 16) with
      | none => true
      | some o => o.part != part || entryLegal k f part (o.kind * 2 ^ 48 + o.base) (cmdWord b 24)
          o.kdata.toNat)
  | 0x22 | 0x23 => zeroFrom b 20 && decide (half b 18 < 1024)
  | 0x24 => zeroFrom b 24 && decide (half b 16 < 16384) && decide (half b 18 < 1024)
  | 0x25 => zeroFrom b 24 && decide (half b 16 < 1024) && fld (word32 b 20) 14 12 == 0 &&
      (match findCtx f (half b 16) with
       | none => true
       | some c => decide (half b 18 < c.vcount))
  | 0x26 => zeroFrom b 26 && decide (half b 16 < 16384) && decide (half b 18 < 16384) && half b 24 != 0
  | 0x27 => zeroFrom b 20 && decide (half b 16 < 16384) && decide (half b 18 < 1024)
  | 0x28 => zeroFrom b 42 && decide (half b 40 < 32768) && bitAt (cmdWord b 16) 63 && fld (cmdWord b 16) 46 2 == 0 &&
      fld (cmdWord b 32) 33 31 == 0
  | 0x29 => zeroBetween b 18 20 && zeroFrom b 24 && decide (half b 16 < 32768) && fld (word32 b 20) 8 24 == 7 && word32 b 20 % 256 != 0
  | 0x2A => zeroFrom b 20 && decide (half b 16 < 32768) && decide (half b 18 < 1024)
  | 0x2C => zeroBetween b 21 24 && zeroBetween b 36 40 && zeroFrom b 52 && decide (half b 16 < 1024) && half b 18 % 16 == 0 &&
      decide (half b 18 ≤ 16384) && decide (numAt b 20 1 < 4) && powerOf2 (word32 b 32) 16 65536
  | 0x2D => zeroFrom b 19 && decide (half b 16 < 1024) && decide (numAt b 18 1 ≤ 1)
  | 0x2E => zeroFrom b 36 && decide (half b 16 < 4096) && decide (half b 18 < 1024) && decide (numAt b 20 1 < 16) &&
      decide (numAt b 20 1 % 8 ≤ 4) && decide (numAt b 21 1 ≤ 3) && powerOf2 (word32 b 32) 16 65536 &&
      (if numAt b 20 1 % 8 = 0 ∨ numAt b 20 1 % 8 = 2 then corePresent k (half b 22) else clusterPresent k (half b 22))
  | 0x2F => zeroFrom b 18 && decide (half b 16 < 4096)
  | _ => zeroFrom b 16

/-- The objects that a command names, those of releases among them, and whether a create claims the queue's own partition (13 R384 checks 3
and 4). A ring object is aligned to 128 bytes. -/
def namesOf (part : Nat) (b : List Byte) : Names × Bool :=
  let n := fun (objs : List (ObjKind × Nat)) (mems : List (Word64 × Use × Nat × Nat)) => ({ objs := objs, mems := mems } : Names)
  match cmdOp b with
  | 0x01 => (n [] ([(cmdAddr b 16, .fetch, 8, 8), (cmdAddr b 24, .load, 1, 64)] ++
      if launchNobj b = 0 then [] else [(cmdAddr b 48, .load, 2, 2 * launchNobj b)]), true)
  | 0x02 => (n [] [(cmdAddr b 16, .load, 64, 64)], true)
  | 0x04 => (n [] [(cmdAddr b 16, .load, 128, 128)], true)
  | 0x0C => (n [] [(cmdAddr b 24, .store, 8, 8)], true)
  | 0x20 => (n [(.context, half b 42)] [], fld (cmdWord b 16) 52 4 == part)
  | 0x21 => (n [(.memory, half b 16)] [], true)
  | 0x22 => (n [(.memory, half b 16), (.context, half b 18)] [], true)
  | 0x23 => (n [(.memory, half b 16), (.context, half b 18)] [], true)
  | 0x24 => (n [(.context, half b 18)] [], true)
  | 0x25 => (n ((.context, half b 16) :: if bitAt (word32 b 20) 31 then [(.counter, word32 b 20 % 16384)] else []) [], true)
  | 0x26 => (n [(.counter, half b 16), (.counter, half b 18)] [], true)
  | 0x27 => (n [(.counter, half b 16), (.context, half b 18)] [], true)
  | 0x28 => (n [(.context, fld (cmdWord b 16) 48 10), (.counter, fld (cmdWord b 16) 32 14)]
      (if cmdWord b 24 = 0 then [] else [(cmdAddr b 24, .store, 8, 8)]), fld (cmdWord b 16) 58 4 == part)
  | 0x29 => (n [(.fence, half b 16)] [], true)
  | 0x2A => (n [(.fence, half b 16), (.context, half b 18)] [], true)
  | 0x2C => (n [] ((cmdAddr b 24, .both, 128, 64 + 32 * word32 b 32) ::
      if word32 b 48 = 0 then [] else [(cmdAddr b 40, .load, 1, 4 * word32 b 48)]), true)
  | 0x2D => (n [(.context, half b 16)] [], true)
  | 0x2E => (n [(.context, half b 18)] [(cmdAddr b 24, .both, 128, 64 + 64 * word32 b 32)], true)
  | 0x2F => (n [(.queue, half b 16)] [], true)
  | _ => (n [] [], true)

/-- R and W without A: a ring is read and written. -/
def ringUse (f : Fab) (part : Nat) (a : Word64) (align n : Nat) : Except Nat Loc :=
  match checkAt f part none .load a align n with
  | .error e => .error e
  | .ok _ => checkAt f part none .store a align n

def memCheck (f : Fab) (part : Nat) (m : Word64 × Use × Nat × Nat) : Option Nat :=
  let r := if m.2.1 = .both then ringUse f part m.1 m.2.2.1 m.2.2.2 else checkAt f part none m.2.1 m.1 m.2.2.1 m.2.2.2
  match r with
  | .error e => some e
  | .ok loc => if m.2.1 = .both ∧ loc.kind ≠ 0 ∧ loc.kind ≠ 1 ∧ loc.kind ≠ 3 then some 0x0601 else none

/-- Counters that a command names by an identifier of its context: its own and that of its signal (13 R372). -/
def cidObjs (f : Fab) (ctx : Nat) (b : List Byte) : List (ObjKind × Nat) :=
  let by_ := fun (cid : Nat) (r : Right) => (translate f ctx cid r).toList.map fun p => (ObjKind.counter, p)
  (match cmdOp b with
    | 0x08 => by_ (fld (cmdWord b 16) 0 14) .sig
    | 0x09 | 0x0A | 0x0B => by_ (fld (cmdWord b 16) 0 14) .set_
    | 0x0C => by_ (fld (cmdWord b 16) 0 14) .rd
    | _ => []) ++ if cmdSigEn b then by_ (cmdSigCid b) .sig else []

def waitFence (b : List Byte) : List (ObjKind × Nat) := if cmdWaitEn b then [(.fence, cmdFence b)] else []

/-- Check 3 of 13 R384 on objects: every one of them belongs to the queue's partition. -/
def foreignObj (f : Fab) (part : Nat) (os : List (ObjKind × Nat)) : Bool := os.any fun o => (partOfObj f o.1 o.2).any (· != part)

/-- The object of a MATRIX command's descriptor: steps 1 to 4 and 6 of 05 R130; its alignment and its share belong to 04 R102. -/
def matrixNamed (f : Fab) (part : Nat) (a : Word64) : Option Nat :=
  match findObj f part (slotOf a) with
  | .error e => some e
  | .ok o => if !Use.allowed o .load then some 0x0203 else if offOf a + 64 > o.len then some 0x0205 else none

/-- Memory objects that a command names by address. -/
def namedMems (part : Nat) (b : List Byte) : List (ObjKind × Nat) :=
  (((namesOf part b).1.mems.map (·.1)) ++ if cmdOp b = 3 then [cmdAddr b 16] else []).map fun a => (.memory, slotOf a)

/-- Check 4 of 13 R384: the memory that a command names passes its check, and every object that it names exists and is not dying (13 R374). -/
def namesFault (f : Fab) (x : Queue) (b : List Byte) : Option Nat :=
  let nm := (namesOf x.part b).1
  match if cmdOp b = 3 then matrixNamed f x.part (cmdAddr b 16) else nm.mems.findSome? (memCheck f x.part) with
  | some e => some e
  | none =>
    if (nm.objs ++ namedMems x.part b ++ waitFence b ++ cidObjs f x.ctx b).any fun o => !alive f o.1 o.2 then
      some 0x0202
    else none

/-- Slots listed by a LAUNCH, read with its payload's list (13 R383). -/
def launchObjs (b : List Byte) : List (ObjKind × Nat) :=
  (List.range (launchNobj b)).map fun i => (.memory, half b (64 + 2 * i))

/-- Whether the list of a LAUNCH can be read. -/
def listRead (f : Fab) (part : Nat) (b : List Byte) : Bool :=
  cmdOp b == 1 && launchNobj b != 0 && (memCheck f part (cmdAddr b 48, .load, 2, 2 * launchNobj b)).isNone

/-- Checks 1 to 4 of 13 R384 on what the payload itself holds: the first that fails, with whether check 1 passed. A LAUNCH whose list can be
read makes check 4 with it. -/
def acceptFault (k : Keel) (f : Fab) (x : Queue) (b : List Byte) : Bool × Option Nat :=
  let sigOk := !cmdSigEn b || (translate f x.ctx (cmdSigCid b) .sig).isSome
  if !sigOk then (false, some 0x0401)
  else if !(opFits (cmdOp b) x.cls) || fld (cmdWord b 0) 47 5 != 0 || fld (cmdWord b 0) 0 32 != 0 || fld (cmdWord b 8) 46 2 != 0 ||
      !payloadOk k f x.part b then (true, some 0x0601)
  else if (isAdminOp (cmdOp b) && !(x.admin && (findCtx f x.ctx).any (·.admin))) || !(namesOf x.part b).2 ||
      foreignObj f x.part ((namesOf x.part b).1.objs ++ waitFence b) then (true, some 0x0605)
  else if listRead f x.part b then (true, none)
  else (true, namesFault f x b)

/-- Checks 3 to 5 of a LAUNCH with the list that its payload names: slot 0 is no object, and its context holds a share on every core. -/
def launchFault (f : Fab) (x : Queue) (b : List Byte) : Option Nat :=
  let os := launchObjs b
  if foreignObj f x.part os then some 0x0605
  else match namesFault f x b with
    | some e => some e
    | none =>
      match os.findSome? fun o => if o.2 = 0 then some 0x0201 else if alive f o.1 o.2 then none else some 0x0202 with
      | some e => some e
      | none =>
        if (launchCoreList b).any fun c => !((findCtx f x.ctx).any fun cx => cx.shares.any (·.core == c)) then some 0x0604 else none

/-- The device references that a command takes at acceptance (13 R372): every object it names, its fence and its counters. DEDUCED (log 36):
its own queue is among them, whose RETIRED it writes. -/
def cmdRefs (f : Fab) (x : Queue) (q : Nat) (b : List Byte) : List (ObjKind × Nat) :=
  (namesOf x.part b).1.objs ++ namedMems x.part b ++ waitFence b ++ cidObjs f x.ctx b ++ [(.queue, q)] ++
    if cmdOp b = 1 then launchObjs b else []

/-- What a payload's address holds and must be read before the command is accepted: (address, length). The list of a LAUNCH comes first. -/
def auxReads (f : Fab) (part : Nat) (b : List Byte) : List (Word64 × Nat) :=
  match cmdOp b with
  | 0x01 => (if launchNobj b = 0 then [] else [(cmdAddr b 48, 2 * launchNobj b)]) ++
      if (memCheck f part (cmdAddr b 24, .load, 1, 64)).isNone then [(cmdAddr b 24, 64)] else []
  | 0x02 => [(cmdAddr b 16, 64)]
  | 0x04 => [(cmdAddr b 16, 128)]
  | 0x2C => if word32 b 48 = 0 then [] else [(cmdAddr b 40, 4 * word32 b 48)]
  | _ => []

/-- The 64 bytes of a LAUNCH's ARGS. -/
def launchArgs (b : List Byte) : List Byte := slice b (64 + 2 * launchNobj b) 64

/-! ### Reading a queue -/

def placesOf (f : Fab) (part : Nat) (as : List (Word64 × Nat)) : List ReadPart :=
  as.flatMap fun a => match checkAt f part none .load a.1 1 a.2 with
    | .ok loc => partsOf loc a.2
    | .error _ => []

/-- A read of TAIL is issued (15 R429). -/
def readTail (k : Keel) (f : Fab) (q : Nat) : Fab :=
  match findQueue f q with
  | none => f
  | some x =>
    match ringAt f x.part .load x.ring 0 8 with
    | .error e => closeQueue k f q e
    | .ok loc => startRead k (modQueue f q fun x => { x with tailRead := false, reading := true }) (.tail q) (partsOf loc 8) x.die

/-- The next command is read, or the queue stops reading; a ring that waits starts a further read of TAIL. -/
def readNext (k : Keel) (f : Fab) (q : Nat) : Fab :=
  match findQueue f q with
  | none => f
  | some x =>
    if x.state ≠ 0 then modQueue f q fun x => { x with reading := false, tailRead := false }
    else if x.head < x.tail then
      match ringAt f x.part .load x.ring (64 + 64 * (x.head % x.entries)) 64 with
      | .error e => closeQueue k (modQueue f q fun x => { x with reading := false }) q e
      | .ok loc => startRead k (modQueue f q fun x => { x with reading := true }) (.command q x.head) (partsOf loc 64) x.die
    else if x.tailRead then readTail k f q
    else modQueue f q fun x => { x with reading := false }

/-- A counter of refused rings, saturating at 65,535. -/
def bump (t : Table Nat) (p : Nat) : Table Nat := tupd t p 0 fun n => sat 65535 (n + 1)

/-- A ring of a queue's doorbell (15 R429); while the partition is quiesced or the device is in retention it is held. -/
def ring (k : Keel) (f : Fab) (page q : Nat) : Fab :=
  match findQueue f q with
  | none => onTab f fun t => { t with stale := bump t.stale page }
  | some x =>
    if x.part ≠ page then onTab f fun t => { t with stale := bump t.stale page }
    else if heldPart k page || k.power.retention != 0 then modQueue f q fun x => { x with held := true }
    else if x.state ≠ 0 then onTab f fun t => { t with stale := bump t.stale page }
    else if x.reading then modQueue f q fun x => { x with tailRead := true }
    else readTail k f q

/-- A write of PART_DB_Q (15 R428, R429). -/
def doorbell (k : Keel) (f : Fab) (m : Mark) (page q : Nat) (v : Nat) : Fab :=
  if !bitAt v 0 then f
  else if !actsFor k m page then onTab f fun t => { t with foreign := bump t.foreign page }
  else ring k f page q

/-- Rings held for a partition are handled (15 R429). -/
def releaseHeld (k : Keel) (f : Fab) (p : Nat → Bool) : Fab :=
  (f.tab.queues.filter fun x => p x.2.part && x.2.held).foldl (fun f x =>
    ring k (modQueue f x.1 fun y => { y with held := false }) x.2.part x.1) f

/-! ### Retirement (13 R385) -/

/-- A word of a ring's control block. -/
def writeCount (k : Keel) (f : Fab) (x : Queue) (at_ n : Nat) : Fab := ringWrite k f x.die x.part x.ring at_ (bytesLE 8 n) .none

/-! ### The accounts of autonomous programs (18 R497) -/

/-- A partition's programs, in instance order. -/
def progsOf (k : Keel) (p : Nat) : List Program := ((k.image.map (·.programs)).getD []).filter (·.part == p)

def modProg (f : Fab) (p : Nat) (g : ProgState → ProgState) : Fab := onTab f fun t => { t with progs := tmod t.progs p g }

def ProgState.start0 (at_ : Nat) (failed : Option (Nat × Nat)) : ProgState :=
  { at_ := at_, phase := 0, left := 0, slots := [], retired := 0, start := 0, failed := failed }

/-- The program ends and the partition's next one is to begin. -/
def nextProgram (f : Fab) (p : Nat) : Fab := modProg f p fun x => ProgState.start0 (x.at_ + 1) x.failed

/-- The program ends with partition cause 0x83 and an entry's index; the first failure stays recorded. -/
def failProgram (k : Keel) (f : Fab) (p entry : Nat) : Fab :=
  modProg f p fun x => ProgState.start0 (x.at_ + 1)
    (match x.failed with | some e => some e | none => some (((progsOf k p)[x.at_]?.map (·.number)).getD 0, entry))

/-- A command that the keel fed has retired with a code. -/
def noteProgram (k : Keel) (f : Fab) (q j code : Nat) : Fab :=
  match findQueue f q with
  | none => f
  | some x => match partRec k x.part, tfind f.tab.progs x.part with
    | some r, some s =>
      if r.adminQueue ≠ q ∨ s.phase > 4 then f
      else match findIx (· == j) s.slots with
        | none => f
        | some (i, _) => if code = 0 then modProg f x.part fun s => { s with retired := s.retired + 1 } else failProgram k f x.part i
    | _, _ => f

/-- A command retires with a code: references are dropped, the signal or the error goes to SIG_CID, and the event is posted.
With `quiet` nothing is signalled (13 R398, R400). -/
def retireCmd (k : Keel) (f : Fab) (q j code : Nat) (quiet : Bool) : Fab :=
  match findQueue f q, findCmd f q j with
  | some x, some c =>
    let f := modQueue (noteProgram k f q j code) q fun x => { x with cmds := tdel x.cmds j, retired := x.retired + 1 }
    let f := writeCount k f x 16 (x.retired + 1)
    let f := dropAll k f c.refs x.die
    let last := unitLast 6 x.ctx q
    let sig := if cmdSigEn c.bytes && c.sigOk && !quiet then translate f x.ctx (cmdSigCid c.bytes) .sig else none
    let f := match sig with
      | none => f
      | some p => if code = 0 then sendCnt f p .add (cmdSigInc c.bytes) last else sendCnt f p .error code last
    if code = 0 then
      if cmdEvent c.bytes then postEvent k f { mkEvent 1 x.part x.ctx x.die with tag := cmdTag c.bytes } else f
    else postEvent k f { mkEvent 2 x.part x.ctx x.die with tag := cmdTag c.bytes, code := code }
  | _, _ => f

/-! ### The reads' data -/

/-- TAIL_READ_DATA (13 R380). The queues of a context that drains accept what was written before, by the TAIL read after CTX_DESTROY (13 R400);
those of a partition that resets end at the TAIL read then (13 R398). -/
def runTailRead (k : Keel) (f : Fab) (m : Nat) : Fab :=
  match tfind f.net m with
  | some (.tailData q value fault) =>
    let f := drop f m
    match findQueue f q with
    | none => f
    | some x =>
      let stop := fun f => modQueue f q fun x => { x with reading := false, tailRead := false }
      let draining := ((findCtx f x.ctx).bind (·.ending)).isSome
      if x.state ≠ 0 then
        if fault = 0 && (tfind f.tab.resets x.part).isSome then modQueue (stop f) q fun x => { x with tail := value } else stop f
      else if fault ≠ 0 then closeQueue k (stop f) q fault
      else if value < x.head ∨ value - x.head > x.entries then closeQueue k (stop f) q 0x0601
      else match x.limit with
        | some l => readNext k (modQueue f q fun x => { x with tail := min value l }) q
        | none => readNext k (modQueue f q fun x => { x with
            tail := value, limit := if draining && !x.tailRead then some value else none }) q
  | _ => f

/-! ### Start and retirement -/

/-- What an engine holds for a command runs once the command has acted (13 R384). -/
def EngSrc.runs (f : Fab) : EngSrc → Bool
  | .command q j => (findCmd f q j).any (·.stage == .working)
  | _ => true

/-- An engine's checks of a command's descriptor are done. -/
def checkedCmd (f : Fab) : EngSrc → Fab
  | .command q j => modCmd f q j fun c => if c.stage = .checking then { c with stage := .accepted } else c
  | _ => f

/-- The die of the queue whose command gave an engine its descriptor, else 0 (15 R430). -/
def srcDie (f : Fab) : EngSrc → Nat
  | .command q _ => ((findQueue f q).map (·.die)).getD 0
  | _ => 0


/-- COMMAND_START (13 R381, R392): commands start in index order; BARRIER waits for every earlier command, WAIT_EN for its
fence, whose error fails the command. -/
def runCommandStart (k : Keel) (f : Fab) (q j : Nat) : Fab :=
  match findQueue f q with
  | none => f
  | some x => match tfind x.cmds j with
    | none => f
    | some c =>
      let earlier := x.cmds.filter fun e => decide (e.1 < j)
      let waiting := earlier.any fun e => match e.2.stage with
        | .fetching | .checking | .accepted | .waiting => true
        | _ => false
      let ready := c.stage == .accepted || c.stage == .waiting
      if !ready || waiting || (cmdBarrier c.bytes && !earlier.isEmpty) || !(mayRun k x.part || (runsHeld (cmdOp c.bytes) && !k.power.stopping)) || x.state = 1 then f
      else if cmdWaitEn c.bytes then
        match tfind f.tab.fences (cmdFence c.bytes) with
        | none => actCmd f q j 0x0202
        | some fe =>
          if fe.done && !fe.notifying then
            if fe.errword.getLsbD 62 then actCmd f q j (fld fe.errword.toNat 0 32)
            else modCmd f q j fun c => { c with stage := .started }
          else if c.stage = .waiting then f
          else
            let f := modCmd f q j fun c => { c with stage := .waiting }
            modCtr f fe.phys fun t => { t with owait := t.owait ++ [{ isQueue := true, ctx := x.ctx, wslot := q, n := fe.target }] }
      else modCmd f q j fun c => { c with stage := .started }

/-- COMMAND_RETIRE (13 R385): the code of a command that has acted. -/
def actedCode (f : Fab) (q j : Nat) : Option Nat :=
  (findCmd f q j).bind fun c => match c.stage with
    | .acted e => some e
    | _ => none

end Sys2Proof.Machine
end

