-- ==== Sys2Proof/Machine/MxForm.lean ====
section
/-!
DEFINITION. MxForm.lean: the form of a matrix descriptor (06 R161 to R166): its fields, the layout of its operands and their sparse
metadata (07 R194 to R204), its output blocks (06 R173), and what a stopped one leaves of D (06 R170).
-/
namespace Sys2Proof.Machine

/-! ### The descriptor (06 R161 to R163) -/

def mxInc (b : List Byte) : Nat := fld (cmdWord b 0) 48 16
def mxCid (b : List Byte) : Nat := fld (cmdWord b 0) 32 14
def mxObj (b : List Byte) : Nat := fld (cmdWord b 0) 16 16
def mxStat (b : List Byte) : Nat := fld (cmdWord b 0) 14 2
def mxCsrc (b : List Byte) : Bool := bitAt (cmdWord b 0) 13
def mxBiasEn (b : List Byte) : Bool := bitAt (cmdWord b 0) 12
def mxSfEn (b : List Byte) : Bool := bitAt (cmdWord b 0) 11
def mxTable (b : List Byte) : Nat := fld (cmdWord b 0) 7 4
def mxM (b : List Byte) : Nat := fld (cmdWord b 8) 51 13
def mxN (b : List Byte) : Nat := fld (cmdWord b 8) 38 13
def mxK (b : List Byte) : Nat := fld (cmdWord b 8) 22 16
def mxAfmt (b : List Byte) : Nat := fld (cmdWord b 8) 18 4
def mxBfmt (b : List Byte) : Nat := fld (cmdWord b 8) 14 4
def mxOfmt (b : List Byte) : Nat := fld (cmdWord b 8) 10 4
def mxOsign (b : List Byte) : Bool := bitAt (cmdWord b 8) 7
def mxDoff (b : List Byte) : Nat := fld (cmdWord b 24) 40 24
def mxCoff (b : List Byte) : Nat := fld (cmdWord b 24) 16 24
def mxDps (b : List Byte) : Nat := fld (cmdWord b 32) 0 16
def mxBiasOff (b : List Byte) : Nat := fld (cmdWord b 48) 40 24
def mxTscale (b : List Byte) : Nat := fld (cmdWord b 48) 0 32

/-- Width in bits of a format code (06 R162). -/
def fmtW : Nat → Nat
  | 0 | 8 => 4
  | 1 | 2 => 6
  | 3 | 4 | 9 => 8
  | 5 | 6 => 16
  | _ => 32

def isIntFmt (c : Nat) : Bool := decide (8 ≤ c)

/-- Class of a format: 0 for 4-bit to 3 for 32-bit. -/
def fmtClass : Nat → Nat
  | 0 | 8 => 0
  | 5 | 6 => 2
  | 7 => 3
  | _ => 1

def mxClass (b : List Byte) : Nat := max (fmtClass (mxAfmt b)) (fmtClass (mxBfmt b))
/-- Kt, g and c of 06 R171. -/
def mxKt (b : List Byte) : Nat := if mxClass b = 0 then 128 else 64
def mxG (b : List Byte) : Nat := if mxClass b = 0 then 2 else 1
def mxCost (b : List Byte) : Nat := match mxClass b with | 0 | 1 => 1 | 2 => 2 | _ => 8

/-- One input operand: where its values, metadata and scales lie in OBJ, and its rows. -/
structure Side where
  off : Nat
  ps : Nat
  fmt : Nat
  sign : Bool
  sp : Nat
  moff : Nat
  table : List Byte
  sc : Nat
  scOff : Nat
  rows : Nat
  deriving DecidableEq, Repr

def sideA (b table : List Byte) : Side :=
  { off := fld (cmdWord b 16) 40 24, ps := fld (cmdWord b 16) 0 16, fmt := mxAfmt b, sign := bitAt (cmdWord b 8) 9
    sp := fld (cmdWord b 8) 4 3, moff := fld (cmdWord b 32) 40 24, table := table, sc := fld (cmdWord b 40) 14 2
    scOff := fld (cmdWord b 40) 40 24, rows := mxM b }

def sideB (b table : List Byte) : Side :=
  { off := fld (cmdWord b 16) 16 24, ps := fld (cmdWord b 24) 0 16, fmt := mxBfmt b, sign := bitAt (cmdWord b 8) 8
    sp := fld (cmdWord b 8) 1 3, moff := fld (cmdWord b 32) 16 24, table := table, sc := fld (cmdWord b 40) 12 2
    scOff := fld (cmdWord b 40) 16 24, rows := mxN b }

/-- 06 R163 and 07 R195 on one operand. -/
def Side.ok (s : Side) : Bool :=
  decide (s.fmt ≤ 9) && (isIntFmt s.fmt || !s.sign) && decide (s.sp ≤ 4) && decide (s.sc ≤ 1) &&
  (s.sc == 0 || decide (s.fmt ≤ 6)) && (s.sp != 0 || s.moff == 0) && (s.sc != 0 || s.scOff == 0) &&
  (s.sp != 4 || s.ps == 0) && (s.sp == 0 || s.sp == 4 || s.moff != 0 || s.off == 0)

/-- 07 R194: the stationary operand may be structured or unstructured; its streamed partner is then dense or a bitmap. -/
def sparseOk (stat asp bsp : Nat) : Bool :=
  let plain := fun (x : Nat) => x == 0 || x == 3
  match stat with
  | 0 => plain asp
  | 1 => plain asp && plain bsp
  | _ => plain bsp

/-- Check 2 of 06 R168. -/
def mxFields (b : List Byte) : Bool :=
  let sa := sideA b []
  let sb := sideB b []
  fld (cmdWord b 0) 46 2 == 0 && fld (cmdWord b 0) 0 7 == 0 && fld (cmdWord b 8) 0 1 == 0 && fld (cmdWord b 40) 0 12 == 0 &&
  fld (cmdWord b 48) 32 8 == 0 && cmdWord b 56 == 0 && decide (mxStat b ≤ 2) && sa.ok && sb.ok &&
  isIntFmt sa.fmt == isIntFmt sb.fmt && decide (mxOfmt b ≤ 9) && (isIntFmt (mxOfmt b) || !mxOsign b) &&
  (mxSfEn b || mxTable b == 0) && decide (mxM b ≤ 4096) && decide (mxN b ≤ 4096) && (mxCsrc b || mxCoff b == 0) &&
  (mxBiasEn b || mxBiasOff b == 0) && sparseOk (mxStat b) sa.sp sb.sp

/-! ### Extents (06 R164 to R166, 07 R196, R198, R201, R204) -/

/-- Bytes of a bitmap row (07 R198). -/
def bitmapRow (kLen : Nat) : Nat := 32 * ceilDiv (ceilDiv kLen 64) 256

/-- A bitmap's bit for row group t and K tile j. -/
def bitmapBit (bm : List Byte) (kLen t j : Nat) : Bool :=
  bitAt (numAt bm (t * bitmapRow kLen + j / 8) 1) (j % 8)

def structured (sp : Nat) : Bool := sp == 1 || sp == 2

/-- Bytes of a value row of a panel. -/
def Side.rowBytes (s : Side) (kt : Nat) : Nat := if s.sp = 2 then kt * fmtW s.fmt / 16 else kt * fmtW s.fmt / 8
/-- Logical K positions of a value panel. -/
def Side.depth (s : Side) (kt : Nat) : Nat := if structured s.sp then 2 * kt else kt
def Side.panels (s : Side) (kt kLen : Nat) : Nat := ceilDiv kLen (s.depth kt)
/-- Q and MS of 07 R196. -/
def Side.q (s : Side) (kt : Nat) : Nat := if s.sp = 2 then kt / 8 else kt / 4
def Side.ms (s : Side) (kt : Nat) : Nat := 32 * ceilDiv (s.rows * s.q kt) 32

/-- An entry of a stream directory (07 R201): panel j, row group t. -/
def Side.entry (s : Side) (j t : Nat) : Nat := numAt s.table (8 * (j * ceilDiv s.rows 64 + t)) 8

/-- Bytes of the metadata that the array reads at acceptance: a bitmap or a directory. -/
def Side.tableLen (s : Side) (kt kLen : Nat) : Nat :=
  match s.sp with
  | 3 => ceilDiv s.rows 64 * bitmapRow kLen
  | 4 => ceilDiv s.rows 64 * ceilDiv kLen kt * 8
  | _ => 0

/-- The extent of a panelled operand (06 R168). DESIGN CHOICE (log 66): with no panel it is empty. -/
def panelExtent (panels stride rows p : Nat) : Nat := if panels = 0 then 0 else (panels - 1) * stride * 512 + rows * p

/-- Every extent of an operand, as offset in OBJ and length: values, metadata, scales. -/
def Side.extents (s : Side) (kt kLen : Nat) : List (Nat × Nat) :=
  let values := if s.sp = 4 then
      (List.range (s.table.length / 8)).map fun i =>
        let e := numAt s.table (8 * i) 8
        (s.off + fld e 32 32, ceilDiv (fld e 0 16 * (fmtW s.fmt + 6)) 8)
    else [(s.off, panelExtent (s.panels kt kLen) s.ps s.rows (s.rowBytes kt))]
  let table := if structured s.sp then
      [(s.moff, if s.panels kt kLen = 0 then 0 else (s.panels kt kLen - 1) * s.ms kt + s.rows * s.q kt)]
    else if s.sp = 0 then [] else [(s.moff, s.tableLen kt kLen)]
  values ++ table ++ if s.sc = 1 then [(s.scOff, s.rows * ceilDiv kLen 32)] else []

/-- Rows, positions across and row bytes of C and D: held transposed under input-stationary. -/
def outRows (b : List Byte) : Nat := if mxStat b = 2 then mxN b else mxM b
def outCols (b : List Byte) : Nat := if mxStat b = 2 then mxM b else mxN b
def outRowBytes (b : List Byte) : Nat := 8 * fmtW (mxOfmt b)
def outExtent (b : List Byte) : Nat := panelExtent (ceilDiv (outCols b) 64) (mxDps b) (outRows b) (outRowBytes b)
/-- Byte offset of row r of panel j of C or D. -/
def outAt (b : List Byte) (off j r : Nat) : Nat := off + j * mxDps b * 512 + r * outRowBytes b

/-- The operands' extents, C apart where it equals D in place. -/
def inExtents (b am bm : List Byte) : List (Nat × Nat) :=
  (sideA b am).extents (mxKt b) (mxK b) ++ (sideB b bm).extents (mxKt b) (mxK b) ++
  (if mxCsrc b && mxCoff b != mxDoff b then [(mxCoff b, outExtent b)] else []) ++
  (if mxBiasEn b then [(mxBiasOff b, 4 * mxN b)] else [])

def allExtents (b am bm : List Byte) : List (Nat × Nat) :=
  inExtents b am bm ++ (if mxCsrc b then [(mxCoff b, outExtent b)] else []) ++ [(mxDoff b, outExtent b)]

def meets (xs : List (Nat × Nat)) (a : Nat) : Bool := xs.any fun e => decide (e.1 ≤ a) && decide (a < e.1 + e.2)

/-! ### The entries of an array -/

def arrayOf (f : Fab) (core : Nat) : MxArray := tgetD f.eng.mx core MxArray.fresh
def modArray (f : Fab) (core : Nat) (g : MxArray → MxArray) : Fab := onEng f fun e => { e with mx := tupd e.mx core MxArray.fresh g }
def modEntry (f : Fab) (core id : Nat) (g : MxEntry → MxEntry) : Fab :=
  modArray f core fun a => { a with queue := a.queue.map fun x => if x.id = id then g x else x }
def findEntry (f : Fab) (core id : Nat) : Option MxEntry := (arrayOf f core).queue.find? (·.id == id)

/-! ### Blocks and steps (06 R173, 07 R197) -/

/-- Logical K of a step of the weight- and input-stationary orders. -/
def stepDepth (b : List Byte) : Nat :=
  let sp := if mxStat b = 0 then (sideB b []).sp else (sideA b []).sp
  if structured sp then 2 * mxKt b else mxKt b

/-- Steps of one output block. -/
def blockSteps (b : List Byte) : Nat :=
  if mxStat b = 1 then ceilDiv (ceilDiv (mxK b) (mxG b)) 256 else ceilDiv (mxK b) (stepDepth b)

/-- Positions in the order: a descriptor with K 0 has one for each block's close. -/
def blockSlots (b : List Byte) : Nat := max 1 (blockSteps b)

def blockShape (b : List Byte) : Nat × Nat := match mxStat b with | 0 => (256, 64) | 1 => (64, 64) | _ => (64, 256)
def blocksAcross (b : List Byte) : Nat := ceilDiv (mxN b) (blockShape b).2
def blockCount (b : List Byte) : Nat := ceilDiv (mxM b) (blockShape b).1 * blocksAcross b
def mxSteps (b : List Byte) : Nat := blockCount b * blockSlots b

/-- First row, rows, first column and columns of an output block. -/
def blockBox (b : List Byte) (blk : Nat) : Nat × Nat × Nat × Nat :=
  let (h, w) := blockShape b
  let m := blk / blocksAcross b * h
  let n := blk % blocksAcross b * w
  (m, min h (mxM b - m), n, min w (mxN b - n))

/-- The rows of D that a block writes: panel, row, first position and positions. -/
def blockRows (b : List Byte) (blk : Nat) : List (Nat × Nat × Nat) :=
  let (m, nm, n, nn) := blockBox b blk
  if mxStat b = 2 then (List.range nn).map fun r => (m / 64, n + r, nm) else (List.range nm).map fun r => (n / 64, m + r, nn)

/-- What a stopped descriptor's open and later blocks would have written of D is free (06 R170; log 18): `closed` blocks keep their
values. -/
def freeRest (f : Fab) (core : Nat) (x : MxEntry) (closed : Nat) : Fab :=
  let b := x.bytes
  let kept := (List.range closed).flatMap fun blk =>
    (blockRows b blk).map fun r => (outAt b (mxDoff b) r.1 r.2.1, ceilDiv (r.2.2 * fmtW (mxOfmt b)) 8)
  let bytes := (List.range (outExtent b)).map fun i =>
    if meets kept (mxDoff b + i) then none else some ((Config.freeWord (f.free + i)).truncate 8 : Byte)
  onMem (spend f (outExtent b)) fun m => locPoke m core (x.base + mxDoff b) bytes

end Sys2Proof.Machine
end

