-- ==== Sys2Proof/Machine/Reset.lean ====
section
/-!
DEFINITION. Reset.lean: partition reset (13 R397 to R399), teardown of a context (13 R400, R401) and the advance of role epochs
(13 R394, R396).
-/
namespace Sys2Proof.Machine

/-! ### What may work -/

/-- Engines and queues take steps for a partition's context: it is not quiesced, not reset and not torn down. -/
def working (k : Keel) (f : Fab) (part ctx : Nat) : Bool := mayRun k part && !resetting f part && !stoppedCtx f ctx

/-! ### Stopping work (step 2 of 13 R398, R400) -/

/-- What a stop covers: a whole partition, or one context. -/
structure Scope where
  part : Nat
  ctx : Option Nat
  deriving DecidableEq, Repr

def Scope.has (s : Scope) (part ctx : Nat) : Bool := part == s.part && (s.ctx.isNone || s.ctx == some ctx)

/-- The groups of the scope are killed, parked ones too, and its blocks that wait never become resident. -/
def stopGroups (k : Keel) (f : Fab) (s : Scope) : Fab :=
  let f := (f.cores.blocks.filter fun b => s.has b.2.part b.2.ctx).foldl (fun f b => killBlock k f b.1) f
  let f := onCores f fun c => { c with waiting := c.waiting.filter fun b => !s.has b.part b.ctx }
  let keep := fun (m : Nat × Msg) => match m.2 with
    | .capture _ _ ctx part _ _ _ => !s.has part ctx
    | _ => true
  { f with net := f.net.filter keep }

/-- Every outstanding access of the scope has completed or failed (step 3). -/
def scopeQuiet (f : Fab) (s : Scope) : Bool :=
  !(f.cores.blocks.any fun b => s.has b.2.part b.2.ctx) &&
  !(f.tab.queues.any fun q => s.has q.2.part q.2.ctx && (q.2.reading || q.2.tailRead)) &&
  !(f.jobs.any fun j => match j.2.sink with
    | .command q _ => (findQueue f q).any fun x => s.has x.part x.ctx
    | _ => false) &&
  (f.eng.cp.all fun e => e.2.descs.all fun d =>
    !s.has d.part d.ctx || (d.readsOut == 0 && d.writesOut == 0 && e.2.cur != some d.id)) &&
  (f.eng.rt.all fun e => e.2.runs.all fun r =>
    !s.has r.part r.ctx || (r.readsOut == 0 && r.writesOut == 0 && r.xfersOut == 0 && e.2.cur != some r.id)) &&
  (f.eng.mx.all fun e => e.2.queue.all fun x => !s.has x.part x.ctx || e.2.cur != some x.id)

/-- Engine entries of the scope leave their engines and drop their references. What a matrix descriptor has not written of D is
free (06 R170). -/
def dropEntries (k : Keel) (f : Fab) (s : Scope) (die : Nat) : Fab :=
  let cut := f.eng.mx.flatMap fun e => (e.2.queue.filter fun x => s.has x.part x.ctx && x.accepted && !x.finished).map fun x => (e.1, x)
  let f := cut.foldl (fun f e => freeRest f e.1 e.2 (e.2.step / blockSlots e.2.bytes)) f
  let refs := (f.eng.cp.flatMap fun e => (e.2.descs.filter fun d => s.has d.part d.ctx).flatMap (·.refs)) ++
    (f.eng.rt.flatMap fun e => (e.2.runs.filter fun d => s.has d.part d.ctx).flatMap (·.refs)) ++
    (f.eng.mx.flatMap fun e => (e.2.queue.filter fun d => s.has d.part d.ctx).flatMap (·.refs))
  let f := onEng f fun e => { e with
    cp := e.cp.map (fun x => (x.1, { x.2 with descs := x.2.descs.filter fun d => !s.has d.part d.ctx })),
    rt := e.rt.map (fun x => (x.1, { x.2 with runs := x.2.runs.filter fun d => !s.has d.part d.ctx })),
    mx := e.mx.map (fun x => (x.1, { x.2 with queue := x.2.queue.filter fun d => !s.has d.part d.ctx })) }
  dropAll k f refs die

/-- The commands of a queue retire failed as aborted, without signalling (13 R398, R400). -/
def abortQueue (k : Keel) (f : Fab) (q : Nat) : Fab :=
  match findQueue f q with
  | none => f
  | some x =>
    let f := onTab f fun t => { t with ctrs := t.ctrs.map fun c => (c.1, { c.2 with
      owait := c.2.owait.filter fun w => !(w.isQueue && w.wslot == q) }) }
    x.cmds.foldl (fun f c => retireCmd k f q c.1 0x0507 true) f

def scopeQueues (f : Fab) (s : Scope) : List Nat := (f.tab.queues.filter fun q => s.has q.2.part q.2.ctx).map (·.1)

/-! ### Epochs (13 R394, R396) -/

/-- An epoch that is due advances, where 1 ms has passed since it last did. -/
def advanceRole (k : Keel) (f : Fab) (key : Nat) : Fab :=
  onTab f fun t => { t with roles := tmod t.roles key fun e => if e.due && mayAdvance k e then e.next k else e }

/-- Epochs of a partition have still to advance: those of its engines and cores, and those of its slots that are to be released. -/
def epochsDue (f : Fab) (part : Nat) : Bool :=
  (f.tab.roles.any fun e => e.1 % 16 == part && e.2.due) || f.tab.releases.any fun r => partOfObj f r.1 r.2.1 == some part

/-- The keys of a partition's engine epochs. -/
def engineRoles (k : Keel) (part : Nat) : List Nat :=
  (List.range (12 * k.sails)).flatMap fun c => [copyRole c part, routeRole c part]

def dueAll (k : Keel) (f : Fab) (keys : List Nat) : Fab := keys.foldl (fun f x => advanceRole k (dueRole f x) x) f

/-! ### Partition reset -/

/-- A reset begins (steps 1 and 2): no queue of the partition accepts a command, its groups are killed, its work stops. `die` is that of
the queue whose command caused it, else 0. -/
def startReset (k : Keel) (f : Fab) (part code die : Nat) : Fab :=
  let f := onMem f fun m => { m with fatal := m.fatal.filter (· != part) }
  if (partRec k part).isNone then f
  else if (tfind f.tab.resets part).isSome then
    if k.sec.devStep ≠ 0 ∧ code ≠ 0x0506 then onTab f fun t => { t with resets := tmod t.resets part fun r => { r with code := code } } else f
  else
    let f := onTab f fun t => { t with resets := tput t.resets part { code := code, phase := 0, die := die } }
    let f := (scopeQueues f ⟨part, none⟩).foldl (fun f q =>
      if (findQueue f q).any (·.state == 2) then f else setQueueState k f q 1 0) f
    stopGroups k f ⟨part, none⟩

/-- The resets that lost lines have made due begin (10 R312; log 61). -/
def beginFatal (k : Keel) (f : Fab) : Fab := f.mem.fatal.foldl (fun f p => startReset k f p 0x0504 0) f

/-- Entries of a partition by which the tether die holds a line. -/
def tetherHeld (f : Fab) (part : Nat) : List DirEntry :=
  f.mem.dir.filter fun e => e.line.part == part && (e.present.getLsbD 4 || e.owner == some 4)

/-- Before a reset completes, the home takes back the lines that the tether die holds (11 R324). -/
def recallPart (k : Keel) (f : Fab) (part : Nat) : Fab :=
  ((tetherHeld f part).filter (·.txn.isNone)).foldl (fun f e => startTxn k f e.line .evict) f

/-- Before a reset completes (10 R312, 11 R324) every line of the partition is written back, if it is dirty and its parity good, and
invalidated; one whose parity is bad is counted and recorded, with no second reset (10 R313). -/
def flushPart (f : Fab) (part : Nat) : Fab :=
  let f := (f.mem.l2.filter fun c => c.line.part == part && isDirty c.st c.d).foldl (fun f c =>
    if c.flaw == .ok then homeWrite f c.line c.d else loseLine f c.die c.line) f
  onMem f fun m => { m with
    l2 := m.l2.filter (·.line.part != part), evb := m.evb.filter (·.line.part != part), dir := m.dir.filter (·.line.part != part) }

/-- No coherence transaction of the partition is under way. -/
def linesQuiet (f : Fab) (part : Nat) : Bool :=
  !(f.mem.dir.any fun e => e.line.part == part && e.txn.isSome) &&
  !(f.net.any fun m => match m.2 with
    | .home l _ | .inval l _ | .invAck l _ _ | .fwd l _ _ | .fwdNotify l _ | .wb l _ _ _ | .evict l _ | .wbAck l _ _
    | .fill l _ _ _ _ _ => l.part == part
    | .memRead loc _ _ => loc.part == part
    | _ => false)

/-- Step 4: caches, lock masks, reservations, flag sets, table loads and maintenance of the partition. -/
def clearPart (f : Fab) (part : Nat) : Fab :=
  let f := flushPart f part
  let f := onMem f fun m => { m with
    locks := m.locks.filter (fun e => e.1 % 16 != part), resv := m.resv.filter (·.loc.part != part)
    failedLane := m.failedLane.filter (fun x => x.line.part != part), refetch := m.refetch.filter (·.line.part != part)
    fatal := m.fatal.filter (· != part), lost := m.lost.filter (·.part != part) }
  let f := onCores f fun c => { c with flags := c.flags.filter fun e => e.1 % 16 != part }
  let each := fun (d : DieRegs) =>
    let d := if d.sftLoad.any (·.part == part) then { d with sftLoad := none, sftResult := 6, sftResultPart := part } else d
    if d.mrun.any (·.part == part) then { d with mrun := none, mresult := 5 } else d
  { f with dies := f.dies.map fun e => (e.1, each e.2) }

/-- 12 R367: a counter's value, errors, lists and pair declaration are cleared. -/
def Counter.clear (c : Counter) : Counter :=
  { c with value := 0, err := 0, errCount := 0, paired := false, consumer := false, partner := 0, bound := 0, partnerSeen := 0,
           cwait := [], owait := [] }

/-- Fences that a test names complete with an error attached directly (13 R391). -/
def failFences (k : Keel) (f : Fab) (p : Fence → Bool) (code die : Nat) : Fab :=
  (f.tab.fences.filter fun e => !e.2.done && p e.2).foldl (fun f e => completeFence k f e.1 2 code 0 die) f

/-- Fences that a test names have still to write their NOTIFY. -/
def notifyingAny (f : Fab) (p : Fence → Bool) : Bool := f.tab.fences.any fun e => e.2.notifying && p e.2

/-- Step 8: the partition's contexts are told. -/
def endReset (k : Keel) (f : Fab) (part : Nat) (r : PartReset) : Fab :=
  let f := onTab f fun t => { t with resets := tdel t.resets part }
  (f.tab.ctxs.filter fun c => c.2.part == part && !c.2.ref.dying).foldl (fun f c =>
    postEvent k f { mkEvent 7 part c.1 r.die with code := r.code }) f

def resetPhase (f : Fab) (part n : Nat) : Fab := onTab f fun t => { t with resets := tmod t.resets part fun r => { r with phase := n } }

/-- The end of step 6, once the TAIL of each queue has been read: HEAD and RETIRED equal it, and STATE reads open. Then steps 7 and 8, where no
epoch has to wait. -/
def openQueues (k : Keel) (f : Fab) (part : Nat) (r : PartReset) : Fab :=
  if (scopeQueues f ⟨part, none⟩).any fun q => (findQueue f q).any (·.reading) then f
  else
    let f := (scopeQueues f ⟨part, none⟩).foldl (fun f q => match findQueue f q with
      | none => f
      | some x =>
        if x.state = 2 then f
        else
          let f := modQueue f q fun x => { x with head := x.tail, retired := x.tail }
          setQueueState k (writeCount k (writeCount k f x 8 x.tail) x 16 x.tail) q 0 0) f
    let f := dueAll k f (engineRoles k part ++ (List.range (192 * k.sails)).map fun c => bindRole c part)
    if epochsDue f part then resetPhase f part 2 else endReset k f part r

/-- Steps 5 and 6: once every fence has completed, the counters are reset, and the commands retire failed; the TAILs are read. -/
def resetTables (k : Keel) (f : Fab) (part : Nat) (r : PartReset) : Fab :=
  if notifyingAny f (·.part == part) then f
  else
    let f := onTab f fun t => { t with ctrs := t.ctrs.map fun c => if c.2.owner = part then (c.1, c.2.clear) else c }
    let f := dropEntries k f ⟨part, none⟩ r.die
    let f := (scopeQueues f ⟨part, none⟩).foldl (abortQueue k) f
    let f := ((scopeQueues f ⟨part, none⟩).filter fun q => (findQueue f q).any (·.state == 1)).foldl (readTail k) f
    openQueues k (resetPhase f part 1) part r

/-- PARTITION_RESET_COMPLETE: steps 3 to 6, and steps 7 and 8 where no epoch has to wait. -/
def runResetComplete (k : Keel) (f : Fab) (part : Nat) : Fab :=
  match tfind f.tab.resets part with
  | none => f
  | some r =>
    if r.phase = 1 then openQueues k f part r
    else if r.phase ≠ 0 || !scopeQuiet f ⟨part, none⟩ then f
    else if !linesQuiet f part || !(tetherHeld f part).isEmpty then recallPart k f part
    else resetTables k (failFences k (clearPart f part) (·.part == part) r.code r.die) part r

/-! ### Teardown -/

/-- With mode 0 the context's queues have retired every command already written. -/
def drainedCtx (f : Fab) (ctx : Nat) : Bool :=
  f.tab.queues.all fun q => q.2.ctx != ctx ||
    (q.2.cmds.isEmpty && !q.2.reading && (q.2.state != 0 || (q.2.limit.isSome && decide (q.2.head ≥ q.2.tail))))

/-- Mode 0: TAIL is read once more, for the commands already written. -/
def drainQueue (k : Keel) (f : Fab) (q : Nat) : Fab :=
  match findQueue f q with
  | none => f
  | some x =>
    if x.state ≠ 0 then f
    else if x.reading then modQueue f q fun x => { x with tailRead := true }
    else readTail k f q

/-- Step 2: the context's groups are killed and its work stops. -/
def stopCtx (k : Keel) (f : Fab) (ctx part : Nat) : Fab :=
  stopGroups k (modCtx f ctx fun c => { c with ending := c.ending.map fun t => { t with stopped := true } }) ⟨part, some ctx⟩

/-- A context maps a counter. -/
def mapsCounter (f : Fab) (phys ctx : Nat) : Bool :=
  f.tab.xlate.any fun e => e.2.getLsbD 31 && e.2.toNat % 16384 == phys && e.1 / 16384 == ctx

/-- Step 5: counters of the context that another context maps record "owner lost". -/
def loseCounters (k : Keel) (f : Fab) (ctx : Nat) : Fab :=
  (f.tab.ctrs.filter fun c => c.2.ctx == ctx).foldl (fun f c =>
    if f.tab.ctxs.any fun x => x.1 != ctx && mapsCounter f c.1 x.1 then recordErr k f c.1 0x0502 deviceLast else f) f

/-- Step 6: host references, translation entries with their reservation (12 R349), and queues. -/
def releaseCtx (k : Keel) (f : Fab) (ctx : Nat) (c : Ctx) (die : Nat) : Fab :=
  let f := (c.holds ++ c.retained).foldl (fun f r => if r.1 = .queue ∨ r.1 = .context then f else dropHost k f r.1 r.2 die) f
  let f := onTab f fun t => { t with xlate := t.xlate.filter fun e => e.1 / 16384 != ctx }
  let f := (scopeQueues f ⟨c.part, some ctx⟩).foldl (fun f q => dropHost k (setQueueState k f q 2 0) .queue q die) f
  modCtx f ctx fun c => { c with holds := [], retained := [], vcount := 0 }

/-- Step 8: the shares return to the partition, the requester is told, and the context's slot is freed once no device
reference stands. -/
def endCtx (k : Keel) (f : Fab) (ctx : Nat) (c : Ctx) (t : Teardown) : Fab :=
  let f := modCtx f ctx fun c => { c with shares := [], ending := none, ref := { c.ref with host := 1 } }
  let f := dropHost k f .context ctx t.die
  postEvent k f { mkEvent 8 c.part t.requester t.die with tag := t.tag }

/-- An epoch of its partition, or that of its own slot, holds a teardown back. -/
def teardownWaits (k : Keel) (f : Fab) (ctx part : Nat) : Bool := epochsDue f part || !slotReady k f .context ctx

/-- CONTEXT_TEARDOWN_COMPLETE: steps 3 to 6, and steps 7 and 8 where no epoch has to wait. -/
def runTeardown (k : Keel) (f : Fab) (ctx : Nat) : Fab :=
  match findCtx f ctx with
  | none => f
  | some c => match c.ending with
    | none => f
    | some t =>
      if t.released || (!t.stopped && !drainedCtx f ctx) then f
      else
        let f := if t.stopped then f else stopCtx k f ctx c.part
        let s : Scope := ⟨c.part, some ctx⟩
        if !scopeQuiet f s then f
        else
          let f := dropEntries k f s t.die
          let f := (scopeQueues f s).foldl (abortQueue k) f
          let f := failFences k f (·.owner == ctx) 0x0502 t.die
          if notifyingAny f (·.owner == ctx) then f
          else
            let f := loseCounters k f ctx
            let f := releaseCtx k f ctx c t.die
            let f := dueAll k f (engineRoles k c.part ++ c.shares.map fun x => bindRole x.core c.part)
            let f := modCtx f ctx fun c => { c with ending := c.ending.map fun t => { t with released := true } }
            if teardownWaits k f ctx c.part then f else endCtx k f ctx c t

/-- The resets and teardowns whose epochs have all advanced end. -/
def endWaiting (k : Keel) (f : Fab) : Fab :=
  let f := f.tab.resets.foldl (fun f r => if r.2.phase = 2 ∧ !epochsDue f r.1 then endReset k f r.1 r.2 else f) f
  f.tab.ctxs.foldl (fun f c => match c.2.ending with
    | some t => if t.released && !teardownWaits k f c.1 c.2.part then endCtx k f c.1 c.2 t else f
    | none => f) f

/-- EPOCH_ADVANCE: the epoch advances, and with the last one the resets and teardowns that waited for it end. -/
def runEpochAdvance (k : Keel) (f : Fab) (key : Nat) : Fab := endWaiting k (settleReleases k (advanceRole k f key))

def epochKeys (f : Fab) : EpochUnit → List Nat
  | .copyEngine c p => [copyRole c p]
  | .routingEngine c p => [routeRole c p]
  | .coreBinding core => ((f.tab.roles.filter fun e => e.1 / 16 == 3 * 4096 + core && e.2.due).map (·.1))

end Sys2Proof.Machine
end

