-- ==== Sys2Proof/Machine/Program.lean ====
section
/-!
DEFINITION. Program.lean: the autonomous programs of the bound image (18 R496, R497): blobs, commands fed into the admin ring,
start blocks. Each program goes through phases: 0 to begin, 1 its blobs are written, 2 entries of the admin ring are written, 3
its TAIL is written, 4 the commands run, 5 the next start block, 6 its entries are written, 7 its queue's TAIL is written, 8 that TAIL is read.
-/
namespace Sys2Proof.Machine

/-- Writes of the keel for a program: their number is awaited. -/
def progWrite (k : Keel) (f : Fab) (p phase : Nat) (ws : List (Loc × List Byte)) : Fab :=
  let all := ws.flatMap fun w => writesOf (.program p) 0 0 w.1 (w.2.map some)
  let f := modProg f p fun x => { x with phase := phase, left := all.length }
  all.foldl (fun f w => agentWrite k f w 0) f

/-- The place of a blob, within the partition's carve-out of its kind. -/
def blobPlace (k : Keel) (f : Fab) (p : Nat) (b : Blob) : Option Loc :=
  if (b.kind = 0 ∨ b.kind = 1 ∨ b.kind = 3) ∧ b.off + b.bytes.length ≤ carveBytes k f p b.kind 0 then
    some { kind := b.kind, part := p, off := b.off, core := 0, kdata := 0, c := true }
  else none

/-- Whether a program has to wait for the tether link: it uses tether-side memory. -/
def needsLink (k : Keel) (p : Nat) (pr : Program) : Bool :=
  pr.blobs.any (·.kind == 3) || (partRec k p).any (·.adminKind == 3)

/-- Step 1: every blob is copied; the first one beyond its carve-out ends the program, and the blobs before it stay. -/
def copyBlobs (k : Keel) (f : Fab) (p : Nat) (pr : Program) : Fab :=
  match findIx (fun b => (blobPlace k f p b).isNone) pr.blobs with
  | some (i, _) =>
    failProgram k ((pr.blobs.take i).foldl (fun f b => match blobPlace k f p b with
      | some l => writeOut k f 0 .none l b.bytes
      | none => f) f) p i
  | none => progWrite k f p 1 (pr.blobs.filterMap fun b => (blobPlace k f p b).map fun l => (l, b.bytes))

/-- The places of `n` ring entries from a position on; none where the ring no longer passes the check. -/
def entryPlaces (f : Fab) (x : Queue) (pos n : Nat) : Option (List Loc) :=
  (List.range n).foldr (fun i r => match r, ringAt f x.part .store x.ring (64 + 64 * ((pos + i) % x.entries)) 64 with
    | some ls, .ok l => some (l :: ls)
    | _, _ => none) (some [])

/-- TAIL of a ring is written. -/
def progTail (k : Keel) (f : Fab) (p phase : Nat) (x : Queue) (tail : Nat) : Fab :=
  match ringAt f x.part .store x.ring 0 8 with
  | .ok l => progWrite k f p phase [(l, bytesLE 8 tail)]
  | .error _ => nextProgram f p

/-- Step 2: as many commands as the ring has room for are written from its TAIL on. -/
def feedCommands (k : Keel) (f : Fab) (p : Nat) (s : ProgState) (pr : Program) (x : Queue) : Fab :=
  let done := s.slots.length
  let tail := max x.tail ((s.slots.getLast?.map (· + 1)).getD 0)
  let n := min (pr.cmds.length - done) (x.entries - (tail - x.head))
  if n = 0 then f
  else match entryPlaces f x tail n with
    | none => failProgram k f p done
    | some ls =>
      let f := modProg f p fun s => { s with slots := s.slots ++ (List.range n).map (tail + ·) }
      progWrite k f p 2 (ls.zip ((pr.cmds.drop done).take n))

/-- Step 3: a start block is written once its queue's ring has room for it. -/
def startBlock (k : Keel) (f : Fab) (p : Nat) (s : ProgState) (b : Nat × List (List Byte)) : Fab :=
  match (findQueue f b.1).filter (·.part == p) with
  | none => failProgram k f p s.start
  | some x =>
    if b.2.length > x.entries then failProgram k f p s.start
    else if x.tail - x.head + b.2.length > x.entries then f
    else match entryPlaces f x x.tail b.2.length with
      | none => failProgram k f p s.start
      | some ls =>
        let f := modProg f p fun s => { s with slots := [x.tail + b.2.length] }
        progWrite k f p 6 (ls.zip b.2)

/-- One step of a partition's program, where it can take one. -/
def tendProgram (k : Keel) (f : Fab) (p : Nat) : Fab :=
  match tfind f.tab.progs p with
  | none => f
  | some s => match (progsOf k p)[s.at_]?, (partRec k p).bind fun r => (findQueue f r.adminQueue).map fun x => (r.adminQueue, x) with
    | some pr, some (q, x) =>
      if s.left ≠ 0 then f
      else match s.phase with
        | 0 => if needsLink k p pr && !linkUp f then f else copyBlobs k f p pr
        | 1 => modProg f p fun s => { s with phase := 4 }
        | 2 => progTail k f p 3 x ((s.slots.getLast?.map (· + 1)).getD x.tail)
        | 3 => ring k (modProg f p fun s => { s with phase := 4 }) p q
        | 4 =>
          if s.retired = pr.cmds.length then modProg f p fun s => { s with phase := 5 }
          else if x.state ≥ 2 then failProgram k f p s.retired
          else feedCommands k f p s pr x
        | 5 => match pr.starts[s.start]? with
          | none => nextProgram f p
          | some b => startBlock k f p s b
        | 6 => match (pr.starts[s.start]?).bind fun b => findQueue f b.1 with
          | none => failProgram k f p s.start
          | some y => progTail k f p 7 y ((s.slots.head?).getD y.tail)
        | 7 => ring k (modProg f p fun s => { s with phase := 8 }) p (((pr.starts[s.start]?).map (·.1)).getD 0)
        | _ =>
          let y := (pr.starts[s.start]?).bind fun b => findQueue f b.1
          if y.any fun y => y.state == 0 && decide (y.tail < (s.slots.head?).getD 0) then f
          else modProg f p fun s => { s with phase := 5, start := s.start + 1 }
    | some _, none => failProgram k f p s.slots.length
    | none, _ => f

/-- Every partition's program goes on as far as it can. -/
def tendPrograms (k : Keel) (f : Fab) : Fab :=
  if f.tab.progs.isEmpty then f
  else (List.range 96).foldl (fun f _ => (f.tab.progs.map (·.1)).foldl (fun f p => tendProgram k f p) f) f

/-- A partition has become ready: its programs begin. -/
def beginPrograms (k : Keel) (f : Fab) (p : Nat) : Fab :=
  if (progsOf k p).isEmpty then f
  else tendPrograms k (onTab f fun t => { t with progs := tput t.progs p (ProgState.start0 0 none) })

end Sys2Proof.Machine
end

