-- ==== Sys2Proof/Machine/Copy.lean ====
section
/-!
DEFINITION. Copy.lean: the arbitration of engines (14 R404), the copy engines (05 R148 to R158, R545, 07 R207 to R210, 16 R453,
R456, R457) and the delivery of finished reads.
-/
namespace Sys2Proof.Machine

/-! ### Arbitration (14 R404, R414) -/

/-- Steps from the context served last to a context, in the cyclic order of 14 R404. -/
def ctxDist (last ctx : Nat) : Nat := (ctx + 1023 - last) % 1024

/-- The step taken next: of the slot's owner, of the highest level, of the context that follows the one served last at that
level, of its oldest entry. `last` gives the context served last at a level. -/
def pickNext {α : Type} (own : α → Bool) (level ctx : α → Nat) (last : Nat → Nat) : List α → Option α
  | [] => none
  | x :: xs => match pickNext own level ctx last xs with
    | none => some x
    | some y =>
      if own x != own y then (if own x then some x else some y)
      else if level x ≠ level y then (if level x > level y then some x else some y)
      else if ctxDist (last (level x)) (ctx x) ≤ ctxDist (last (level x)) (ctx y) then some x else some y

def ownsSlot (k : Keel) (f : Fab) (die part : Nat) : Bool := slotOwner k f die == some part

/-! ### The copy descriptor (05 R149) -/

def cpInc (b : List Byte) : Nat := fld (cmdWord b 0) 48 16
def cpCid (b : List Byte) : Nat := fld (cmdWord b 0) 32 14
def cpTarget (b : List Byte) : Nat := fld (cmdWord b 0) 16 10
def cpHint (b : List Byte) : Nat := fld (cmdWord b 0) 14 2
def cpEsize (b : List Byte) : Nat := fld (cmdWord b 0) 8 3
def cpOp (b : List Byte) : Nat := fld (cmdWord b 0) 0 8
def cpSrc (b : List Byte) : Word64 := cmdAddr b 8
def cpDst (b : List Byte) : Word64 := cmdAddr b 16
def cpLen (b : List Byte) : Nat := numAt b 24 4
def cpRows (b : List Byte) : Nat := numAt b 28 4
def cpSrcStride (b : List Byte) : Nat := numAt b 32 4
def cpDstStride (b : List Byte) : Nat := numAt b 36 4
def cpAux (b : List Byte) : Word64 := cmdAddr b 40
def cpAuxCore (b : List Byte) : Nat := fld (cmdWord b 48) 32 10
def cpDstCore (b : List Byte) : Nat := fld (cmdWord b 48) 16 10
def cpSrcCore (b : List Byte) : Nat := fld (cmdWord b 48) 0 10
/-- Half bytes of an element of a transpose. -/
def cpHalves (b : List Byte) : Nat := 2 ^ cpEsize b
def cpEmpty (b : List Byte) : Bool := cpRows b == 0 || cpLen b == 0

/-- The bytes of a gather that a routing run starts (07 R223). -/
def gatherBytes (src dst aux : Word64) (rows len srcStride dstStride core auxCore : Nat) (srcLocal auxLocal : Bool) : List Byte :=
  bytesLE 8 (2 * 1 + 2 ^ 8) ++ bytesLE 8 src.toNat ++ bytesLE 8 dst.toNat ++ bytesLE 4 len ++ bytesLE 4 rows ++
  bytesLE 4 srcStride ++ bytesLE 4 dstStride ++ bytesLE 8 aux.toNat ++
  bytesLE 8 ((if auxLocal then auxCore else 0) * 2 ^ 32 + core * 2 ^ 16 + if srcLocal then core else 0) ++ zeros 8

/-- The kind of the object that an address names, where its slot passes steps 1 to 3 of 05 R130. -/
def kindAt (f : Fab) (part : Nat) (a : Word64) : Option Nat :=
  match findObj f part (slotOf a) with
  | .ok o => some o.kind
  | .error _ => none

/-- A core field is zero unless its operand is of the local-memory kind, and then names a present core. -/
def coreField (k : Keel) (f : Fab) (part : Nat) (a : Word64) (core : Nat) : Bool :=
  match kindAt f part a with
  | none => true
  | some kd => if kd = 2 then corePresent k core else core == 0

/-- Check 2 of 05 R151, but for what the sub-descriptor of an expand holds. -/
def cpFields (k : Keel) (f : Fab) (part : Nat) (b : List Byte) : Bool :=
  fld (cmdWord b 0) 46 2 == 0 && fld (cmdWord b 0) 26 6 == 0 && fld (cmdWord b 0) 11 3 == 0 && fld (cmdWord b 48) 42 22 == 0 &&
  fld (cmdWord b 48) 26 6 == 0 && fld (cmdWord b 48) 10 6 == 0 && cmdWord b 56 == 0 &&
  decide (cpOp b ≤ 3) && decide (cpEsize b ≤ 4) && decide (cpHint b ≤ 2) && (cpOp b == 1 || cpEsize b == 1) &&
  (!(cpOp b == 1 && cpEsize b == 0) || (cpRows b % 2 == 0 && cpLen b % 2 == 0)) &&
  (if cpHint b = 0 then cpTarget b == 0 else if cpHint b = 1 then decide (cpTarget b < 48 * k.sails) else corePresent k (cpTarget b)) &&
  (kindAt f part (cpDst b) != some 2 || cpHint b == 0) &&
  coreField k f part (cpSrc b) (cpSrcCore b) && coreField k f part (cpDst b) (cpDstCore b) &&
  (if cpOp b ≤ 1 then cpAux b == 0 && cpAuxCore b == 0
   else if cpOp b = 2 then coreField k f part (cpAux b) (cpAuxCore b)
   else cpSrcStride b == 0 && cpDstStride b % 512 == 0 && (kindAt f part (cpAux b) != some 2 || corePresent k (cpAuxCore b)))

/-- Steps 1 to 5 of 05 R130 for an operand of an engine, with the bytes of the object from the address on. A dying object takes
no new reference (13 R374), and a door is named by no descriptor (16 R454). -/
def operand (f : Fab) (part core : Nat) (u : Use) (a : Word64) (align : Nat) : Except Nat (Loc × Nat) :=
  match findObj f part (slotOf a) with
  | .error e => .error e
  | .ok o =>
    if o.ref.dying then .error 0x0202
    else if !Use.allowed o u ∨ o.isDoor then .error 0x0203
    else if offOf a % align ≠ 0 then .error 0x0204
    else if o.kind = 2 then
      match shareOf f o core with
      | none => .ok ({ noLoc with kind := 2, core := core, part := part }, 0)
      | some sh => .ok ({ kind := 2, part := part, off := sh.first * 16384 + o.base + offOf a, core := core, kdata := 0, c := false },
          min (o.len - offOf a) (sh.units * 16384 - o.base - offOf a))
    else .ok ({ kind := o.kind, part := part, off := o.base + offOf a, core := 0, kdata := o.kdata, c := o.c }, o.len - offOf a)

def shift (l : Loc) (n : Nat) : Loc := { l with off := l.off + n }

/-! ### The expand sub-descriptor (07 R208) -/

def exWcode (s : List Byte) : Nat := fld (cmdWord s 0) 20 4
def exIn (s : List Byte) : Nat := fld (cmdWord s 0) 18 2
def exOut (s : List Byte) : Nat := fld (cmdWord s 0) 16 2
def exKt (s : List Byte) : Nat := 64 * (1 + fld (cmdWord s 0) 15 1)
def exInMeta (s : List Byte) : Word64 := cmdAddr s 8
def exOutMeta (s : List Byte) : Word64 := cmdAddr s 16
def exWidth (s : List Byte) : Nat := match exWcode s with | 0 => 4 | 1 => 6 | 2 => 8 | 3 => 16 | _ => 32

def exFields (k : Keel) (f : Fab) (part : Nat) (b s : List Byte) : Bool :=
  fld (cmdWord s 0) 24 40 == 0 && fld (cmdWord s 0) 0 15 == 0 && cmdWord s 24 == 0 && decide (exWcode s ≤ 4) && decide (exIn s ≤ 1) &&
  decide (exOut s ≤ 1) && (exOut s == 1 || exOutMeta s == 0) &&
  (let local_ := [cpAux b, exInMeta s, exOutMeta s].any fun a => kindAt f part a == some 2
   if local_ then corePresent k (cpAuxCore b) else cpAuxCore b == 0)

/-- Row groups and panels of an expand, and the bytes of its metadata. -/
def exGroups (b : List Byte) : Nat := ceilDiv (cpRows b) 64
def exPanels (b s : List Byte) : Nat := ceilDiv (cpLen b) (exKt s)
def exMetaLen (b s : List Byte) : Nat :=
  if exIn s = 0 then exGroups b * exPanels b s * 8 else exGroups b * bitmapRow (cpLen b)
/-- Bytes of a panel row. -/
def exP (s : List Byte) : Nat := exKt s * exWidth s / 8

/-- The packed tiles before tile (t, j), in the order of 07 R209. -/
def packedBefore (bm : List Byte) (b : List Byte) (t j : Nat) : Nat :=
  ((List.range j).map fun j' => ((List.range (exGroups b)).filter fun t' => bitmapBit bm (cpLen b) t' j').length).sum +
  ((List.range t).filter fun t' => bitmapBit bm (cpLen b) t' j).length

/-- The fifth check of 07 R210 on the metadata: zero where it passes. -/
def exCheck (d : CpDesc) (s m : List Byte) : Nat :=
  let b := d.bytes
  let tiles := exGroups b * exPanels b s
  let extent := if exIn s = 0 then
      (List.range tiles).findSome? fun i =>
        let e := numAt m (8 * i) 8
        if fld e 16 16 ≠ 0 ∨ fld e 32 32 % 32 ≠ 0 then some 0x0302
        else if fld e 32 32 + ceilDiv (fld e 0 16 * (exWidth s + 6)) 8 > d.room then some 0x0205 else none
    else
      let n := packedBefore m b 0 (ceilDiv (cpLen b) 64)
      if n * 512 * exWidth s > d.room then some 0x0205 else none
  match extent with
  | some e => e
  | none => if exOut s = 1 ∧ exGroups b * bitmapRow (cpLen b) > d.outRoom then 0x0205 else 0

/-! ### Elements -/

/-- Elements of `halves` half bytes each. -/
def unpack (halves : Nat) (bs : List Byte) (n : Nat) : List Nat :=
  (List.range n).map fun i => if halves = 1 then (numAt bs (i / 2) 1) / 2 ^ (4 * (i % 2)) % 16 else numAt bs (i * halves / 2) (halves / 2)

def pairs4 : List Nat → List Byte
  | a :: b :: xs => BitVec.ofNat 8 (a + 16 * b) :: pairs4 xs
  | [a] => [BitVec.ofNat 8 a]
  | [] => []

def pack (halves : Nat) (xs : List Nat) : List Byte := if halves = 1 then pairs4 xs else xs.flatMap (bytesLE (halves / 2))

/-- Fields of `w` bits packed from bit 0 on, little-endian. -/
def bitsAt (bs : List Byte) (at_ w : Nat) : Nat := fld (numAt bs (at_ / 8) (w / 8 + 2)) (at_ % 8) w

def packBits (w : Nat) (xs : List Nat) : Nat := xs.foldr (fun x n => x % 2 ^ w + 2 ^ w * n) 0

/-- A tile stream decoded (07 R202, R205): the value of each position, none where it is zero-filled. -/
def decodeStream (w size : Nat) (bs : List Byte) (count : Nat) : Option (List (Option Nat)) :=
  let r := (List.range count).foldl (fun (st : Option (Nat × Table Nat)) i => st.bind fun (p, t) =>
    let rec_ := bitsAt bs (i * (w + 6)) (w + 6)
    let gap := rec_ % 64
    let v := rec_ / 64
    if gap = 63 then (if v ≠ 0 ∨ p + 63 > size then none else some (p + 63, t))
    else if p + gap ≥ size then none else some (p + gap + 1, tput t (p + gap) v)) (some (0, []))
  r.map fun x => (List.range size).map fun p => tfind x.2 p

/-! ### Steps (14 R403) -/

/-- Bytes of one tile of a step: 64 by 64 elements of a transpose, or an expand's output tile. -/
def cpTile (d : CpDesc) : Nat := if cpOp d.bytes = 1 then 2048 * cpHalves d.bytes else 64 * exP d.auxBytes

def cpTiles (d : CpDesc) : Nat :=
  if cpOp d.bytes = 1 then ceilDiv (cpRows d.bytes) 64 * ceilDiv (cpLen d.bytes) 64
  else exGroups d.bytes * exPanels d.bytes d.auxBytes

def tilesPerStep (d : CpDesc) : Nat := max 1 (65536 / cpTile d)

def cpSteps (d : CpDesc) : Nat :=
  if cpEmpty d.bytes then 0
  else if cpOp d.bytes = 0 ∨ cpOp d.bytes = 2 then ceilDiv (cpRows d.bytes * cpLen d.bytes) 65536
  else ceilDiv (cpTiles d) (tilesPerStep d)

/-- The pieces of rows in bytes `lo` to `hi` of rows laid end to end: row, first byte, length. -/
def rowSegs (len lo hi : Nat) : List (Nat × Nat × Nat) :=
  (List.range (ceilDiv hi len - lo / len)).map fun i =>
    let r := lo / len + i
    let a := lo - r * len
    (r, a, min (hi - r * len) len - a)

def stepSegs (d : CpDesc) (s : Nat) : List (Nat × Nat × Nat) :=
  rowSegs (cpLen d.bytes) (65536 * s) (min (65536 * (s + 1)) (cpRows d.bytes * cpLen d.bytes))

def stepTiles (d : CpDesc) (s : Nat) : List Nat :=
  (List.range (min (tilesPerStep d) (cpTiles d - s * tilesPerStep d))).map (s * tilesPerStep d + ·)

/-- Rows and columns of a transpose's tile: first row, rows, first column, columns. -/
def tileBox (d : CpDesc) (t : Nat) : Nat × Nat × Nat × Nat :=
  let across := ceilDiv (cpLen d.bytes) 64
  let r := t / across * 64
  let c := t % across * 64
  (r, min 64 (cpRows d.bytes - r), c, min 64 (cpLen d.bytes - c))

/-- An expand's tile: row group and panel. -/
def exTile (d : CpDesc) (t : Nat) : Nat × Nat := (t % exGroups d.bytes, t / exGroups d.bytes)

/-- The source pieces of a stream or of the packed tiles of an output tile: offset from SRC and bytes. -/
def exReads (d : CpDesc) (t : Nat) : List (Nat × Nat) :=
  let (g, p) := exTile d t
  let s := d.auxBytes
  let m := s.drop 32
  if exIn s = 0 then
    let e := numAt m (8 * t) 8
    if fld e 0 16 = 0 then [] else [(fld e 32 32, ceilDiv (fld e 0 16 * (exWidth s + 6)) 8)]
  else
    ((List.range (exKt s / 64)).map (p * (exKt s / 64) + ·)).filterMap fun j =>
      if j < ceilDiv (cpLen d.bytes) 64 ∧ bitmapBit m (cpLen d.bytes) g j then
        some (packedBefore m d.bytes g j * 512 * exWidth s, 512 * exWidth s) else none

/-- The rows of a gather that begin in a step: their indices are read then, the second time (05 R545). -/
def stepRows (d : CpDesc) (s : Nat) : List Nat := ((stepSegs d s).filter (·.2.1 == 0)).map (·.1)

/-- The pieces that a step reads: offset from SRC and bytes. -/
def stepReads (d : CpDesc) (s : Nat) : List (Nat × Nat) :=
  let b := d.bytes
  match cpOp b with
  | 0 => (stepSegs d s).map fun x => (x.1 * cpSrcStride b + x.2.1, x.2.2)
  | 1 => (stepTiles d s).flatMap fun t =>
      let (r, nr, c, nc) := tileBox d t
      (List.range nr).map fun i => ((r + i) * cpSrcStride b + c * cpHalves b / 2, nc * cpHalves b / 2)
  | 2 => (stepSegs d s).map fun x => (tgetD d.index x.1 0 * cpSrcStride b + x.2.1, x.2.2)
  | _ => (stepTiles d s).flatMap (exReads d)

/-- The values of an output tile of an expand by position (64 rows of Kt), from the bytes read for it; none on an error of
07 R205. Positions beyond the operand stay absent. -/
def exValues (d : CpDesc) (t : Nat) (bs : List Byte) : Option (List (Option Nat)) :=
  let s := d.auxBytes
  let m := s.drop 32
  let (g, p) := exTile d t
  let w := exWidth s
  let kt := exKt s
  let inside := fun (pos : Nat) => decide (64 * g + pos / kt < cpRows d.bytes) && decide (kt * p + pos % kt < cpLen d.bytes)
  let vals := if exIn s = 0 then decodeStream w (64 * kt) bs (fld (numAt m (8 * t) 8) 0 16)
    else
      let js := ((List.range (kt / 64)).map (p * (kt / 64) + ·)).filter fun j =>
        decide (j < ceilDiv (cpLen d.bytes) 64) && bitmapBit m (cpLen d.bytes) g j
      some ((List.range (64 * kt)).map fun pos =>
        let j := p * (kt / 64) + pos % kt / 64
        match findIx (· == j) js with
        | none => none
        | some (n, _) => some (bitsAt bs (n * 4096 * w + (pos / kt * 64 + pos % 64) * w) w))
  vals.map fun v => v.mapIdx fun pos x => if inside pos then x else none

/-- The writes of an output tile: offset from DST and bytes; and the 64 by 64 tiles found present. -/
def exWrites (d : CpDesc) (t : Nat) (v : List (Option Nat)) : List (Nat × List Byte) × List Nat :=
  let s := d.auxBytes
  let (g, p) := exTile d t
  let w := exWidth s
  let kt := exKt s
  let rows := min 64 (cpRows d.bytes - 64 * g)
  let present := (List.range (kt / 64)).filter fun h =>
    if exIn s = 1 then decide (p * (kt / 64) + h < ceilDiv (cpLen d.bytes) 64) && bitmapBit (s.drop 32) (cpLen d.bytes) g (p * (kt / 64) + h)
    else (List.range 4096).any fun i => ((v[i / 64 * kt + 64 * h + i % 64]?).getD none).isSome
  let row := fun (r c n : Nat) =>
    bytesLE (n * w / 8) (packBits w ((List.range n).map fun i => (((v[r * kt + c + i]?).getD none)).getD 0))
  let at_ := fun (r : Nat) => p * cpDstStride d.bytes + (64 * g + r) * exP s
  let writes := if exOut s = 0 then (List.range rows).map fun r => (at_ r, row r 0 kt)
    else present.flatMap fun h => (List.range rows).map fun r => (at_ r + 64 * h * w / 8, row r (64 * h) 64)
  (writes, present.map fun h => g * ceilDiv (cpLen d.bytes) 64 + (p * (kt / 64) + h))

/-- Cut the data of a step's reads into the pieces in order. -/
def cutPieces : List Nat → List Byte → List (List Byte)
  | [], _ => []
  | n :: ns, bs => bs.take n :: cutPieces ns (bs.drop n)

/-- What a step writes, from the data it read: (offset from DST, bytes) and tiles found present; none on a metadata error. -/
def stepWrites (d : CpDesc) (s : Nat) (data : List Byte) : Option (List (Nat × List Byte) × List Nat) :=
  let b := d.bytes
  match cpOp b with
  | 0 | 2 =>
    let segs := stepSegs d s
    some ((segs.zip (cutPieces (segs.map (·.2.2)) data)).map fun (x, bs) => (x.1 * cpDstStride b + x.2.1, bs), [])
  | 1 =>
    let ts := stepTiles d s
    let sizes := ts.map fun t => let (_, nr, _, nc) := tileBox d t; nr * (nc * cpHalves b / 2)
    some ((ts.zip (cutPieces sizes data)).flatMap (fun (t, bs) =>
      let (r, nr, c, nc) := tileBox d t
      let row := nc * cpHalves b / 2
      let els := (List.range nr).map fun i => unpack (cpHalves b) (slice bs (i * row) row) nc
      (List.range nc).map fun j =>
        ((c + j) * cpDstStride b + r * cpHalves b / 2, pack (cpHalves b) (els.map fun e => e.getD j 0))), [])
  | _ =>
    let ts := stepTiles d s
    let sizes := ts.map fun t => ((exReads d t).map (·.2)).sum
    (ts.zip (cutPieces sizes data)).foldl (fun (r : Option (List (Nat × List Byte) × List Nat)) (x : Nat × List Byte) =>
      r.bind fun (ws, ps) => (exValues d x.1 x.2).map fun v =>
        let (w, p) := exWrites d x.1 v
        (ws ++ w, ps ++ p)) (some ([], []))

/-! ### The engine's entries -/

def modDesc (f : Fab) (cluster id : Nat) (g : CpDesc → CpDesc) : Fab :=
  onEng f fun e => { e with cp := tmod e.cp cluster fun a => { a with descs := a.descs.map fun d => if d.id = id then g d else d } }

def findDesc (f : Fab) (cluster id : Nat) : Option CpDesc :=
  (tfind f.eng.cp cluster).bind fun a => a.descs.find? (·.id == id)

def engDie (cluster : Nat) : Nat := cluster / 12

/-- The gathers of a routing run that wait enter the copy engine of the cluster while the run has fewer than 16 there
(07 R223); those of a run that has failed start no more (07 R229). -/
def pumpGathers (f : Fab) (cluster run : Nat) : Fab :=
  match ((tfind f.eng.rt cluster).bind fun e => e.runs.find? (·.id == run)) with
  | none => f
  | some r =>
    let room := if r.fault ≠ 0 then 0 else 16 - (r.gathers.map (fun (g : Nat × Nat) => g.2)).sum
    (r.gwait.take room).foldl (fun f (g : Nat × List Byte) =>
      let id := f.nextId
      let d := CpDesc.fresh id (.routing cluster run g.1) r.ctx r.part r.level r.addr g.2 r.core r.stamp
      let f := onEng { f with nextId := id + 1 } fun e => { e with cp := tupd e.cp cluster CopyEng.fresh fun a => { a with descs := a.descs ++ [d] } }
      modRoutingRun f cluster run fun x => { x with
        gwait := x.gwait.drop 1, gathers := x.gathers.map fun y => if y.1 = g.1 then (y.1, y.2 + 1) else y }) f

/-- The entry leaves the engine; its references are dropped, and the routing run that started it is told. Descriptors that were in flight with it
remember what it wrote. -/
def leaveCopy (k : Keel) (f : Fab) (cluster : Nat) (d : CpDesc) : Fab :=
  let told := fun (y : CpDesc) => if y.accepted then { y with spoilt := y.spoilt ++ d.wrote } else y
  let f := onEng f fun e => { e with cp := (tmod e.cp cluster fun a => { a with
    descs := a.descs.filter (·.id != d.id), cur := if a.cur = some d.id then none else a.cur }).map fun a =>
      (a.1, { a.2 with descs := if d.accepted then a.2.descs.map told else a.2.descs }) }
  let f := dropAll k f d.refs (srcDie f d.src)
  match d.src with
  | .routing c r e => pumpGathers (modRoutingRun f c r fun x => { x with
      gathers := x.gathers.map (fun g => if g.1 = e then (e, g.2 - 1) else g), fault := if x.fault = 0 then d.fault else x.fault }) c r
  | _ => f

/-- The bytes of a destination extent become free values (05 R156, log 18), in memory and in every copy of its lines. -/
def scramble (f : Fab) (l : Loc) (n : Nat) : Fab :=
  let bs := (freeBytes f.free n).map some
  let f := spend f n
  if l.kind = 2 then onMem f fun m => locPoke m l.core l.off bs
  else if l.kind ≤ 1 then
    let touch := fun (line : Line) (d : LineData) =>
      if line.kind = l.kind ∧ line.part = l.part then
        { d with bytes := d.bytes.mapIdx fun i b =>
            let x := line.idx * 128 + i
            if l.off ≤ x ∧ x < l.off + n then ((bs[x - l.off]?).getD none).getD b else b }
      else d
    onMem f fun m =>
      let m := { m with l2 := m.l2.map (fun (c : L2Copy) => { c with d := touch c.line c.d }), evb := m.evb.map fun (e : Evicting) => { e with d := touch e.line e.d } }
      if l.kind = 0 then { m with nm := writeCells m.nm (cellKey l.part l.off) bs } else { m with lpd := writeCells m.lpd (cellKey l.part l.off) bs }
  else f

/-- The bytes that two extents have in common, where they lie in one memory. -/
def inCommon (a : Loc × Nat) (b : Loc × Nat) : List (Loc × Nat) :=
  let lo := max a.1.off b.1.off
  let hi := min (a.1.off + a.2) (b.1.off + b.2)
  if a.1.kind = b.1.kind ∧ a.1.kind ≤ 2 ∧ a.1.part = b.1.part ∧ a.1.core = b.1.core ∧ lo < hi then [({ a.1 with off := lo }, hi - lo)] else []

def allCommon (xs ys : List (Loc × Nat)) : List (Loc × Nat) := xs.flatMap fun a => ys.flatMap fun b => inCommon a b

/-- Bytes that overlapping extents leave unspecified (07 R228; log 18). -/
def spoil (f : Fab) (es : List (Loc × Nat)) : Fab := es.foldl (fun f e => scramble f e.1 e.2) f

/-- Bytes of the destination extent (05 R151 check 4). -/
def dstExtent (d : CpDesc) : Nat :=
  let b := d.bytes
  match cpOp b with
  | 1 => (cpLen b - 1) * cpDstStride b + cpRows b * cpHalves b / 2
  | 3 => (exPanels b d.auxBytes - 1) * cpDstStride b + cpRows b * exP d.auxBytes
  | _ => (cpRows b - 1) * cpDstStride b + cpLen b

/-- The source extent of a copy or a transpose (05 R151 check 4); that of a gather or an expand depends on what it reads, and
counts as none here. -/
def srcExtent (d : CpDesc) : Nat :=
  let b := d.bytes
  match cpOp b with
  | 0 => (cpRows b - 1) * cpSrcStride b + cpLen b
  | 1 => (cpRows b - 1) * cpSrcStride b + cpLen b * cpHalves b / 2
  | _ => 0

/-- A failure is recorded on the completion counter and a fault event is posted to the issuing context, for a command's descriptor as for
a group's (05 R154, 13 R385). -/
def recordCopy (k : Keel) (f : Fab) (cluster : Nat) (d : CpDesc) (code : Nat) : Fab :=
  match d.src with
  | .routing .. => f
  | _ => engineFault k f 3 cluster d.part d.ctx (engDie cluster) (cpCid d.bytes) code d.addr

/-- A check of 05 R151 has failed: no byte moves. A command also retires failed with the code (13 R384). -/
def refuseCopy (k : Keel) (f : Fab) (cluster : Nat) (d : CpDesc) (code : Nat) : Fab :=
  let f := recordCopy k f cluster d code
  let f := match d.src with
    | .command q j => actCmd f q j code
    | _ => f
  leaveCopy k f cluster { d with fault := code }

/-- A failure after the checks (05 R156): no further write, no INC. -/
def stopCopy (k : Keel) (f : Fab) (cluster : Nat) (d : CpDesc) (code : Nat) : Fab :=
  if d.fault ≠ 0 then f
  else
    recordCopy k (modDesc f cluster d.id fun d => { d with fault := code }) cluster d code

/-- The descriptor ends once nothing of it is outstanding: a stopped one leaves its destination free, a complete one adds INC
(05 R155), stamped with the engine's epoch (13 R395). -/
def endCopy (k : Keel) (f : Fab) (cluster id : Nat) : Fab :=
  match findDesc f cluster id with
  | none => f
  | some d =>
    if !d.accepted || d.readsOut ≠ 0 || d.writesOut ≠ 0 || !d.src.runs f then f
    else if d.fault ≠ 0 then
      let f := scramble f d.dest (dstExtent d)
      let f := match d.src with
        | .command q j => actCmd f q j d.fault
        | _ => f
      leaveCopy k f cluster d
    else if d.step < cpSteps d then f
    else
      let last := unitLast 3 d.ctx cluster
      let stamp := some (copyRole cluster d.part, d.stamp)
      let f := match d.src with
        | .group _ => sendCnt f d.phys .add (cpInc d.bytes) last .none stamp
        | .command q j => sendCnt f d.phys .add (cpInc d.bytes) last (.command q j) stamp
        | .routing .. => f
      leaveCopy k f cluster d

/-! ### Transfers to a peer (16 R453, R456, R457) -/

/-- Frames of a transfer: each write in pieces of up to 512 bytes. -/
def cutFrames (k : Keel) (part hint target : Nat) (kdata : Word64) (xfer : Nat) : (fuel : Nat) → (off : Nat) → List Byte → List Frame
  | 0, _, _ => []
  | fuel + 1, off, bs =>
    if bs.isEmpty then []
    else
      let p := bs.take 512
      reqFrame k 0x05 part hint target kdata off p.length (xfer * 2 ^ 32) 0 0 p ::
        cutFrames k part hint target kdata xfer fuel (off + 512) (bs.drop 512)

def xendFrame (k : Keel) (part : Nat) (kdata : Word64) (xfer count : Nat) (sig : Option (Nat × Nat)) : Frame :=
  reqFrame k 0x06 part 0 0 kdata 0 0 (xfer * 2 ^ 32)
    (match sig with | some (cid, n) => n * 2 ^ 32 + 2 ^ 15 + cid | none => 0) (count * 2 ^ 32) []

/-- Transfers open on a route. -/
def openXfers (f : Fab) (port route : Nat) : Nat :=
  ((portOf f port).outst.filter fun e => e.2.route == route && (match e.2.what with
    | .xferCopy .. | .xferRoute .. => true
    | _ => false)).length

inductive XferOut where
  | wait
  | sent (f : Fab)
  | failed (code : Nat)

/-- Send one transfer: it holds one outstanding entry from its first frame, and waits while the route has 512 open or the port
has no free entry. -/
def sendXfer (k : Keel) (f : Fab) (part hint target : Nat) (loc : Loc) (writes : List (Nat × List Byte)) (sig : Option (Nat × Nat))
    (what : OutWhat) : XferOut :=
  match routeOf k (fld loc.kdata.toNat 0 32) with
  | none => .failed 0x0501
  | some (r, e) =>
    if (routeSt f r).down then .failed 0x0501
    else
      let port := entryPort e
      match freeEntry (portOf f port) with
      | none => .wait
      | some t =>
        if openXfers f port r ≥ 512 then .wait
        else
          let f := if (outstanding f port r).isEmpty then restartTimer k f r else f
          let f := modPort f port fun p => { p with outst := tput p.outst t { route := r, what := what } }
          let frames := writes.flatMap fun w => cutFrames k part hint target loc.kdata t (w.2.length / 512 + 2) (loc.off + w.1) w.2
          let f := frames.foldl (fun f x => enqueue k f port (x.withTag t)) f
          .sent (enqueue k f port ((xendFrame k part loc.kdata t frames.length sig).withTag t))

/-! ### Writes of a step -/

/-- What an engine writes to an extent: where it has itself written a byte, or a descriptor in flight with it has, it is open whose value the byte
keeps (05 R157; log 18). -/
def openWrite (f : Fab) (cluster id : Nat) (loc : Loc) (bs : List Byte) : Fab × List (Option Byte) :=
  let written := (f.eng.cp.flatMap (·.2.descs)).flatMap (fun e => if e.accepted then e.wrote else []) ++
    ((findDesc f cluster id).map (·.spoilt)).getD []
  let met := allCommon written [(loc, bs.length)]
  if met.isEmpty then (f, bs.map some)
  else (spend f bs.length, bs.mapIdx fun i b =>
    if met.any (fun e => decide (e.1.off ≤ loc.off + i) && decide (loc.off + i < e.1.off + e.2)) && (Config.freeWord (f.free + i)).getLsbD 0
      then none else some b)

/-- Writes of an engine to an object's memory, requests at the engine's port (10 R307); those to local memory whose stamp, or that of its core
(`bound`), has gone stale are dropped and counted (13 R395). -/
def engineWrite (k : Keel) (f : Fab) (die : Nat) (d : CpDesc) (cluster slot bound : Nat) (loc : Loc) (bs : List Byte) : Fab :=
  let stale := loc.kind = 2 ∧ (roleOf f (copyRole cluster d.part) ≠ d.stamp ∨ roleOf f (bindRole loc.core d.part) ≠ bound)
  if stale then roleDrop f (dieOfCore loc.core) d.part 1
  else
    let (f, row) := openWrite f cluster d.id loc bs
    let ws := writesOf (.copy cluster d.id) (cpHint d.bytes) (cpTarget d.bytes) loc row
    let f := modDesc f cluster d.id fun d => { d with writesOut := d.writesOut + ws.length, wrote := d.wrote ++ [(loc, bs.length)] }
    let f := wideBeats (trainOn k f (copyPort cluster) slot (ws.map (·.loc))) (ws.map fun w => (w.loc, w.bytes.length))
    ws.foldl (fun f w => agentWrite k f w die) f

/-- The bitmap that an expand writes at OUT_META after its last step (07 R209). -/
def outBitmap (d : CpDesc) : List Byte :=
  let nb := ceilDiv (cpLen d.bytes) 64
  (List.range (exGroups d.bytes)).flatMap fun t => (List.range (bitmapRow (cpLen d.bytes))).map fun i =>
    BitVec.ofNat 8 (((List.range 8).map fun j => if 8 * i + j < nb ∧ d.marks.contains (t * nb + 8 * i + j) then 2 ^ j else 0).sum)

/-- An expand with an output bitmap writes it after its last step. -/
def writeBitmap (k : Keel) (f : Fab) (cluster id : Nat) : Fab :=
  match findDesc f cluster id with
  | none => f
  | some d =>
    if d.fault == 0 && cpOp d.bytes = 3 && exOut d.auxBytes == 1 && d.step == cpSteps d && d.readsOut == 0 then
      engineWrite k f (engDie cluster) d cluster (slotOf (exOutMeta d.auxBytes)) d.metaStamp d.outMeta (outBitmap d)
    else f

/-- The data of a step has arrived: none where its transfer must wait. -/
def stepData (k : Keel) (f : Fab) (cluster : Nat) (d : CpDesc) (s : Nat) (data : List Byte) : Option Fab :=
  let done := fun f => modDesc f cluster d.id fun d => { d with readsOut := d.readsOut - 1 }
  match stepWrites d s data with
  | none => some (endCopy k (stopCopy k (done f) cluster d 0x0302) cluster d.id)
  | some (ws, ps) =>
    let marked := fun f => modDesc f cluster d.id fun d => { d with marks := d.marks ++ ps }
    let finish := fun f => some (endCopy k (writeBitmap k (marked f) cluster d.id) cluster d.id)
    if d.dest.kind = 4 then
      if ws.isEmpty then finish (done f)
      else match sendXfer k f d.part (cpHint d.bytes) (cpTarget d.bytes) d.dest ws none (.xferCopy cluster d.id) with
        | .wait => none
        | .failed code => some (endCopy k (stopCopy k (done f) cluster d code) cluster d.id)
        | .sent f => finish (modDesc (done f) cluster d.id fun d => { d with writesOut := d.writesOut + 1 })
    else finish (ws.foldl (fun f w => engineWrite k f (engDie cluster) d cluster (slotOf (cpDst d.bytes)) d.dstStamp (shift d.dest w.1) w.2) (done f))

/-- The code of a read's sink: phase 0 is a step's data, 1 the index list of a gather step, 2 what acceptance reads. -/
def sinkStep (s phase : Nat) : Nat := 4 * s + phase

/-- Read pieces at offsets from a place in an object, as one read. -/
def readPieces (k : Keel) (f : Fab) (cluster : Nat) (d : CpDesc) (code slot : Nat) (base : Loc) (ps : List (Nat × Nat)) : Fab :=
  let f := modDesc f cluster d.id fun d => { d with readsOut := d.readsOut + 1 }
  let parts := ps.flatMap fun p => partsOf (shift base p.1) p.2
  startRead k (trainOn k f (copyPort cluster) slot (parts.map (·.loc))) (.copy cluster d.id code) parts (engDie cluster)

/-- Indices of a gather's second reading have arrived (05 R545): each is checked. -/
def indexData (k : Keel) (f : Fab) (cluster : Nat) (d : CpDesc) (s : Nat) (bs : List Byte) : Fab :=
  let read := (stepRows d s).mapIdx fun i r => (r, numAt bs (4 * i) 4)
  let f := modDesc f cluster d.id fun x => { x with
    readsOut := x.readsOut - 1, index := read.foldl (fun t x => tput t x.1 x.2) x.index }
  if read.any fun x => x.2 * cpSrcStride d.bytes + cpLen d.bytes > d.room then
    endCopy k (stopCopy k f cluster d 0x0205) cluster d.id
  else f

/-- The indices of a gather's step are there. -/
def indexed (d : CpDesc) : Bool := cpOp d.bytes != 2 || (stepSegs d d.step).all fun x => (tfind d.index x.1).isSome

/-- Data arrives for a copy engine; none where a transfer must wait. -/
def copyData (k : Keel) (f : Fab) (cluster id code : Nat) (j : ReadJob) : Option Fab :=
  match findDesc f cluster id with
  | none => some f
  | some d =>
    let less := fun f => modDesc f cluster id fun d => { d with readsOut := d.readsOut - 1 }
    if code % 4 = 2 then
      some (modDesc (less f) cluster id fun d => { d with auxBytes := d.auxBytes ++ j.bytes, fault := if d.fault = 0 then j.fault else d.fault })
    else if d.fault ≠ 0 then some (endCopy k (less f) cluster id)
    else if j.fault ≠ 0 then some (endCopy k (stopCopy k (less f) cluster d j.fault) cluster id)
    else if code % 4 = 1 then some (indexData k f cluster d (code / 4) j.bytes)
    else stepData k f cluster d (code / 4) j.bytes

/-! ### Finished reads -/

/-- Deliver the data of finished reads. A read whose step waits for a transfer stays. -/
def settleOne (k : Keel) (f : Fab) (id : Nat) : Fab :=
  match tfind f.jobs id with
  | none => f
  | some j =>
    if !j.complete then f
    else
      let gone := { f with jobs := tdel f.jobs id }
      match j.sink with
      | .tail q => send gone (.tailData q (leNat j.bytes) j.fault)
      | .command q n => send gone (.cmdData q n j.bytes j.fault)
      | .evRead ctx => eventReadDone k gone ctx j
      | .maint die l =>
        let f := if j.fault = 0 then homeWrite gone l { bytes := j.bytes, valid := 0xF, dirty := 0xF, poison := 0 } else gone
        if (dieRegs f die).mrun.any (·.op == 3) then send f (.inval l 4) else f
      | .sft die id => modDie gone die fun d =>
          let each := fun (l : SftLoad) =>
            if l.id = id then { l with image := j.bytes, got := true, fault := if l.fault = 0 ∧ j.fault ≠ 0 then 3 else l.fault } else l
          { d with sftLoad := d.sftLoad.map each }
      | .route c r code => modRoutingRun gone c r fun x => { x with
          readsOut := x.readsOut - 1, inbox := tput x.inbox code j.bytes, fault := if x.fault = 0 then j.fault else x.fault }
      | .copy c d code => (copyData k gone c d code j).getD f
      | .dma att tag => match tfind f.link.dma (att * 4096 + tag) with
        | none => gone
        | some d => if j.fault = 0 then respond gone att d.f 0x83 0 0 0 0 j.bytes else refuseReq gone att d.f 0x83 2 j.fault
      | .glinen _ req => sendResponse k gone (respFrame k 0x82 req (if j.fault = 0 then 0 else 1) j.fault (if j.fault = 0 then j.bytes else []))

/-- Resets that are due begin, releases and what waits for them go on where the epochs allow it, reads that are complete deliver their data, and the autonomous programs go on. -/
def settle (k : Keel) (f : Fab) : Fab :=
  let f := endWaiting k (settleReleases k (beginFatal k f))
  let once := fun (f : Fab) => ((f.jobs.filter (·.2.complete)).map (·.1)).foldl (settleOne k) f
  once (tendPrograms k (once (once f)))

/-! ### Acceptance (05 R151, 07 R210) -/

/-- The operands of check 3. -/
structure CpOperands where
  source : Loc
  room : Nat
  dest : Loc
  dstRoom : Nat
  aux : Loc
  auxRoom : Nat
  deriving DecidableEq, Repr

/-- Check 3. The sub-descriptor of an expand has been found before (07 R210). -/
def cpOperands (f : Fab) (d : CpDesc) : Except Nat CpOperands :=
  let b := d.bytes
  match operand f d.part (cpSrcCore b) .load (cpSrc b) 1 with
  | .error e => .error e
  | .ok (s, sr) => match operand f d.part (cpDstCore b) .store (cpDst b) 1 with
    | .error e => .error e
    | .ok (t, tr) =>
      if cpOp b ≤ 1 then .ok { source := s, room := sr, dest := t, dstRoom := tr, aux := noLoc, auxRoom := 0 }
      else if d.step = 1 then .ok { source := s, room := sr, dest := t, dstRoom := tr, aux := d.aux, auxRoom := 0 }
      else match operand f d.part (cpAuxCore b) .load (cpAux b) (if cpOp b = 2 then 4 else 32) with
        | .error e => .error e
        | .ok (x, xr) => .ok { source := s, room := sr, dest := t, dstRoom := tr, aux := x, auxRoom := xr }

/-- Check 4: every extent lies in its object. -/
def cpBounds (d : CpDesc) (o : CpOperands) : Bool :=
  let b := d.bytes
  let src := match cpOp b with
    | 0 => decide ((cpRows b - 1) * cpSrcStride b + cpLen b ≤ o.room)
    | 1 => decide ((cpRows b - 1) * cpSrcStride b + cpLen b * cpHalves b / 2 ≤ o.room)
    | _ => true
  src && (cpOp b == 3 || decide (dstExtent d ≤ o.dstRoom)) && (cpOp b != 2 || decide (4 * cpRows b ≤ o.auxRoom))

/-- The descriptor as it stands in its engine after a change. -/
def keepDesc (f : Fab) (cluster : Nat) (d : CpDesc) : Fab := modDesc f cluster d.id fun _ => d

/-- Operands have passed their checks: the descriptor holds device references on their objects from then on (05 R132, 13 R372). -/
def holdSlots (k : Keel) (f : Fab) (cluster : Nat) (d : CpDesc) (slots : List Nat) (go : Fab → CpDesc → Fab) : Fab :=
  let refs := slots.map fun s => (ObjKind.memory, s)
  if refsPast f refs then refuseCopy k f cluster d 0x0603 else go (takeAll f refs) { d with refs := d.refs ++ refs }

/-- The descriptor is accepted, and takes its stamps (13 R395). -/
def admitCopy (k : Keel) (f : Fab) (cluster : Nat) (d : CpDesc) : Fab :=
  let f := keepDesc f cluster { d with
    accepted := true, step := 0
    stamp := roleOf f (copyRole cluster d.part)
    dstStamp := if d.dest.kind = 2 then roleOf f (bindRole d.dest.core d.part) else 0
    metaStamp := if d.outMeta.kind = 2 then roleOf f (bindRole d.outMeta.core d.part) else 0 }
  endCopy k (checkedCmd f d.src) cluster d.id

/-- The metadata of an expand: the operands IN_META and OUT_META, then the read of check 5. -/
def checkMeta (k : Keel) (f : Fab) (cluster : Nat) (d : CpDesc) (dstRoom : Nat) : Fab :=
  let s := d.auxBytes
  match operand f d.part (cpAuxCore d.bytes) .load (exInMeta s) 1 with
  | .error e => refuseCopy k f cluster d e
  | .ok (m, mr) =>
    let read := fun (f : Fab) (d : CpDesc) => readPieces k (keepDesc f cluster { d with step := 3 }) cluster d (sinkStep 0 2)
      (slotOf (exInMeta s)) m [(0, exMetaLen d.bytes s)]
    holdSlots k f cluster d [slotOf (exInMeta s)] fun f d =>
      if exMetaLen d.bytes s > mr ∨ dstExtent d > dstRoom then refuseCopy k f cluster d 0x0205
      else if exOut s = 1 then match operand f d.part (cpAuxCore d.bytes) .store (exOutMeta s) 1 with
        | .error e => refuseCopy k f cluster d e
        | .ok (x, xr) => holdSlots k f cluster d [slotOf (exOutMeta s)] fun f d => read f { d with outMeta := x, outRoom := xr }
      else read f d

/-- Checks 3 and 4, and the reads of check 5. -/
def checkCopy (k : Keel) (f : Fab) (cluster : Nat) (d : CpDesc) : Fab :=
  match cpOperands f d with
  | .error e => refuseCopy k f cluster d e
  | .ok o =>
    holdSlots k f cluster d ([slotOf (cpSrc d.bytes), slotOf (cpDst d.bytes)] ++ if cpOp d.bytes = 2 then [slotOf (cpAux d.bytes)] else [])
      fun f d =>
        let d := { d with source := o.source, dest := o.dest, aux := o.aux, room := o.room }
        if cpEmpty d.bytes then admitCopy k f cluster d
        else if !cpBounds d o then refuseCopy k f cluster d 0x0205
        else if cpOp d.bytes = 2 then
          let f := workUp f 5 cluster (ceilDiv (4 * cpRows d.bytes) 512)
          readPieces k (keepDesc f cluster { d with step := 2 }) cluster d (sinkStep 0 2) (slotOf (cpAux d.bytes)) o.aux
            [(0, 4 * cpRows d.bytes)]
        else if cpOp d.bytes = 3 then checkMeta k f cluster d o.dstRoom
        else admitCopy k f cluster d

/-- Check 5: the index list of a gather, or the metadata of an expand. -/
def checkAux (k : Keel) (f : Fab) (cluster : Nat) (d : CpDesc) : Fab :=
  if cpOp d.bytes = 2 then
    if (List.range (cpRows d.bytes)).any fun i => numAt d.auxBytes (4 * i) 4 * cpSrcStride d.bytes + cpLen d.bytes > d.room then
      refuseCopy k f cluster d 0x0205
    else admitCopy k f cluster d
  else
    let e := exCheck d d.auxBytes (d.auxBytes.drop 32)
    if e ≠ 0 then refuseCopy k f cluster d e else admitCopy k f cluster d

/-- COPY_DESCRIPTOR_ACCEPT: the oldest descriptor not yet accepted makes its checks; while it waits for what they read, the row
is not due. -/
def runCopyAccept (k : Keel) (f : Fab) (cluster : Nat) : Fab :=
  let ds := ((tfind f.eng.cp cluster).map (·.descs)).getD []
  match ds.find? fun d => !d.accepted && d.readsOut == 0 && working k f d.part d.ctx with
  | none => f
  | some d =>
    if !coreOn k (16 * cluster) then f
    else if d.fault ≠ 0 then refuseCopy k f cluster d d.fault
    else if d.step = 0 then
      let phys := match d.src with
        | .routing .. => some 0
        | _ => translate f d.ctx (cpCid d.bytes) .sig
      match phys with
      | none => refuseCopy k f cluster d 0x0401
      | some p =>
        let f := modDesc f cluster d.id fun d => { d with phys := p }
        let d := { d with phys := p }
        if !cpFields k f d.part d.bytes then refuseCopy k f cluster d 0x0301
        else if cpOp d.bytes = 3 then
          match operand f d.part (cpAuxCore d.bytes) .load (cpAux d.bytes) 32 with
          | .error _ => checkCopy k f cluster d
          | .ok (x, r) =>
            if r < 32 then refuseCopy k f cluster d 0x0205
            else
              holdSlots k f cluster d [slotOf (cpAux d.bytes)] fun f d =>
                readPieces k (keepDesc f cluster { d with step := 1, aux := x }) cluster d (sinkStep 0 2) (slotOf (cpAux d.bytes)) x [(0, 32)]
        else checkCopy k f cluster d
    else if d.step = 1 then
      if exFields k f d.part d.bytes d.auxBytes then checkCopy k f cluster d else refuseCopy k f cluster d 0x0301
    else checkAux k f cluster d

/-- Working beats of a step: 512 bytes read and 512 bytes written in a beat (05 R148), the index list of a gather read apart (05
R545). -/
def copyBeats (d : CpDesc) (s : Nat) : Nat :=
  let read := ((stepReads d s).map (·.2)).sum
  let written := if cpOp d.bytes = 0 ∨ cpOp d.bytes = 2 then read
    else if cpOp d.bytes = 1 then read else (stepTiles d s).length * cpTile d
  max (ceilDiv read 512) (ceilDiv written 512) + if cpOp d.bytes = 2 then ceilDiv (4 * (stepRows d s).length) 512 else 0

/-- A step begins: a gather's reads its part of the index list. -/
def beginCopyStep (k : Keel) (f : Fab) (cluster : Nat) (d : CpDesc) : Fab :=
  let rows := stepRows d d.step
  if indexed d || rows.isEmpty then f
  else readPieces k f cluster d (sinkStep d.step 1) (slotOf (cpAux d.bytes)) d.aux [(4 * rows.headD 0, 4 * rows.length)]

/-- The step in progress issues its last reads, and ends. -/
def endCopyStep (k : Keel) (f : Fab) (cluster : Nat) (d : CpDesc) : Fab :=
  let f := workUp (modDesc f cluster d.id fun d => { d with step := d.step + 1 }) 5 cluster (copyBeats d d.step)
  readPieces k f cluster d (sinkStep d.step 0) (slotOf (cpSrc d.bytes)) d.source (stepReads d d.step)

/-- What the engine has read waits for a transfer: that holds its step (16 R457, R460). -/
def heldStep (f : Fab) (cluster : Nat) : Bool :=
  f.jobs.any fun j => j.2.complete && (match j.2.sink with
    | .copy c _ _ => c == cluster
    | _ => false)

/-- COPY_STEP_END: the step in progress issues its last reads, and the engine arbitrates its next step. The row is not due while a gather's
step waits for its indices, or while a transfer waits. -/
def runCopyStep (k : Keel) (f : Fab) (cluster : Nat) : Fab :=
  match tfind f.eng.cp cluster with
  | none => f
  | some a =>
    let cur := (a.cur.bind (findDesc f cluster)).filter fun d => d.fault == 0 && mayRun k d.part
    if !coreOn k (16 * cluster) || heldStep f cluster || cur.any (!indexed ·) then f
    else
      let f := match cur with
        | none => f
        | some d => endCopyStep k f cluster d
      let ds := ((tfind f.eng.cp cluster).map (·.descs)).getD []
      let ready := ds.filter fun d =>
        d.accepted && d.fault == 0 && decide (d.step < cpSteps d) && working k f d.part d.ctx && d.src.runs f
      let next := pickNext (fun d : CpDesc => ownsSlot k f (engDie cluster) d.part) (·.level) (·.ctx) (fun l => tgetD a.lastCtx l 1023) ready
      let f := onEng f fun e => { e with cp := tmod e.cp cluster fun a => match next with
        | none => { a with cur := none }
        | some d => { a with cur := some d.id, lastCtx := tput a.lastCtx d.level d.ctx } }
      match next with
      | none => f
      | some d => beginCopyStep k f cluster d

/-- COPY_WRITE_ACK (05 R155, R156). -/
def runCopyAck (k : Keel) (f : Fab) (m : Nat) : Fab :=
  match tfind f.net m with
  | some (.copyAck cluster id fault) =>
    let f := drop f m
    match findDesc f cluster id with
    | none => f
    | some d =>
      let f := modDesc f cluster id fun d => { d with writesOut := d.writesOut - 1 }
      let f := if fault ≠ 0 then stopCopy k f cluster d fault else f
      endCopy k f cluster id
  | _ => f

/-- COPY_DESCRIPTOR_ACCEPT (05 R151). -/
def execCopyDescriptorAccept (cluster : Nat) (s : State) : Out := onFab s fun k f => settle k (runCopyAccept k f cluster)
/-- COPY_STEP_END (14 R403). -/
def execCopyStepEnd (cluster : Nat) (s : State) : Out := onFab s fun k f => settle k (runCopyStep k f cluster)
/-- COPY_WRITE_ACK (05 R155). -/
def execCopyWriteAck (m : Nat) (s : State) : Out := onFab s fun k f => settle k (runCopyAck k f m)

end Sys2Proof.Machine
end

