-- ==== Sys2Proof/Machine/Commands.lean ====
section
/-!
DEFINITION. Commands.lean: the commands of queues (13 R383 to R386): what each does once it has started, and the rows of their
life: doorbell, reads, start, retirement.
-/
namespace Sys2Proof.Machine

/-- A started command of an opcode acts. -/
def command (s : State) (q j op : Nat) (run : Keel → Fab → Queue → QCmd → Fab) : Out :=
  onFab s fun k f => match findQueue f q, findCmd f q j with
    | some x, some c =>
      let goes := working k f x.part x.ctx || (runsHeld op && !k.power.stopping && !resetting f x.part && !stoppedCtx f x.ctx)
      if c.stage == .started && cmdOp c.bytes == op && goes then run k f x c else f
    | _, _ => f

def workingCmd (f : Fab) (q j : Nat) : Fab := modCmd f q j fun c => { c with stage := .working }

/-! ### Engine commands -/

/-- LAUNCH: its blocks wait for room on the cores it names (03 R55, R56); which core takes a block is free (log 17). -/
def runLaunch (q j : Nat) (_ : Keel) (f : Fab) (x : Queue) (c : QCmd) : Fab :=
  let b := c.bytes
  let n := launchBlocks b
  if n = 0 ∨ launchCores b = 0 then actCmd f q j 0
  else
    let seed := f.free
    let block := fun (i : Nat) => ({
      q := q, j := j, core := launchFirst b + Config.blockCore seed i % launchCores b, ix := i, ngroups := launchGroups b
      nregs := launchRegs b, slice := launchSlice b, sliceAt := 0, ctx := x.ctx, part := x.part, level := x.prio
      entry := cmdAddr b 16, args := launchArgs b, gids := [], killed := false } : Block)
    let f := onCores (spend f 1) fun t => { t with waiting := t.waiting ++ (List.range n).map block }
    modCmd f q j fun c => { c with stage := .working, left := n }

/-- COPY: the descriptor, which the engine holds since the command was accepted, may run (13 R384). -/
def runCopyCmd (q j : Nat) (k : Keel) (f : Fab) (x : Queue) (_ : QCmd) : Fab :=
  let ids := ((((tfind f.eng.cp x.unit).map (·.descs)).getD []).filter fun d => d.src == .command q j).map (·.id)
  ids.foldl (fun f id => endCopy k f x.unit id) (workingCmd f q j)

/-- ROUTE, likewise. -/
def runRouteCmd (q j : Nat) (_ : Keel) (f : Fab) (_ : Queue) (_ : QCmd) : Fab := workingCmd f q j

/-- MATRIX: the descriptor enters its array's queue. It waits while the array's 40 entries are taken (06 R159; log 63). -/
def runMatrixCmd (q j : Nat) (_ : Keel) (f : Fab) (x : Queue) (c : QCmd) : Fab :=
  if arrayFull f x.unit then f
  else
    let id := f.nextId
    let d := MxEntry.fresh id (.command q j) x.ctx x.part x.prio (cmdAddr c.bytes 16) (slice c.bytes 64 64) (roleOf f (bindRole x.unit x.part))
    let f := onEng { f with nextId := id + 1 } fun g => { g with
      mx := tupd g.mx x.unit MxArray.fresh fun a => { a with queue := a.queue ++ [d] } }
    workingCmd f q j

/-! ### Counter commands (12 R354) -/

def cmdCid (b : List Byte) : Nat := fld (cmdWord b 16) 0 14
def cmdN (b : List Byte) : Nat := fld (cmdWord b 16) 32 32

/-- A counter command reaches the station of its counter; one without the right fails with "counter identifier unmapped". -/
def counterCmd (r : Right) (kind : CntKind) (q j : Nat) (_ : Keel) (f : Fab) (x : Queue) (c : QCmd) : Fab :=
  match translate f x.ctx (cmdCid c.bytes) r with
  | none => actCmd f q j 0x0401
  | some p => sendCnt (workingCmd f q j) p kind (cmdN c.bytes) (unitLast 6 x.ctx q) (.command q j)

/-- A counter command whose count is 0 does nothing (13 R386). -/
def countCmd (r : Right) (kind : CntKind) (q j : Nat) (k : Keel) (f : Fab) (x : Queue) (c : QCmd) : Fab :=
  if cmdN c.bytes = 0 && (translate f x.ctx (cmdCid c.bytes) r).isSome then actCmd f q j 0 else counterCmd r kind q j k f x c

/-! ### Memory objects (05 R128, R548, 13 R372) -/

/-- A context's list of host references. -/
def holdRef (f : Fab) (ctx : Nat) (kd : ObjKind) (i : Nat) : Fab := modCtx f ctx fun c => { c with holds := c.holds ++ [(kd, i)] }

def objOf (w0 w1 w2 owner : Nat) (ref : Ref) : MemObj :=
  { part := fld w0 52 4, kind := fld w0 48 4, base := fld w0 0 48, len := fld w1 0 48, c := bitAt w1 52, a := bitAt w1 51,
    x := bitAt w1 50, w := bitAt w1 49, r := bitAt w1 48, kdata := BitVec.ofNat 64 w2, owner := owner, ref := ref }

def newRef : Ref := { host := 1, dev := 0, dying := false }

def runObjCreate (q j : Nat) (k : Keel) (f : Fab) (x : Queue) (c : QCmd) : Fab :=
  let b := c.bytes
  let slot := half b 40
  if (tfind f.tab.objs slot).isSome then actCmd f q j 0x0602
  else if !entryLegal k f x.part (cmdWord b 16) (cmdWord b 24) (cmdWord b 32) then actCmd f q j 0x0601
  else
    let o := objOf (cmdWord b 16) (cmdWord b 24) (cmdWord b 32) (half b 42) newRef
    let f := onTab f fun t => { t with objs := tput t.objs slot o }
    actCmd (holdRef f (half b 42) .memory slot) q j 0

def runObjChange (q j : Nat) (k : Keel) (f : Fab) (x : Queue) (c : QCmd) : Fab :=
  let b := c.bytes
  match tfind f.tab.objs (half b 16) with
  | none => actCmd f q j 0x0202
  | some o =>
    if !entryLegal k f x.part (o.part * 2 ^ 52 + o.kind * 2 ^ 48 + o.base) (cmdWord b 24) o.kdata.toNat then actCmd f q j 0x0601
    else
      let o' := objOf (o.part * 2 ^ 52 + o.kind * 2 ^ 48 + o.base) (cmdWord b 24) o.kdata.toNat o.owner o.ref
      actCmd (onTab f fun t => { t with objs := tput t.objs (half b 16) o' }) q j 0

def runObjRetain (q j : Nat) (_ : Keel) (f : Fab) (_ : Queue) (c : QCmd) : Fab :=
  let slot := half c.bytes 16
  let ctx := half c.bytes 18
  match findCtx f ctx, tfind f.tab.objs slot with
  | some cx, some o =>
    if cx.retained.length ≥ 4096 ∨ o.ref.host + 1 ≥ 2 ^ 24 then actCmd f q j 0x0603
    else
      let f := modRef f .memory slot fun r => { r with host := r.host + 1 }
      actCmd (modCtx f ctx fun c => { c with retained := c.retained ++ [(.memory, slot)] }) q j 0
  | _, _ => actCmd f q j 0x0202

/-- A release by a context that holds a host reference drops it; any other is "command invalid" (13 R372, R375). -/
def releaseCmd (kd : ObjKind) (q j : Nat) (k : Keel) (f : Fab) (x : Queue) (c : QCmd) : Fab :=
  let i := half c.bytes 16
  let ctx := half c.bytes 18
  match findCtx f ctx with
  | none => actCmd f q j 0x0601
  | some cx =>
    if cx.retained.contains (kd, i) then
      actCmd (dropHost k (modCtx f ctx fun c => { c with retained := c.retained.erase (kd, i) }) kd i x.die) q j 0
    else if cx.holds.contains (kd, i) then
      actCmd (dropHost k (modCtx f ctx fun c => { c with holds := c.holds.erase (kd, i) }) kd i x.die) q j 0
    else actCmd f q j 0x0601

/-! ### Counters (12 R349, R350, R352, R362) -/

def newCounter (owner ctx value : Nat) : Counter :=
  { value := value, err := 0, errCount := 0, owner := owner, ctx := ctx, paired := false, consumer := false, partner := 0,
    bound := 0, partnerSeen := 0, cwait := [], owait := [], last := noLast, ref := newRef }

def runCntAlloc (q j : Nat) (_ : Keel) (f : Fab) (x : Queue) (c : QCmd) : Fab :=
  let phys := half c.bytes 16
  let ctx := half c.bytes 18
  if (tfind f.tab.ctrs phys).isSome then actCmd f q j 0x0602
  else
    let f := onTab f fun t => { t with ctrs := tput t.ctrs phys (newCounter x.part ctx (word32 c.bytes 20)) }
    actCmd (holdRef f ctx .counter phys) q j 0

def runCntMap (q j : Nat) (_ : Keel) (f : Fab) (_ : Queue) (c : QCmd) : Fab :=
  let ctx := half c.bytes 16
  let cid := half c.bytes 18
  if !((findCtx f ctx).any fun x => decide (cid < x.vcount)) then actCmd f q j 0x0601
  else actCmd (onTab f fun t => { t with xlate := tput t.xlate (ctx * 16384 + cid) (BitVec.ofNat 32 (word32 c.bytes 20)) }) q j 0

/-- One counter of a new pair. -/
def Counter.pair (c : Counter) (v b partner : Nat) (consumer : Bool) : Counter :=
  { c with value := v, err := 0, errCount := 0, paired := true, consumer := consumer, partner := partner, bound := b, partnerSeen := v }

/-- CNT_PAIR (12 R362); consume-waiters that the new condition releases change a value, which is reported. -/
def runCntPair (q j : Nat) (k : Keel) (f : Fab) (x : Queue) (c : QCmd) : Fab :=
  let p := half c.bytes 16
  let cn := half c.bytes 18
  let v := word32 c.bytes 20
  let b := half c.bytes 24
  if p = cn ∨ (tfind f.tab.ctrs p).any (·.paired) ∨ (tfind f.tab.ctrs cn).any (·.paired) then actCmd f q j 0x0601
  else
    let last := unitLast 6 x.ctx q
    let f := modCtr f p fun c => { c.pair v b cn false with last := last }
    let f := modCtr f cn fun c => { c.pair v b p true with last := last }
    let tell := fun (f : Fab) (i : Nat) => if (tfind f.tab.ctrs i).any (·.value != v) then pairChanged k f i else f
    actCmd (tell (tell (evaluate k (evaluate k f p x.die) cn x.die) p) cn) q j 0

/-! ### Fences (13 R388 to R393) -/

/-- The station tests a new fence at once (13 R390). -/
def testFence (k : Keel) (f : Fab) (i die : Nat) : Fab :=
  match tfind f.tab.fences i with
  | none => f
  | some x => match tfind f.tab.ctrs x.phys with
    | none => f
    | some c =>
      if c.err ≠ 0 then completeFence k f i 1 c.err c.errCount die
      else if c.holds x.target then completeFence k f i 0 0 0 die
      else f

def runFenceCreate (q j : Nat) (k : Keel) (f : Fab) (x : Queue) (c : QCmd) : Fab :=
  let b := c.bytes
  let i := half b 40
  let w0 := cmdWord b 16
  let notify := cmdAddr b 24
  let badKind := notify != 0 && (tfind f.tab.objs (slotOf notify)).any fun o => o.kind == 2 || o.kind == 4
  if (tfind f.tab.fences i).isSome then actCmd f q j 0x0602
  else if badKind then actCmd f q j 0x0601
  else if refsPast f [(.counter, fld w0 32 14)] then actCmd f q j 0x0603
  else
    let fe : Fence := {
      event := bitAt w0 62, part := x.part, owner := fld w0 48 10, phys := fld w0 32 14, target := fld w0 0 32
      errword := 0, notifying := false, notify := notify, watchEn := bitAt (cmdWord b 32) 32, watch := fld (cmdWord b 32) 0 32, ref := newRef }
    let f := onTab f fun t => { t with fences := tput t.fences i fe }
    let f := takeDev (holdRef f fe.owner .fence i) .counter fe.phys
    actCmd (testFence k f i x.die) q j 0

def runFenceFail (q j : Nat) (k : Keel) (f : Fab) (x : Queue) (c : QCmd) : Fab :=
  actCmd (completeFence k f (half c.bytes 16) 2 (word32 c.bytes 20) 0 x.die) q j 0

/-! ### Contexts (05 R134, 12 R349, 13 R370, R400) -/

/-- The runs of units that contexts of a partition hold on a core. -/
def takenUnits (f : Fab) (part core : Nat) : List (Nat × Nat) :=
  f.tab.ctxs.flatMap fun c => if c.2.part = part then
    (c.2.shares.filter (·.core == core)).map fun s => (s.first, s.units) else []

/-- The lowest free run of `n` units in a partition's carve-out on a core, beside the runs already taken. -/
def freeRun (k : Keel) (part core n : Nat) (taken : List (Nat × Nat)) : Option Nat :=
  let lo := localBase k core part
  let hi := lo + localUnitsOf k core part
  (lo :: taken.map fun t => t.1 + t.2).foldl (fun (best : Option Nat) a =>
    if a + n ≤ hi && decide (lo ≤ a) && taken.all (fun t => t.1 + t.2 ≤ a || a + n ≤ t.1) && best.all (a < ·) then some a
    else best) none

/-- Place every share of a list, or none. -/
def placeShares (k : Keel) (f : Fab) (part : Nat) : List (Nat × Nat) → List Share → Option (List Share)
  | [], done => some done
  | (core, n) :: rest, done =>
    let taken := takenUnits f part core ++ (done.filter (·.core == core)).map fun s => (s.first, s.units)
    if !corePresent k core then none
    else (freeRun k part core n taken).bind fun a => placeShares k f part rest (done ++ [{ core := core, first := a, units := n }])

/-- Zeros with correct check bits over a share. -/
def zeroShare (f : Fab) (s : Share) : Fab :=
  let lo := locKey s.core (s.first * 16384)
  let hi := locKey s.core ((s.first + s.units) * 16384)
  onMem f fun m => { m with
    loc := m.loc.filter (fun c => !(decide (lo ≤ c.1) && decide (c.1 < hi))),
    badWords := m.badWords.filter fun w => !(decide (lo ≤ w) && decide (w < hi)),
    softWords := m.softWords.filter fun w => !(decide (lo ≤ w) && decide (w < hi)) }

def newCtx (part vcount : Nat) (admin handler : Bool) (ring : Word64) (entries : Nat) (shares : List Share) : Ctx :=
  { part := part, vcount := vcount, admin := admin, handler := handler, evRing := ring, evEntries := entries, evWrite := 0,
    evLost := 0, evSeq := 0, evRead := 0, evAcked := 0, evHeld := [], evSync := 0, shares := shares, holds := [], retained := [],
    ref := newRef, ending := none }

/-- The pairs of a share list: a core index and a number of units, two bytes each (log 34). -/
def sharePairs (b : List Byte) (n : Nat) : List (Nat × Nat) :=
  (List.range n).map fun i => (half b (64 + 4 * i), half b (66 + 4 * i))

def runCtxCreate (q j : Nat) (k : Keel) (f : Fab) (x : Queue) (c : QCmd) : Fab :=
  let b := c.bytes
  let i := half b 16
  let v := half b 18
  if (findCtx f i).isSome then actCmd f q j 0x0602
  else if refsPast f [(.memory, slotOf (cmdAddr b 24))] then actCmd f q j 0x0603
  else if (f.tab.ctxs.map fun c => c.2.vcount).sum + v > 65536 then actCmd f q j 0x0606
  else match placeShares k f x.part (sharePairs b (word32 b 48)) [] with
    | none => actCmd f q j 0x0604
    | some shares =>
      let cx := newCtx x.part v (bitAt (numAt b 20 1) 0) (bitAt (numAt b 20 1) 1) (cmdAddr b 24) (word32 b 32) shares
      let f := shares.foldl zeroShare f
      let f := takeDev (onTab f fun t => { t with ctxs := tput t.ctxs i cx }) .memory (slotOf (cmdAddr b 24))
      actCmd (dueAll k f (shares.map fun s => bindRole s.core x.part)) q j 0

def runCtxDestroy (q j : Nat) (k : Keel) (f : Fab) (x : Queue) (c : QCmd) : Fab :=
  let i := half c.bytes 16
  let abort := numAt c.bytes 18 1 == 1
  match findCtx f i with
  | none => actCmd f q j 0x0202
  | some cx =>
    let f := actCmd f q j 0
    if cx.ending.any (fun t => t.stopped || !abort) then f
    else
      let t : Teardown := { abort := abort, requester := x.ctx, tag := cmdTag c.bytes, die := x.die, stopped := false, released := false }
      let f := modCtx f i fun c => { c with ending := some t }
      if abort then
        let f := (scopeQueues f ⟨cx.part, some i⟩).foldl (fun f q => setQueueState k f q 1 0) f
        stopCtx k f i cx.part
      else (scopeQueues f ⟨cx.part, some i⟩).foldl (drainQueue k) f

/-! ### Queues -/

def newQueue (k : Keel) (ctx part cls : Nat) (admin : Bool) (prio unit : Nat) (ring : Word64) (entries : Nat) : Queue :=
  let _ := k
  { ctx := ctx, part := part, cls := cls, admin := admin, prio := prio, unit := unit
    die := if cls = 0 ∨ cls = 2 then dieOfCore unit else unit / 12
    ring := ring, entries := entries, head := 0, retired := 0, tail := 0, state := 0, abort := 0, tailRead := false
    reading := false, held := false, limit := none, cmds := [], ref := newRef }

def runQueueCreate (q j : Nat) (k : Keel) (f : Fab) (x : Queue) (c : QCmd) : Fab :=
  let b := c.bytes
  let i := half b 16
  if (findQueue f i).isSome then actCmd f q j 0x0602
  else if refsPast f [(.memory, slotOf (cmdAddr b 24))] then actCmd f q j 0x0603
  else
    let nq := newQueue k (half b 18) x.part (numAt b 20 1 % 8) (bitAt (numAt b 20 1) 3) (numAt b 21 1) (half b 22) (cmdAddr b 24) (word32 b 32)
    let f := takeDev (onTab f fun t => { t with queues := tput t.queues i nq }) .memory (slotOf (cmdAddr b 24))
    actCmd (holdRef f (half b 18) .queue i) q j 0

/-- QUEUE_DESTROY: the queue accepts no further command, and its creator's reference goes; its accepted commands hold it until they have
retired (log 36). -/
def runQueueDestroy (q j : Nat) (k : Keel) (f : Fab) (x : Queue) (c : QCmd) : Fab :=
  let i := half c.bytes 16
  match findQueue f i with
  | none => actCmd f q j 0x0202
  | some d =>
    let f := setQueueState k f i 2 0
    let f := modCtx f d.ctx fun c => { c with holds := c.holds.erase (.queue, i) }
    actCmd (dropHost k f .queue i x.die) q j 0

def runPartReset (q j : Nat) (k : Keel) (f : Fab) (x : Queue) (_ : QCmd) : Fab := startReset k (actCmd f q j 0) x.part 0x0506 x.die

/-! ### Retirement and event records -/

/-- COMMAND_RETIRE (13 R385). -/
def runRetire (k : Keel) (f : Fab) (q j : Nat) : Fab :=
  match actedCode f q j with
  | some code => retireCmd k f q j code false
  | none => f

/-- EVT_NOTE (15 R430): on the attachment of the posting die, waiting while that retrains; it replaces a note of the context that waits. -/
def sendNote (f : Fab) (die ctx write : Nat) : Fab :=
  if !linkUp f then f
  else
    let att := die % 2
    let f := onLink f fun l => { l with notes := l.notes.filter (fun n => n.2.1 != ctx) }
    if f.link.retraining.contains att then onLink f fun l => { l with notes := l.notes ++ [(att, ctx, write)] }
    else sendFlit f att (upFlit 0xA8 0 0 0 0 (BitVec.ofNat 64 (ctx % 1024 * 2 ^ 32 + write % 2 ^ 32)) 0 0 [])

/-- EVENT_RECORD_ACK (15 R430): records of a context are taken in order; WRITE follows the record. The acknowledgement of a fence's NOTIFY lets
its completion go on (13 R390). -/
def runEventAck (k : Keel) (f : Fab) (m : Nat) : Fab :=
  match tfind f.net m with
  | some (.eventAck ctx write die fault) =>
    match findCtx f ctx with
    | none => drop f m
    | some c =>
      if write = 0 then wordWritten k (drop f m) ctx
      else if write ≠ c.evAcked + 1 then f
      else
        let f := modCtx (drop f m) ctx fun c => { c with evAcked := write }
        let f := ringWrite k f die c.part c.evRing 0 (bytesLE 8 write) .none
        if fault = 0 then sendNote f die ctx write else f
  | some (.notifyAck fence epoch die) => fenceNotified k (drop f m) fence epoch die
  | _ => f

/-! ### The rows -/

/-- DOORBELL_RING (15 R429). -/
def execDoorbellRing (m : Mark) (page q : Nat) (v : Word32) (s : State) : Out := regRow s m fun k f => settle k (doorbell k f m page q v.toNat)
/-- TAIL_READ_DATA (13 R380). -/
def execTailReadData (m : Nat) (s : State) : Out := onFab s fun k f => settle k (runTailRead k f m)
/-- COMMAND_START (13 R381). -/
def execCommandStart (q j : Nat) (s : State) : Out := onFab s fun k f => runCommandStart k f q j
/-- COMMAND_RETIRE (13 R385). -/
def execCommandRetire (q j : Nat) (s : State) : Out := onFab s fun k f => settle k (runRetire k f q j)
/-- EVENT_RECORD_ACK (15 R430). -/
def execEventRecordAck (m : Nat) (s : State) : Out := onFab s fun k f => runEventAck k f m
/-- LAUNCH (13 R383). -/
def execLaunch (q j : Nat) (s : State) : Out := command s q j 0x01 (runLaunch q j)
/-- COPY (13 R383). -/
def execCopy (q j : Nat) (s : State) : Out := command s q j 0x02 (runCopyCmd q j)
/-- MATRIX (13 R383). -/
def execMatrix (q j : Nat) (s : State) : Out := command s q j 0x03 (runMatrixCmd q j)
/-- ROUTE (13 R383). -/
def execRoute (q j : Nat) (s : State) : Out := command s q j 0x04 (runRouteCmd q j)
/-- SIGNAL (12 R354). -/
def execCounterSignal (q j : Nat) (s : State) : Out := command s q j 0x08 (countCmd .sig .add q j)
/-- DECREMENT (12 R354). -/
def execCounterDecrement (q j : Nat) (s : State) : Out := command s q j 0x09 (countCmd .set_ .sub q j)
/-- SET (12 R354). -/
def execCounterSet (q j : Nat) (s : State) : Out := command s q j 0x0A (counterCmd .set_ .set_ q j)
/-- RESET (12 R354). -/
def execCounterReset (q j : Nat) (s : State) : Out := command s q j 0x0B (counterCmd .set_ .reset q j)
/-- READ (12 R354). -/
def execCounterRead (q j : Nat) (s : State) : Out := command s q j 0x0C (counterCmd .rd .read q j)
/-- MARK (13 R383). -/
def execMarkCmd (q j : Nat) (s : State) : Out := command s q j 0x10 fun _ f _ _ => actCmd f q j 0
/-- OBJ_CREATE (05 R548). -/
def execObjCreate (q j : Nat) (s : State) : Out := command s q j 0x20 (runObjCreate q j)
/-- OBJ_CHANGE (13 R383). -/
def execObjChange (q j : Nat) (s : State) : Out := command s q j 0x21 (runObjChange q j)
/-- OBJ_RETAIN (13 R372). -/
def execObjRetain (q j : Nat) (s : State) : Out := command s q j 0x22 (runObjRetain q j)
/-- OBJ_RELEASE (13 R372). -/
def execObjRelease (q j : Nat) (s : State) : Out := command s q j 0x23 (releaseCmd .memory q j)
/-- CNT_ALLOC (12 R352). -/
def execCntAlloc (q j : Nat) (s : State) : Out := command s q j 0x24 (runCntAlloc q j)
/-- CNT_MAP (12 R349). -/
def execCntMap (q j : Nat) (s : State) : Out := command s q j 0x25 (runCntMap q j)
/-- CNT_PAIR (12 R362). -/
def execCntPair (q j : Nat) (s : State) : Out := command s q j 0x26 (runCntPair q j)
/-- CNT_RELEASE (13 R372). -/
def execCntRelease (q j : Nat) (s : State) : Out := command s q j 0x27 (releaseCmd .counter q j)
/-- FENCE_CREATE (13 R390). -/
def execFenceCreate (q j : Nat) (s : State) : Out := command s q j 0x28 (runFenceCreate q j)
/-- FENCE_FAIL (13 R391). -/
def execFenceFail (q j : Nat) (s : State) : Out := command s q j 0x29 (runFenceFail q j)
/-- FENCE_RELEASE (13 R393). -/
def execFenceRelease (q j : Nat) (s : State) : Out := command s q j 0x2A (releaseCmd .fence q j)
/-- CTX_CREATE (05 R134). -/
def execCtxCreate (q j : Nat) (s : State) : Out := command s q j 0x2C (runCtxCreate q j)
/-- CTX_DESTROY (13 R400). -/
def execCtxDestroy (q j : Nat) (s : State) : Out := command s q j 0x2D (runCtxDestroy q j)
/-- CONTEXT_TEARDOWN_COMPLETE (13 R400). -/
def execContextTeardownComplete (ctx : Nat) (s : State) : Out := onFab s fun k f => runTeardown k f ctx
/-- QUEUE_CREATE (13 R383). -/
def execQueueCreate (q j : Nat) (s : State) : Out := command s q j 0x2E (runQueueCreate q j)
/-- QUEUE_DESTROY (13 R383). -/
def execQueueDestroy (q j : Nat) (s : State) : Out := command s q j 0x2F (runQueueDestroy q j)
/-- PART_RESET (13 R398). -/
def execPartReset (q j : Nat) (s : State) : Out := command s q j 0x30 (runPartReset q j)
/-- PARTITION_RESET_COMPLETE (13 R398). -/
def execPartitionResetComplete (part : Nat) (s : State) : Out := onFab s fun k f => runResetComplete k f part
/-- EPOCH_ADVANCE (13 R396). -/
def execEpochAdvance (unit : EpochUnit) (s : State) : Out :=
  onFab s fun k f => (epochKeys f unit).foldl (fun f key => runEpochAdvance k f key) f

end Sys2Proof.Machine
end

