-- ==== Sys2Proof/Machine/Home.lean ====
section
/-!
DEFINITION. Home.lean: the arrivals of coherence (11 R318 to R329), fills, write-backs and parity (10 R303 to R313), the memory
controllers (10 R288 to R294), and the end of a reservation's hold (11 R341).
-/
namespace Sys2Proof.Machine

/-! ### Requests at the home -/

/-- The line of a request that is on its way to a home or waits there. -/
def homeLine (f : Fab) (m : Nat) : Option Line :=
  match tfind f.net m with
  | some (.home l _) => some l
  | _ => none

/-- A request arrives at its line's home, and is served when no earlier one waits there and its line's entry is free: requests for a line
wait at the home in their arrival order (11 R322, R323). -/
def atHome (k : Keel) (f : Fab) (m : Nat) (l : Line) (run : Fab → Fab) : Fab :=
  if !inOrder k f m then f
  else
    let f := if f.mem.arrived.contains m then f else onMem f fun x => { x with arrived := x.arrived ++ [m] }
    if f.mem.arrived.find? (fun x => homeLine f x == some l) != some m then f
    else match needEntry k f l with
      | .busy => f
      | .evicting f => f
      | .ready f => run (onMem (lineBeat k (drop f m) (homeOf k l).die l) fun x => { x with arrived := x.arrived.filter fun y => y != m && (tfind f.net y).isSome })

/-- HOME_READ_REQUEST (11 R321). -/
def runHomeRead (k : Keel) (f : Fab) (m : Nat) (p : ParityFind) : Fab :=
  match tfind f.net m with
  | some (.home l (.read a)) => atHome k f m l fun f => startTxn k (parityOn f (homeOf k l).die l p).1 l (.read a)
  | _ => f

/-- A clean eviction of the requester that the request has overtaken is taken with it. -/
def absorbEvict (f : Fab) (a : Nat) (l : Line) : Fab :=
  let here := fun (m : Nat × Msg) => m.2 == .evict l a
  if f.net.any here then
    let f := forget { f with net := f.net.filter fun m => !here m } a l
    if a = 4 then answerCo f l 0x13 else f
  else f

/-- Granule mode: a store's ownership ends the reservations that meet its line, but those of groups whose own store it is
(04 R118, 11 R342). -/
def ownResv (f : Fab) (a : Nat) (l : Line) : Fab :=
  loseResv f (locOfLine l) 128 fun r => !r.granule || (leftEntries f a l).any fun e => e.2.gid == r.gid

/-- A conditional store in granule mode is decided at the home (11 R342). -/
def runCond (k : Keel) (f : Fab) (l : Line) (r : HomeReq) : Fab :=
  match r with
  | .cond gid lane load piece w =>
    let held := f.mem.resv.any fun x => x.granule && x.gid == gid && x.lane == lane && x.meets w.loc w.bytes.length
    if held then startTxn k (loseResv f w.loc w.bytes.length noKeep) l r else fillPiece f load piece [0] 0
  | _ => f

/-- HOME_OWNERSHIP_REQUEST (11 R321). -/
def runHomeOwn (k : Keel) (f : Fab) (m : Nat) (p : ParityFind) : Fab :=
  match tfind f.net m with
  | some (.home l (.own a forStore)) => atHome k f m l fun f =>
      let f := absorbEvict (parityOn f (homeOf k l).die l p).1 a l
      startTxn k (if forStore then ownResv f a l else f) l (.own a forStore)
  | some (.home l (.cond gid lane load piece w)) => atHome k f m l fun f =>
      runCond k (parityOn f (homeOf k l).die l p).1 l (.cond gid lane load piece w)
  | _ => f

/-- An entry that no agent holds and no transaction uses is free. -/
def freeEntryIf (f : Fab) (l : Line) : Fab :=
  match findDir f.mem l with
  | some e => if e.present = 0 && e.owner.isNone && e.txn.isNone then delDir f l else f
  | none => f

/-- The channel of a line of LPDDR6, and its state. -/
def Chan.fresh : Chan :=
  { trained := false, failed := false, retraining := false, ranks := 0, cap := 0, rate := 0, derated := false, paused := false,
    linkCe := 0, linkUe := 0, poisoned := 0, retrains := 0, ues := [] }

def chanOf (f : Fab) (ch : Nat) : Chan := tgetD f.mem.chans ch Chan.fresh
def modChan (f : Fab) (ch : Nat) (g : Chan → Chan) : Fab := onMem f fun m => { m with chans := tupd m.chans ch Chan.fresh g }
def chanAt (k : Keel) (l : Line) : Nat := lpdChannel k l.part (l.idx / 8)

/-- Requests to a channel wait while it is paused or retrains (10 R293). -/
def chanPaused (k : Keel) (f : Fab) (l : Line) : Bool :=
  l.kind == 1 && (let c := chanOf f (chanAt k l); c.paused || c.retraining)

/-! ### The arbiter of a channel (10 R300) -/

/-- The channel of a line: a near-memory channel of a present die, or one of the 32 channels of LPDDR6. -/
def channelOf (k : Keel) (l : Line) : Nat := if l.kind = 0 then (nmChannel k l.idx).1 else 1024 + chanAt k l

/-- The level of the group of an access, of the groups whose lanes or stores wait for a line at a die, of an engine's entry. -/
def loadLevel (f : Fab) (load : Nat) : Option Nat := ((tfind f.cores.loads load).bind fun l => findGroup f l.gid).map (·.level)
def fillLevels (f : Fab) (die : Nat) (l : Line) : List Nat :=
  ((waitingPieces f die l).map (·.2.1.gid) ++ (leftEntries f die l).map (·.2.gid)).filterMap fun g => (findGroup f g).map (·.level)
def copyLevel (f : Fab) (cluster id : Nat) : Option Nat :=
  ((tfind f.eng.cp cluster).bind fun e => e.descs.find? (·.id == id)).map (·.level)
def routeLevel (f : Fab) (cluster id : Nat) : Option Nat :=
  ((tfind f.eng.rt cluster).bind fun e => e.runs.find? (·.id == id)).map (·.level)

def sinkLevel (f : Fab) : AckSink → Option Nat
  | .store core sub entry => ((tgetD f.cores.sb (core * 4 + sub) []).find? (·.id == entry)).bind fun e => (findGroup f e.gid).map (·.level)
  | .copy c d => copyLevel f c d
  | .route c r => routeLevel f c r
  | .cond load _ => loadLevel f load
  | _ => none

def atomicLevel (f : Fab) : AtomicSink → Option Nat
  | .load load _ => loadLevel f load
  | _ => none

/-- The priority level of a request at a controller: that of the command whose work it is (10 R300). DESIGN CHOICE (log 62): a read for
several groups has the highest of their levels; requests of no command (queues, events, tether DMA, peers) have level 0. -/
def msgLevel (f : Fab) : Msg → Option Nat
  | .memRead loc _ (.fill a _) => (fillLevels f a (lineOf loc)).max?
  | .memRead loc _ .txn => ((findDir f.mem (lineOf loc)).bind (·.txn)).bind fun t => match t.req with
    | .write w | .cond _ _ _ _ w => sinkLevel f w.sink
    | .atomic a | .far a => atomicLevel f a.sink
    | _ => none
  | .memRead _ _ (.job j _) => (tfind f.jobs j).bind fun j => match j.sink with
    | .copy c d _ => copyLevel f c d
    | .route c r _ => routeLevel f c r
    | _ => none
  | .memRead _ _ (.piece load _) => loadLevel f load
  | .uncWrite w => sinkLevel f w.sink
  | .farAt a => atomicLevel f a.sink
  | _ => none

def Arbiter.fresh : Arbiter := { part := 15, grants := 0, row := none, ahead := [] }
def arbOf (f : Fab) (ch : Nat) : Arbiter := tgetD f.mem.arb ch Arbiter.fresh

/-- The requests that wait at a channel's controller, oldest first: number, partition, line and weight. -/
def waitingAt (k : Keel) (f : Fab) (ch : Nat) : List (Nat × Nat × Line × Nat) :=
  f.net.filterMap fun m => (memLineOf m.2).bind fun l =>
    if channelOf k l == ch && inOrder k f m.1 then some (m.1, l.part, l, 2 ^ (msgLevel f m.2).getD 0) else none

/-- A partition's weight at a grant: that of its highest-weighted request. -/
def weightOf (ws : List (Nat × Nat × Line × Nat)) (part : Nat) : Nat :=
  ((ws.filter (·.2.1 == part)).map (·.2.2.2)).foldl max 0

/-- The partition whose turn it is: the one that the channel serves while it has requests and grants left, else the next in cyclic order
that has requests. -/
def turnOf (a : Arbiter) (ws : List (Nat × Nat × Line × Nat)) : Option Nat :=
  if a.grants < weightOf ws a.part then some a.part
  else ((List.range 16).map fun i => (a.part + 1 + i) % 16).find? fun p => ws.any (·.2.1 == p)

/-- The row of a line in its channel (log 62). -/
def rowOf (k : Keel) (l : Line) : Nat := Config.rowOf (channelOf k l) l.part l.idx

/-- A request may be granted: its channel is not paused, its partition has the turn, and it is the partition's oldest, or one to the open
row that goes ahead of older ones for the 16th time in a row at most. -/
def granted (k : Keel) (f : Fab) (m : Nat) : Bool :=
  match (tfind f.net m).bind memLineOf with
  | none => false
  | some l =>
    let a := arbOf f (channelOf k l)
    let ws := waitingAt k f (channelOf k l)
    let mine := ws.filter (·.2.1 == l.part)
    !chanPaused k f l && turnOf a ws == some l.part && mine.any (·.1 == m) &&
    ((mine.head?.map (·.1)) == some m || (a.row == some (rowOf k l) && decide (tgetD a.ahead l.part 0 < 16)))

/-- The arbiter after the grant of a request. -/
def charge (k : Keel) (f : Fab) (m : Nat) : Fab :=
  match (tfind f.net m).bind memLineOf with
  | none => f
  | some l =>
    let ch := channelOf k l
    let a := arbOf f ch
    let ws := waitingAt k f ch
    let oldest := ((ws.filter (·.2.1 == l.part)).head?.map (·.1)) == some m
    let again := a.part == l.part && decide (a.grants < weightOf ws l.part)
    let b : Arbiter := { part := l.part, grants := if again then a.grants + 1 else 1, row := some (rowOf k l)
                         ahead := tput a.ahead l.part (if oldest then 0 else tgetD a.ahead l.part 0 + 1) }
    onMem f fun x => { x with arb := tput x.arb ch b }

/-! ### Write-backs, forwards and invalidations -/

/-- HOME_WRITE_BACK (11 R321): the owner is cleared. A die that has installed the line again from its eviction buffer keeps a clean copy
(10 R305). -/
def runHomeWb (k : Keel) (f : Fab) (m : Nat) : Fab :=
  match tfind f.net m with
  | some (.wb l a slice d) =>
    if !inOrder k f m || !granted k f m then f
    else if a < 4 && (f.mem.evb.find? fun e => e.die == a && e.line == l && e.dirtyLine).any (·.flaw) then
      advance k (freeEntryIf (loseLine (drop f m) a l) l) l
    else
      let f := onMem (lineBeat k (drop (charge k f m) m) (homeOf k l).die l) fun mm => writeBack mm l d
      let f := if a < 4 && (findL2 f.mem a l).isSome then modDir f l fun e => { e with owner := if e.owner = some a then none else e.owner }
               else forget f a l
      advance k (freeEntryIf (if a = 4 then answerCo f l 0x12 else send f (.wbAck l a slice)) l) l
  | _ => f

/-- HOME_CLEAN_EVICTION (11 R321). -/
def runHomeEvict (k : Keel) (f : Fab) (m : Nat) : Fab :=
  match tfind f.net m with
  | some (.evict l a) =>
    if !inOrder k f m then f
    else
      let f := lineBeat k (drop f m) (homeOf k l).die l
      let f := if a < 4 && (findL2 f.mem a l).isSome then f else forget f a l
      freeEntryIf (if a = 4 then answerCo f l 0x13 else f) l
  | _ => f

/-- SNP to the tether die (15 R424): 0 invalidate, 1 forward keeping S or O, 2 forward and invalidate. Its address is the one the
tether named the line by. -/
def snoop (k : Keel) (f : Fab) (l : Line) (sub : Nat) (what : UpWhat) : Fab :=
  let addr := ((f.link.coAddr.find? (·.1 == l)).map (·.2)).getD 0
  askTether k f (homeOf k l).die (upFlit 0x98 l.part 0 0 addr 0 0 sub []) what

/-- FORWARDED_REQUEST (11 R322, R324): the owner answers the requester and notifies the home. -/
def runForward (k : Keel) (f : Fab) (m : Nat) : Fab :=
  match tfind f.net m with
  | some (.fwd l owner requester) =>
    if !inOrder k f m || (fillFor f l owner fun _ => true) then f
    else
      let f := if owner < 4 then lineBeat k (drop f m) owner l else drop f m
      let f := useCheck f owner l
      if owner = 4 && linkUp f then snoop k f l 1 (.snoopFwd l requester)
      else match findL2 f.mem owner l with
        | some c =>
          let st := if isDirty c.st c.d then LState.O else .S
          let f := loseMarks (onMem f fun m => modL2 (touch m owner l) owner l fun c => { c with st := st }) owner l
          send (grant f owner requester l .S { c.d with dirty := 0 }) (.fwdNotify l owner)
        | none => match findEvb f.mem owner l with
          | some e => send (grant f owner requester l .S { e.d with dirty := 0 }) (.fwdNotify l owner)
          | none =>
            let f := modDir f l fun e => { e with owner := none, txn := e.txn.map fun t => { t with fwd := false, mem := true } }
            askMemory f l (.fill requester .S)
  | _ => f

/-- FORWARD_NOTIFY (11 R322): the transaction closes; the owner keeps a dirty line in O. -/
def runNotify (k : Keel) (f : Fab) (m : Nat) : Fab :=
  match tfind f.net m with
  | some (.fwdNotify l owner) =>
    if wbOut f l || !inOrder k f m then f
    else
      let keeps := if owner = 4 then true else (findL2 f.mem owner l).any (·.st == .O)
      let f := modDir (drop f m) l fun e =>
        let r := (e.txn.map (·.req)).bind fun r => match r with | .read a => some a | _ => none
        let e := match r with
          | some a => { e with present := e.present ||| bit5 a, slices := tput e.slices a (homeOf k l).slice }
          | none => e
        { e with owner := if keeps then e.owner else none, txn := none }
      freeEntryIf f l
  | _ => f

/-- INVALIDATION (11 R321, R324, R341). -/
def runInval (k : Keel) (f : Fab) (m : Nat) : Fab :=
  match tfind f.net m with
  | some (.inval l agent) =>
    if !inOrder k f m then f
    else if agent = 4 then
      let owns := (findDir f.mem l).any (·.owner == some 4)
      snoop k (drop f m) l (if owns then 2 else 0) (.snoopInv l)
    else if (f.mem.holds.any fun h => h.die == agent && h.line == l) || fillFor f l agent (· == .M) then f
    else
      let f := lineBeat k (drop f m) agent l
      let noInstall := fun (x : Msg) => match x with
        | .fill l' src d st dd till => if l' == l && d == agent then .fill l' src d st dd (till.or (some (f.nextId + 1))) else x
        | _ => x
      let f := useCheck { f with net := f.net.map fun x => (x.1, noInstall x.2) } agent l
      let copy := findL2 f.mem agent l
      let entry := findEvb f.mem agent l
      let f := loseMarks (onMem f fun m => delL2 m agent l) agent l
      let f := onMem f fun m => { m with evb := m.evb.filter fun e => !(e.die == agent && e.line == l && !e.dirtyLine) }
      send f (.invAck l agent ((copy.filter (·.st != .S)).map (·.d) |>.or ((entry.filter fun e => !e.dirtyLine && e.st != .S).map (·.d))))
  | _ => f

/-- INVALIDATION_ACK (11 R321). -/
def runInvAck (k : Keel) (f : Fab) (m : Nat) : Fab :=
  match tfind f.net m with
  | some (.invAck l agent d) =>
    if !inOrder k f m then f
    else
      let f := modDir (drop f m) l fun e => { e with
        present := e.present &&& ~~~(bit5 agent), owner := if e.owner = some agent then none else e.owner
        slices := tdel e.slices agent
        txn := e.txn.map fun t => { t with acks := t.acks.erase agent, got := t.got.or d } }
      advance k f l
  | _ => f

/-! ### The memory controllers (10 R288 to R294) -/

def sectorsIn (off len : Nat) : List Nat := (List.range 4).filter fun s => decide (32 * s < off % 128 + len) && decide (off % 128 < 32 * s + 32)

/-- The times of the last uncorrectable link errors. -/
def noteUes (time n : Nat) (c : Chan) : Chan := { c with ues := ((List.replicate n time) ++ c.ues).take 16 }

/-- What the read meets: the line as delivered, and the controller's counts. -/
def readLine (k : Keel) (f : Fab) (l : Line) (off len : Nat) (o : ReadOutcome) : Fab × LineData :=
  let mask := (sectorsIn off len).foldl (fun b i => b ||| BitVec.ofNat 4 (2 ^ i)) (0 : BitVec 4)
  if l.kind = 0 then
    let die := (homeOf k l).die
    let f := match o with
      | .uncorrectable s => onMem f fun m => (List.range 4).foldl (fun m i =>
          let key := sectorKey l.part (l.idx * 128 + 32 * i)
          if (s &&& mask).getLsbD i && !m.poison.contains key then { m with poison := m.poison ++ [key] } else m) m
      | .corrected s => countErr f die l.part fun e => { e with nmCe := sat 65535 (e.nmCe + popcount 4 (s &&& mask).toNat) }
      | _ => f
    let d := memLine f.mem l
    let n := popcount 4 (d.poison &&& mask).toNat
    (if n = 0 then f else countErr f die l.part fun e => { e with nmUe := sat 65535 (e.nmUe + n) }, d)
  else
    let ch := chanAt k l
    let d := memLine f.mem l
    match o with
    | .clean => (f, d)
    | .corrected s => (modChan f ch fun c => { c with linkCe := sat 0xFFFFFFFF (c.linkCe + popcount 4 (s &&& mask).toNat) }, d)
    | .retried n => (modChan f ch fun c => noteUes k.time (min n 2) { c with linkUe := sat 65535 (c.linkUe + 1) }, d)
    | .uncorrectable s =>
      if s &&& mask = 0 then (f, d)
      else (modChan f ch fun c => noteUes k.time 3 { c with linkUe := sat 65535 (c.linkUe + 1), poisoned := sat 255 (c.poisoned + 1) },
        { d with poison := s &&& mask })

/-! ### Agents without caches -/

/-- A part of a read takes its bytes out of a line; poisoned sectors fault (10 R288). -/
def servePart (f : Fab) (job part : Nat) (d : LineData) : Fab :=
  match (tfind f.jobs job).bind fun j => j.parts[part]? with
  | none => f
  | some p =>
    let at_ := p.loc.off % 128
    let bad := (List.range 4).any fun s => d.poison.getLsbD s && decide (32 * s < at_ + p.len) && decide (at_ < 32 * s + 32)
    if bad then fillPart f job part [] 0x0209 else fillPart f job part (slice d.bytes at_ p.len) 0

/-- UNCACHED_AGENT_READ (11 R325): a read-once; no holder changes state. It waits at the home in its turn, and while the owner's own fill
is on its way. -/
def runUncachedRead (k : Keel) (f : Fab) (m : Nat) (p : ParityFind) : Fab :=
  match tfind f.net m with
  | some (.home l (.readOnce job part)) =>
    if !inOrder k f m then f
    else
      let f := if f.mem.arrived.contains m then f else onMem f fun x => { x with arrived := x.arrived ++ [m] }
      let owner := (findDir f.mem l).bind (·.owner)
      let die := (owner.filter (· != 4)).getD (homeOf k l).die
      if f.mem.arrived.find? (fun x => homeLine f x == some l) != some m || (findDir f.mem l).any (·.txn.isSome) ||
        (fillFor f l die fun st => st == .E || st == .M) then f
      else
        let f := onMem (drop f m) fun x => { x with arrived := x.arrived.filter (· != m) }
        let f := (parityOn (lineBeat k f die l) die l p).1
        if (findDir f.mem l).bind (·.owner) = some 4 then
          let t : Txn := { req := .readOnce job part, acks := [], got := none, fwd := true, mem := false }
          snoop k (modDir f l fun e => { e with txn := some t }) l 1 (.job job part)
        else
          match (findL2 f.mem die l).map (·.d) |>.or ((findEvb f.mem die l).map (·.d)) with
          | some d => settle k (servePart (onMem f fun m => touch m die l) job part d)
          | none => match (tfind f.jobs job).bind fun j => j.parts[part]? with
            | some x => { f with net := tput f.net m (.memRead x.loc x.len (.job job part)) }
            | none => f
  | _ => f

/-- UNCACHED_AGENT_WRITE (11 R325): at the line's home, or at its memory controller, which takes the home's own writes too. A write of an agent
for a lost line is dropped (10 R313). -/
def runUncachedWrite (k : Keel) (f : Fab) (m : Nat) : Fab :=
  match tfind f.net m with
  | some (.home l (.write w)) => atHome k f m l fun f => startTxn k f l (.write w)
  | some (.uncWrite w) =>
    let l := lineOf w.loc
    if !inOrder k f m || !granted k f m then f
    else if w.sink ≠ .home && f.mem.lost.contains l then ackWrite k (drop (charge k f m) m) w.sink 0x0504
    else
      let f := onMem (drop (charge k f m) m) fun mm => memWrite mm w.loc.kind w.loc.part w.loc.off w.bytes
      if w.sink = .home then f
      else
        let f := ackWrite k (loseResv f w.loc w.bytes.length noKeep) w.sink 0
        hintL1 k f w (memBytes f.mem l.kind l.part (l.idx * 128) 128)
  | _ => f

/-- HOME_ATOMIC (11 R327): also a far atomic's request, for which the home cleans and invalidates every copy. -/
def runHomeAtomic (k : Keel) (f : Fab) (m : Nat) : Fab :=
  match tfind f.net m with
  | some (.home l (.atomic a)) => atHome k f m l fun f => startTxn k f l (.atomic a)
  | some (.home l (.far a)) => atHome k f m l fun f => startTxn k f l (.far a)
  | _ => f

/-- FAR_ATOMIC (11 R328): performed at the line's memory controller, which has read the line (MEMORY_READ). -/
def runFarAtomic (k : Keel) (f : Fab) (m : Nat) : Fab :=
  match tfind f.net m with
  | some (.farRead a bad) =>
    let l := lineOf a.loc
    if chanPaused k f l then f
    else
      let f := drop f m
      let d := memLine f.mem l
      let f := if (findDir f.mem l).any (fun e => e.txn.any fun t => match t.req with | .far b => b == a | _ => false) then delDir f l else f
      if f.mem.lost.contains l then ackAtomic k f a.sink [] 0x0504
      else if (bad ||| d.poison).getLsbD (a.loc.off % 128 / 32) then ackAtomic k f a.sink [] 0x0209
      else
        let (d', old) := atomicLine a d
        let f := onMem f fun m => memWrite m l.kind l.part a.loc.off ((slice d'.bytes (a.loc.off % 128) a.size).map some)
        ackAtomic k (loseResv f a.loc a.size a.keep) a.sink old 0
  | _ => f

/-! ### Fills -/

/-- What a die does with a line that its L2 cannot keep (10 R304): the stores that waited for it are written back, through the
eviction buffer, where they wait for room; none while there is none. -/
def passThrough (k : Keel) (f : Fab) (die : Nat) (l : Line) (st : LState) (d : LineData) : Option Fab :=
  let slice := (homeOf k l).slice
  let owned := st == .E || st == .M
  let stores := owned && !(leftEntries f die l).isEmpty
  if (stores || d.dirty != 0) && decide (dirtyEntries f.mem die slice ≥ 32) then none
  else
    let f := serveLoads k f die l st d
    let (f, d') := if owned then performStores f die l d else (f, d)
    some (if d'.dirty = 0 then send f (.evict l die)
      else holdDirty f { die := die, slice := slice, line := l, st := .M, d := d', flaw := false, dirtyLine := true, issued := false })

/-- Stores of a die that a fill has left waiting are asked for at the home again, and so are the lanes that no read asks for. -/
def askAgain (k : Keel) (f : Fab) (die : Nat) (l : Line) : Fab :=
  let owned := (findL2 f.mem die l).any fun c => c.st == .E || c.st == .M
  let f := if owned || (leftEntries f die l).isEmpty then f else needOwn f die l true
  let loop := (waitingPieces f die l).any fun x => x.2.1.kind == .res && (granuleOf k l.part).isNone
  if (waitingPieces f die l).isEmpty then f else if loop then needOwn f die l false else needRead f die l

/-- A fill reaches its die, which can keep it: where the die has the line, an S fill leaves its copy as it is, and others raise its state;
else the line takes a way of its slice. None while that slice's eviction buffer has no room. -/
def installFill (k : Keel) (f : Fab) (die : Nat) (l : Line) (st : LState) (d : LineData) (wanted : Bool) : Option Fab :=
  let h := homeOf k l
  match findL2 f.mem die l with
  | some c =>
    let st' := if st == .E && isDirty c.st c.d then LState.M else st
    let f := onMem f fun m => modL2 (touch m die l) die l fun c =>
      if st == .S then c else { c with st := st', d := if d.valid = 0 then c.d else d }
    some (useLine k f die l)
  | none =>
    if d.valid = 0 then match findEvb f.mem die l with
      | none => some f
      | some e => match choose k f die h.slice l with
        | .wait => none
        | .noWay => passThrough k (onMem f fun m => delClean m die l) die l st e.d
        | .at_ way v =>
          let st' := if st == .E && e.dirtyLine then LState.M else st
          some (useLine k (install k f die h.slice way v l st' e.d false) die l)
    else match choose k f die h.slice l with
      | .wait => none
      | .noWay => passThrough k f die l st d
      | .at_ way v => some (useLine k (install k f die h.slice way v l st d (!wanted)) die l)

/-- L2_FILL (10 R304, 11 R324). A victim is checked as it leaves its way. -/
def runFill (k : Keel) (f : Fab) (m : Nat) (p : ParityFind) : Fab :=
  match tfind f.net m with
  | some (.fill l _ die st d till) =>
    if !inOrder k f m then f
    else
      let g := lineBeat k (drop f m) die l
      if till.isSome then askAgain k (loseMarks (serveLoads k g die l st d till) die l) die l
      else
        let wanted := !(waitingPieces f die l).isEmpty || !(leftEntries f die l).isEmpty
        let g := match findL2 g.mem die l, choose k g die (homeOf k l).slice l with
          | none, .at_ _ (some v) => (parityOn g die v.line p).1
          | _, _ => g
        match installFill k g die l st d wanted with
        | none => f
        | some g => askAgain k g die l
  | _ => f

/-- WRITE_BACK_ACK (10 R305): the entry is free, and what waited for room goes on. -/
def runWbAck (k : Keel) (f : Fab) (m : Nat) : Fab :=
  match tfind f.net m with
  | some (.wbAck l die _) =>
    if !inOrder k f m then f
    else
      let f := onMem (drop f m) fun m => { m with evb := dropFirst (fun e => e.die == die && e.line == l && e.dirtyLine) m.evb }
      (f.mem.dir.filter (·.txn.isSome)).foldl (fun f e => advance k f e.line) f
  | _ => f

/-- RESERVATION_HOLD_EXPIRY (11 R341). -/
def runHoldExpiry (f : Fab) (die hold : Nat) : Fab :=
  onMem f fun m => { m with holds := m.holds.filter fun h => !(h.die == die && h.id == hold) }

/-! ### The commands of the memory controllers (10 R288 to R294) -/

/-- Data of memory reach the requester of a fill (11 R321). -/
def memFill (k : Keel) (f : Fab) (l : Line) (a : Nat) (st : LState) (d : LineData) : Fab :=
  let f := modDir f l fun e =>
    if st == .S then { e with present := e.present ||| bit5 a, slices := tput e.slices a (homeOf k l).slice, txn := none }
    else { e with present := bit5 a, owner := some a, slices := [(a, (homeOf k l).slice)], txn := none }
  grant f (homeOf k l).die a l st d

/-- MEMORY_READ (10 R288, R294). A far atomic's read of its line is one too; FAR_ATOMIC then performs it. -/
def runMemRead (k : Keel) (f : Fab) (m : Nat) (o : ReadOutcome) : Fab :=
  match tfind f.net m with
  | some (.memRead loc len what) =>
    let l := lineOf loc
    if !inOrder k f m || !granted k f m then f
    else
      let (f, d) := readLine k (drop (charge k f m) m) l loc.off len o
      match what with
      | .fill a st => memFill k f l a st d
      | .txn =>
        let f := modDir f l fun e => { e with txn := e.txn.map fun t => { t with got := some d, mem := false } }
        advance k f l
      | .job job part =>
        let f := if (findDir f.mem l).any (fun e => e.txn.any (·.req == .readOnce job part)) then closeTxn f l else f
        settle k (servePart f job part d)
      | .piece load piece => match (findLoad f load).bind fun ld => (ld.pieces[piece]?).map fun p => (ld, p) with
        | some (ld, p) => capture k f load piece ld p d
        | none => f
  | some (.farAt a) =>
    if !inOrder k f m || !granted k f m then f
    else
      let (f, d) := readLine k (charge k f m) (lineOf a.loc) a.loc.off a.size o
      { f with net := tmod f.net m fun _ => .farRead a d.poison }
  | _ => f

/-- PATROL_SCRUB (10 R289): a sector of near memory is read and corrected. It takes part in the arbitration with weight 1 (10 R300), behind
the partition's own requests. -/
def runPatrol (k : Keel) (f : Fab) (sector : Nat) (o : ReadOutcome) : Fab :=
  let part := sector / 2 ^ 43
  let off := sector % 2 ^ 43 * 32
  let l : Line := { kind := 0, part := part, idx := off / 128 }
  let ch := channelOf k l
  let ws := waitingAt k f ch
  let a := arbOf f ch
  if ws.any (·.2.1 == part) || turnOf a (ws ++ [(f.nextId, part, l, 1)]) != some part then f
  else
    let b : Arbiter := { part := part, grants := 1, row := some (rowOf k l), ahead := a.ahead }
    let f := onMem f fun x => { x with arb := tput x.arb ch b }
    (readLine k f l off 32 o).1

/-- LPDDR_DRIFT_COMPENSATION (10 R293). -/
def runDrift (f : Fab) (ch : Nat) : Fab := if (chanOf f ch).trained then modChan f ch fun c => { c with paused := true } else f

/-- LPDDR_ONLINE_RETRAIN (10 R293): the channel's last 16 uncorrectable errors came within 1 ms. -/
def runRetrain (f : Fab) (ch : Nat) : Fab :=
  let c := chanOf f ch
  if c.trained && c.ues.length == 16 && c.ues.all (fun t => decide (c.ues.headD 0 ≤ t + 200000)) then
    modChan f ch fun c => { c with trained := false, retraining := true, retrains := sat 255 (c.retrains + 1), ues := [] }
  else f

/-- Partitions whose LPDDR6 carve-out includes a channel. -/
def partsOnChan (k : Keel) (ch : Nat) : List Nat :=
  (List.range 16).filter fun p => (partRec k p).any fun r => bitAt r.lpdMask ch && decide (0 < r.lpdUnits)

/-- LPDDR_RETRAIN_COMPLETE (10 R293). -/
def runRetrainDone (k : Keel) (f : Fab) (ch : Nat) (ok : Bool) : Fab :=
  if !(chanOf f ch).retraining then f
  else
    let f := modChan f ch fun c => { c with retraining := false, trained := ok, failed := !ok }
    if ok then f else (partsOnChan k ch).foldl (fun f p => startReset k f p 0x0505 0) f

/-! ### The rows -/

/-- HOME_READ_REQUEST (11 R321). -/
def execHomeReadRequest (m : Nat) (parity : ParityFind) (s : State) : Out := onFab s fun k f => settle k (runHomeRead k f m parity)
/-- HOME_OWNERSHIP_REQUEST (11 R321). -/
def execHomeOwnershipRequest (m : Nat) (parity : ParityFind) (s : State) : Out := onFab s fun k f => settle k (runHomeOwn k f m parity)
/-- HOME_WRITE_BACK (11 R321). -/
def execHomeWriteBack (m : Nat) (s : State) : Out := onFab s fun k f => settle k (runHomeWb k f m)
/-- HOME_CLEAN_EVICTION (11 R321). -/
def execHomeCleanEviction (m : Nat) (s : State) : Out := onFab s fun k f => runHomeEvict k f m
/-- FORWARDED_REQUEST (11 R322). -/
def execForwardedRequest (m : Nat) (s : State) : Out := onFab s fun k f => settle k (runForward k f m)
/-- FORWARD_NOTIFY (11 R322). -/
def execForwardNotify (m : Nat) (s : State) : Out := onFab s fun k f => settle k (runNotify k f m)
/-- INVALIDATION (11 R321). -/
def execInvalidation (m : Nat) (s : State) : Out := onFab s fun k f => settle k (runInval k f m)
/-- INVALIDATION_ACK (11 R321). -/
def execInvalidationAck (m : Nat) (s : State) : Out := onFab s fun k f => settle k (runInvAck k f m)
/-- UNCACHED_AGENT_READ (11 R325). -/
def execUncachedAgentRead (m : Nat) (parity : ParityFind) (s : State) : Out := onFab s fun k f => settle k (runUncachedRead k f m parity)
/-- UNCACHED_AGENT_WRITE (11 R325). -/
def execUncachedAgentWrite (m : Nat) (s : State) : Out := onFab s fun k f => settle k (runUncachedWrite k f m)
/-- HOME_ATOMIC (11 R327). -/
def execHomeAtomic (m : Nat) (s : State) : Out := onFab s fun k f => settle k (runHomeAtomic k f m)
/-- FAR_ATOMIC (11 R328). -/
def execFarAtomic (m : Nat) (s : State) : Out := onFab s fun k f => settle k (runFarAtomic k f m)
/-- L2_FILL (10 R304). -/
def execL2Fill (m : Nat) (parity : ParityFind) (s : State) : Out := onFab s fun k f => settle k (runFill k f m parity)
/-- WRITE_BACK_ACK (10 R305). -/
def execWriteBackAck (m : Nat) (s : State) : Out := onFab s fun k f => settle k (runWbAck k f m)
/-- RESERVATION_HOLD_EXPIRY (11 R341). -/
def execReservationHoldExpiry (die hold : Nat) (s : State) : Out := onFab s fun _ f => runHoldExpiry f die hold
/-- MEMORY_READ (10 R288). -/
def execMemoryRead (m : Nat) (o : ReadOutcome) (s : State) : Out := onFab s fun k f => settle k (runMemRead k f m o)
/-- PATROL_SCRUB (10 R289). -/
def execPatrolScrub (sector : Nat) (o : ReadOutcome) (s : State) : Out := onFab s fun k f => runPatrol k f sector o
/-- LPDDR_DRIFT_COMPENSATION (10 R293): the channel pauses. -/
def execLpddrDriftCompensation (ch : Nat) (s : State) : Out := onFab s fun _ f => runDrift f ch
/-- LPDDR_ONLINE_RETRAIN (10 R293). -/
def execLpddrOnlineRetrain (ch : Nat) (s : State) : Out := onFab s fun _ f => runRetrain f ch
/-- LPDDR_RETRAIN_COMPLETE (10 R293). -/
def execLpddrRetrainComplete (ch : Nat) (ok : Bool) (s : State) : Out := onFab s fun k f => runRetrainDone k f ch ok
/-- LPDDR_TEMPERATURE_READ (10 R290). -/
def execLpddrTemperatureRead (ch : Nat) (derated : Bool) (s : State) : Out :=
  onFab s fun _ f => if (chanOf f ch).trained then modChan f ch fun c => { c with derated := derated } else f
/-- DRIFT_COMPENSATION_COMPLETE (10 R293). -/
def execDriftCompensationComplete (ch : Nat) (s : State) : Out := onFab s fun _ f => modChan f ch fun c => { c with paused := false }

end Sys2Proof.Machine
end

