-- ==== Sys2Proof/Machine/Maint.lean ====
section
/-!
DEFINITION. Maint.lean: way locking (10 R306), the maintenance operations (10 R308 to R310, R313) and the memory error records
of a sail die (10 SAIL_MEMERR_*).
-/
namespace Sys2Proof.Machine

/-! ### Way locking (10 R306) -/

/-- Locked ways of a slice of a die, of all partitions but one. -/
def lockedWays (f : Fab) (die but_ : Nat) : Nat :=
  ((List.range 16).map fun p => if p = but_ then 0 else popcount 16 (lockOf f die p).toNat).sum

/-- A write of SAIL_L2_LOCK: ERR is cleared by a 1, PART is selected, and APPLY sets its mask or is refused. -/
def writeLock (k : Keel) (f : Fab) (m : Mark) (die v : Nat) : Fab :=
  let part := fld v 16 4
  let ways := fld v 0 16
  if !actsFor k m part then f
  else
    let f := modDie f die fun d => { d with lockPart := part, lockErr := d.lockErr && !bitAt v 31 }
    if !bitAt v 30 then f
    else if (l2Ways k part &&& ways) ≠ ways ∨ lockedWays f die part + popcount 16 ways > 12 then
      modDie f die fun d => { d with lockErr := true }
    else onMem f fun m => { m with locks := tput m.locks (die * 16 + part) (BitVec.ofNat 16 ways) }

/-! ### Maintenance (10 R308 to R310) -/

def mcmdPart (d : DieRegs) : Nat := fld d.mcmd.toNat 24 4

/-- The fields of SAIL_L2_MCMD that a write keeps: GO is not one of them. -/
def mcmdMask : Nat := 0x7F3FFFEF

def maintOf (d : DieRegs) : MaintRun :=
  let v := d.mcmd.toNat
  { part := fld v 24 4, op := fld v 28 2, setWay := bitAt v 30, slice := fld v 16 6, set_ := fld v 5 11, way := fld v 0 4
    addr := d.maddr, len := d.mlen.toNat, range := none, found := [] }

/-- The checks before any line is touched (10 R309, RESULT 2 to 4); RESULT 1 where they pass. A clean needs R and an invalidate
needs W, so a clean and invalidate needs both; a LEN of 0 touches nothing and makes no check of an object. -/
def maintCheck (k : Keel) (f : Fab) (r : MaintRun) : Nat :=
  if r.op = 0 ∨ (r.setWay ∧ r.slice > 47) then 4
  else if r.setWay then (if bitAt (l2Ways k r.part) r.way then 1 else 3)
  else if r.len = 0 then 1
  else match findObj f r.part (slotOf r.addr) with
    | .error _ => 2
    | .ok o =>
      if (r.op ≠ 2 ∧ !o.r) ∨ (r.op ≠ 1 ∧ !o.w) then 2
      else if offOf r.addr + r.len > o.len then 2 else 1

/-- The lines of a range, as kind, partition and first and last index; none for an object whose lines no cache holds. -/
def maintRange (f : Fab) (r : MaintRun) : Option (Nat × Nat × Nat × Nat) :=
  match findObj f r.part (slotOf r.addr) with
  | .error _ => none
  | .ok o =>
    if r.len = 0 ∨ o.kind > 1 ∨ !o.c then none
    else
      let a := o.base + offOf r.addr
      some (o.kind, o.part, a / 128, (a + r.len - 1) / 128)

/-- Whether a range operation covers a line. -/
def inRange (x : Option (Nat × Nat × Nat × Nat)) (l : Line) : Bool :=
  match x with
  | none => false
  | some (kd, p, lo, hi) => l.kind == kd && l.part == p && decide (lo ≤ l.idx) && decide (l.idx ≤ hi)

/-- The copies on the sail dies that an operation of a die acts on. -/
def maintCopies (f : Fab) (die : Nat) (r : MaintRun) : List L2Copy :=
  f.mem.l2.filter fun c =>
    if r.setWay then c.die == die && c.slice == r.slice && c.set_ == r.set_ && c.way == r.way else inRange r.range c.line

/-- Entries by which the tether die holds a line of the range that the operation acts on there: a clean acts on those that it owns. -/
def holderLines (f : Fab) (r : MaintRun) : List DirEntry :=
  if r.setWay then [] else f.mem.dir.filter fun e => inRange r.range e.line && (e.owner == some 4 || (e.present.getLsbD 4 && r.op != 1))

/-- The tether die is asked for them: a clean reads the ones it owns, an invalidate removes them, a clean and invalidate does both. -/
def askHolder (k : Keel) (f : Fab) (die : Nat) (r : MaintRun) : Fab :=
  (holderLines f r).foldl (fun f e =>
    if r.op ≠ 2 ∧ e.owner = some 4 then
      startRead k f (.maint die e.line) [{ loc := locOfLine e.line, len := 128, data := none, fault := 0 }] die
    else send f (.inval e.line 4)) f

/-- Dirty lines of the range on their way out of the eviction buffers. -/
def leavingLines (f : Fab) (r : MaintRun) : List Line :=
  if r.setWay then [] else (f.mem.evb.filter fun e => inRange r.range e.line && e.dirtyLine).map (·.line)

/-- A write of SAIL_L2_MCMD: the fields are updated; GO starts the operation, is refused, or is discarded while one runs. -/
def writeMcmd (k : Keel) (f : Fab) (m : Mark) (die v : Nat) : Fab :=
  if !actsFor k m (fld v 24 4) then f
  else
    let f := modDie f die fun d => { d with mcmd := BitVec.ofNat 32 (v &&& mcmdMask) }
    if !bitAt v 31 then f
    else if (dieRegs f die).mrun.isSome then modDie f die fun d => { d with moverrun := true }
    else
      let r := maintOf (dieRegs f die)
      let code := maintCheck k f r
      if code ≠ 1 then modDie f die fun d => { d with mresult := code, mlines := 0 }
      else
        let r := { r with range := if r.setWay then none else maintRange f r }
        let r := { r with found := (holderLines f r).map (·.line) ++ leavingLines f r }
        askHolder k (modDie f die fun d => { d with mrun := some r, mlines := 0 }) die r

/-- A line is between its holders: a transaction, a fill or a write-back of it is under way. -/
def lineMoving (f : Fab) (l : Line) : Bool :=
  (findDir f.mem l).any (·.txn.isSome) || f.mem.evb.any (fun e => e.line == l && e.dirtyLine) ||
  f.net.any fun m => match m.2 with
    | .fill l' _ _ _ _ _ | .inval l' _ | .invAck l' _ _ | .fwd l' _ _ | .fwdNotify l' _ | .wb l' _ _ _ => l' == l
    | _ => false

/-- Lines of the range that the directory or a cache knows. -/
def rangeLines (f : Fab) (x : Option (Nat × Nat × Nat × Nat)) : List Line :=
  ((f.mem.dir.map (·.line)) ++ (f.mem.l2.map (·.line)) ++ (f.mem.evb.map (·.line))).filter (inRange x)

/-- Whether what the operation waits for is done: the tether die's lines and the lines that move. -/
def maintReady (f : Fab) (die : Nat) (r : MaintRun) : Bool :=
  !(f.jobs.any fun j => match j.2.sink with
    | .maint d _ => d == die
    | _ => false) &&
  if r.setWay then (maintCopies f die r).all fun c => !lineMoving f c.line
  else
    (rangeLines f r.range).all (fun l => !lineMoving f l) &&
    (r.op == 1 || f.mem.dir.all fun e => !inRange r.range e.line || !e.present.getLsbD 4)

/-- One copy is cleaned: its dirty sectors are written back, and it stays valid. -/
def cleanCopy (f : Fab) (c : L2Copy) : Fab :=
  if !isDirty c.st c.d then f
  else
    let st := if c.st == .M then LState.E else if c.st == .O then .S else c.st
    let f := onMem f fun m => modL2 m c.die c.line fun c => { c with st := st, d := { c.d with dirty := 0 } }
    let f := homeWrite f c.line c.d
    if st == .S then modDir f c.line fun e => { e with owner := if e.owner = some c.die then none else e.owner } else f

/-- One copy is removed and its dirty data discarded. -/
def dropCopy (f : Fab) (c : L2Copy) : Fab :=
  freeEntryIf (forget (loseMarks (onMem f fun m => delClean (delL2 m c.die c.line) c.die c.line) c.die c.line) c.die c.line) c.line

/-- One copy is acted on. -/
def maintCopy (op : Nat) (f : Fab) (c : L2Copy) : Fab :=
  if op = 1 then cleanCopy f c else if op = 2 then dropCopy f c else dropCopy (cleanCopy f c) c

/-- Clean entries of the eviction buffers that an invalidation covers leave them. -/
def dropEntriesIn (f : Fab) (x : Option (Nat × Nat × Nat × Nat)) : Fab :=
  (f.mem.evb.filter fun e => inRange x e.line && !e.dirtyLine).foldl (fun f e =>
    freeEntryIf (forget (onMem f fun m => { m with evb := m.evb.erase e }) e.die e.line) e.line) f

/-- A dirty copy, among those that the operation acts on, whose parity is bad: one that an upset has left so, or, where the command says
that one is found, any (a free value picks it). -/
def lostCopy (f : Fab) (dirty : List L2Copy) (said : Bool) : Option L2Copy :=
  (dirty.find? (·.flaw != .ok)).or (if said then dirty[(fresh f).toNat % dirty.length]? else none)

/-- L2_MAINTENANCE_COMPLETE: every copy is acted on and LINES counts the lines; a dirty loss that the operation finds ends it with
RESULT 5 (10 R313) and its other effects are those of 10 R312. -/
def runMaintDone (f : Fab) (die : Nat) (lost : Bool) : Fab :=
  match (dieRegs f die).mrun with
  | none => f
  | some r =>
    if !maintReady f die r then f
    else
      let cs := maintCopies f die r
      let dirty := cs.filter fun c => isDirty c.st c.d
      match lostCopy f dirty lost with
      | some c => loseLine (modDie (spend f 1) die fun d => { d with mrun := none, mresult := 5 }) c.die c.line
      | none =>
        let acted := if r.op = 1 then dirty else cs
        let entries := if r.setWay || r.op == 1 then [] else f.mem.evb.filter fun e => inRange r.range e.line && !e.dirtyLine
        let lines := (r.found ++ acted.map (·.line) ++ entries.map (·.line)).eraseDups
        let f := acted.foldl (maintCopy r.op) f
        let f := if r.setWay || r.op == 1 then f else dropEntriesIn f r.range
        modDie f die fun d => { d with mrun := none, mresult := 1, mlines := min (2 ^ 24 - 1) lines.length }

/-! ### Memory error records -/

def memErrOf (f : Fab) (die part : Nat) : MemErr := tgetD f.memErr (die * 16 + part) MemErr.none

/-- A write of SAIL_MEMERR_SEL. -/
def writeMemerrSel (k : Keel) (f : Fab) (m : Mark) (die v : Nat) : Fab :=
  if actsFor k m (fld v 16 4) then modDie f die fun d => { d with memerrPart := fld v 16 4 } else f

/-- SAIL_MEMERR_CNT. -/
def memerrCnt (e : MemErr) : Nat := e.nmCe * 2 ^ 48 + e.nmUe * 2 ^ 32 + e.refetch * 2 ^ 16 + e.lost

/-- SAIL_MEMERR_ADDR. -/
def memerrAddr (e : MemErr) : Nat :=
  if e.valid then 2 ^ 63 + e.kind * 2 ^ 48 + e.off % 2 ^ 48 else e.kind * 2 ^ 48 + e.off % 2 ^ 48

/-- SAIL_L2_MSTATUS. -/
def mstatus (d : DieRegs) : Nat :=
  (if d.mrun.isSome then 2 ^ 31 else 0) + (if d.moverrun then 2 ^ 30 else 0) + d.mlines * 16 + d.mresult

/-- SAIL_L2_LOCK. -/
def lockReg (f : Fab) (die : Nat) : Nat :=
  let d := dieRegs f die
  (if d.lockErr then 2 ^ 31 else 0) + d.lockPart * 2 ^ 16 + (lockOf f die d.lockPart).toNat

/-! ### The rows -/

/-- Whether a written SAIL_L2_MCMD starts an operation of a mode and OP. -/
def startsMaint (v : Word32) (mode : Bool) (op : Nat) : Bool := v.getLsbD 31 && v.getLsbD 30 == mode && fld v.toNat 28 2 == op

/-- L2_LOCK_APPLY (10 R306): a write of SAIL_L2_LOCK with APPLY 1. -/
def execL2LockApply (mark : Mark) (die : Nat) (v : Word32) (s : State) : Out :=
  regRow s mark fun k f => if v.getLsbD 30 && decide (die < k.sails) then writeLock k f mark die v.toNat else f
/-- L2_CLEAN_RANGE (10 R308). -/
def execL2CleanRange (mark : Mark) (die : Nat) (v : Word32) (s : State) : Out :=
  regRow s mark fun k f => if startsMaint v false 1 && decide (die < k.sails) then writeMcmd k f mark die v.toNat else f
/-- L2_INVALIDATE_RANGE (10 R308). -/
def execL2InvalidateRange (mark : Mark) (die : Nat) (v : Word32) (s : State) : Out :=
  regRow s mark fun k f => if startsMaint v false 2 && decide (die < k.sails) then writeMcmd k f mark die v.toNat else f
/-- L2_CLEAN_INVALIDATE_RANGE (10 R308). -/
def execL2CleanInvalidateRange (mark : Mark) (die : Nat) (v : Word32) (s : State) : Out :=
  regRow s mark fun k f => if startsMaint v false 3 && decide (die < k.sails) then writeMcmd k f mark die v.toNat else f
/-- L2_CLEAN_SET_WAY (10 R308). -/
def execL2CleanSetWay (mark : Mark) (die : Nat) (v : Word32) (s : State) : Out :=
  regRow s mark fun k f => if startsMaint v true 1 && decide (die < k.sails) then writeMcmd k f mark die v.toNat else f
/-- L2_INVALIDATE_SET_WAY (10 R308). -/
def execL2InvalidateSetWay (mark : Mark) (die : Nat) (v : Word32) (s : State) : Out :=
  regRow s mark fun k f => if startsMaint v true 2 && decide (die < k.sails) then writeMcmd k f mark die v.toNat else f
/-- L2_CLEAN_INVALIDATE_SET_WAY (10 R308). -/
def execL2CleanInvalidateSetWay (mark : Mark) (die : Nat) (v : Word32) (s : State) : Out :=
  regRow s mark fun k f => if startsMaint v true 3 && decide (die < k.sails) then writeMcmd k f mark die v.toNat else f
/-- L2_MAINTENANCE_COMPLETE (10 R309). -/
def execL2MaintenanceComplete (die : Nat) (parityLost : Bool) (s : State) : Out :=
  onFab s fun k f => settle k (runMaintDone f die parityLost)

end Sys2Proof.Machine
end

