-- ==== Sys2Proof/Machine/Matrix.lean ====
section
/-!
DEFINITION. Matrix.lean: the matrix arrays (06 R159 to R193) with their sparse operands (07 R194 to R206) and number rules
(08 R236 to R246): acceptance, fold steps, the epilogue, gaps and ballast, completion.
-/
namespace Sys2Proof.Machine

/-- An entry leaves the array: its references are dropped. -/
def leaveArray (k : Keel) (f : Fab) (core : Nat) (x : MxEntry) : Fab :=
  let f := modArray f core fun a => { a with
    queue := a.queue.filter (·.id != x.id), cur := if a.cur = some x.id then none else a.cur }
  dropAll k f x.refs (srcDie f x.src)

/-- A failed check of 06 R168: the fault is recorded on the descriptor's counter and to its context (06 R169), and a command also
retires failed with it (13 R384). -/
def refuseMx (k : Keel) (f : Fab) (core : Nat) (x : MxEntry) (code : Nat) : Fab :=
  let f := engineFault k f 2 core x.part x.ctx (dieOfCore core) (mxCid x.bytes) code x.addr
  let f := match x.src with
    | .command q j => actCmd f q j code
    | _ => f
  leaveArray k f core x

/-! ### Steps (06 R173, 07 R197) -/

/-- The K positions of a step: first, and one past the last. -/
def stepK (b : List Byte) (i : Nat) : Nat × Nat :=
  let d := if mxStat b = 1 then 256 * mxG b else stepDepth b
  (min (mxK b) (d * i), min (mxK b) (d * (i + 1)))

/-- Whether a 64-wide K tile of a row group is present; only a bitmap leaves any out (07 R198). -/
def Side.holds (s : Side) (kLen t j : Nat) : Bool := s.sp != 3 || bitmapBit s.table kLen t j

/-- Whether a row group of an operand is present in a step (07 R199, R201). -/
def Side.present (s : Side) (kt kLen t lo hi : Nat) : Bool :=
  match s.sp with
  | 3 => (List.range (ceilDiv hi 64 - lo / 64)).any fun i => s.holds kLen t (lo / 64 + i)
  | 4 => fld (s.entry (lo / kt) t) 0 16 != 0
  | _ => true

/-- The scales of a row for the 32-element blocks that positions `k0` to `k0 + n - 1` meet (06 R166). -/
def Side.scaleReads (s : Side) (kLen k0 n row : Nat) : List (Nat × Nat) :=
  if s.sc = 1 then [(s.scOff + row * ceilDiv kLen 32 + k0 / 32, ceilDiv (k0 + n) 32 - k0 / 32)] else []

/-- Row groups of an operand that meet rows `first` to `first + n - 1`. -/
def groupsIn (first n : Nat) : List Nat := (List.range (ceilDiv n 64)).map (first / 64 + ·)

/-- Vectors that a step streams; none where it is skipped (07 R199). -/
def stepLen (x : MxEntry) (step : Nat) : Option Nat :=
  let b := x.bytes
  let (m, nm, n, nn) := blockBox b (step / blockSlots b)
  let (lo, hi) := stepK b (step % blockSlots b)
  let sa := sideA b x.ameta
  let sb := sideB b x.bmeta
  let kt := mxKt b
  let kl := mxK b
  if mxStat b = 1 then
    let both := (List.range (hi - lo)).filter fun i =>
      let j := (lo + i) / 64
      sa.holds kl (m / 64) j && sb.holds kl (n / 64) j
    if both.isEmpty then none else some (ceilDiv both.length (mxG b))
  else
    let (st, t, str, first, cnt) := if mxStat b = 0 then (sb, n / 64, sa, m, nm) else (sa, m / 64, sb, n, nn)
    let rows := ((groupsIn first cnt).filter fun g => str.present kt kl g lo hi).map fun g => min 64 (first + cnt - 64 * g)
    if !st.present kt kl t lo hi || rows.isEmpty then none else some rows.sum

/-! ### Elements -/

/-- A scale byte of a row at a position; none where the operand has no block scaling. -/
def Side.scale (s : Side) (m : Mem) (core base kLen row k : Nat) : Option Nat :=
  if s.sc = 0 then none else some (locByte m core (base + s.scOff + row * ceilDiv kLen 32 + k / 32)).toNat

/-- `w` bits of a row that begins at a local address. -/
def rowBits (m : Mem) (core at_ bit w : Nat) : Nat := fld (leNat (locBytes m core (at_ + bit / 8) (w / 8 + 2))) (bit % 8) w

/-- The tile of a stream that a step holds stationary (07 R202): none on an error of 07 R205. -/
def Side.tile (s : Side) (m : Mem) (core base kt panel t : Nat) : Option (List (Option Nat)) :=
  let e := s.entry panel t
  let n := fld e 0 16
  decodeStream (fmtW s.fmt) (64 * kt) (locBytes m core (base + s.off + fld e 32 32) (ceilDiv (n * (fmtW s.fmt + 6)) 8)) n

/-- The code at a row and a K position, absent where the sparse format holds none. `tile` is the decoded stream. -/
def Side.code (s : Side) (m : Mem) (core base kt kLen : Nat) (tile : List (Option Nat)) (row k : Nat) : Option Nat :=
  let w := fmtW s.fmt
  let dense := rowBits m core (base + s.off + k / kt * s.ps * 512 + row * s.rowBytes kt) (w * (k % kt)) w
  match s.sp with
  | 0 => some dense
  | 3 => if bitmapBit s.table kLen (row / 64) (k / 64) then some dense else none
  | 4 => (tile[row % 64 * kt + k % kt]?).getD none
  | _ =>
    let j := k / (2 * kt)
    let q := k % (2 * kt) / 4
    let p := k % 4
    let at_ := base + s.off + j * s.ps * 512 + row * s.rowBytes kt
    let meta_ := base + s.moff + j * s.ms kt + row * s.q kt
    if s.sp = 1 then
      let ix := rowBits m core meta_ (4 * q) 4
      if ix % 4 = p then some (rowBits m core at_ (2 * q * w) w)
      else if ix / 4 = p then some (rowBits m core at_ ((2 * q + 1) * w) w) else none
    else if rowBits m core meta_ (2 * q) 2 = p then some (rowBits m core at_ (q * w) w) else none

/-- An integer code's value (08 R234). -/
def intCode (fmt : Nat) (sign : Bool) (v : Nat) : Int :=
  let w := fmtW fmt
  if sign && decide (v ≥ 2 ^ (w - 1)) then (v : Int) - 2 ^ w else v

/-- One product and its scales (08 R236, R237). -/
def scaled (p : Num) (sa sb : Option Nat) : Num :=
  if sa = some 255 ∨ sb = some 255 then .nan
  else scaleNum ((sa.map fun (x : Nat) => (x : Int) - 127).getD 0 + (sb.map fun (x : Nat) => (x : Int) - 127).getD 0) p

/-- What the array reads in a step of one element: its products, or the integer they add. -/
def elementStep (mem : Mem) (core : Nat) (x : MxEntry) (lo hi : Nat) (tile : List (Option Nat)) (m n : Nat) : List Num × Int :=
  let b := x.bytes
  let sa := sideA b x.ameta
  let sb := sideB b x.bmeta
  let kt := mxKt b
  let kl := mxK b
  (List.range (hi - lo)).foldl (fun (st : List Num × Int) i =>
    let kk := lo + i
    match sa.code mem core x.base kt kl tile m kk, sb.code mem core x.base kt kl tile n kk with
    | some av, some bv =>
      if isIntFmt sa.fmt then (st.1, st.2 + intCode sa.fmt sa.sign av * intCode sb.fmt sb.sign bv)
      else
        let p := mulE (decodeNum (fmtOf sa.fmt) av) (decodeNum (fmtOf sb.fmt) bv)
        (st.1 ++ [scaled p (sa.scale mem core x.base kl m kk) (sb.scale mem core x.base kl n kk)], st.2)
    | _, _ => st) ([], 0)

/-- The operand that may hold a structured or unstructured tile stationary, with its rows of a block. -/
def stationary (x : MxEntry) (blk : Nat) : Side × Nat × Nat :=
  let (m, nm, n, nn) := blockBox x.bytes blk
  if mxStat x.bytes = 0 then (sideB x.bytes x.bmeta, n, nn) else (sideA x.bytes x.ameta, m, nm)

/-- The decoded tile of a step; none on a metadata error of 07 R205. A skipped step reads none. -/
def stepTile (mem : Mem) (core : Nat) (x : MxEntry) (step : Nat) : Option (List (Option Nat)) :=
  let b := x.bytes
  let (s, first, n) := stationary x (step / blockSlots b)
  let (lo, hi) := stepK b (step % blockSlots b)
  if (stepLen x step).isNone || mxStat b == 1 then some []
  else if s.sp = 4 then s.tile mem core x.base (mxKt b) (lo / mxKt b) (first / 64)
  else if s.sp = 1 then
    let bad := (List.range n).any fun r => (List.range (ceilDiv (hi - lo) 4)).any fun q =>
      let ix := rowBits mem core (x.base + s.moff + lo / (2 * mxKt b) * s.ms (mxKt b) + (first + r) * s.q (mxKt b)) (4 * q) 4
      decide (ix / 4 ≤ ix % 4)
    if bad then none else some []
  else some []

/-- Whether a step holds a tile that the feeders must decode first (07 R203). -/
def needsDecode (x : MxEntry) (step : Nat) : Bool :=
  mxStat x.bytes != 1 && (stationary x (step / blockSlots x.bytes)).1.sp == 4 && (stepLen x step).isSome

/-- The value bytes and scales that a step reads of a row of a dense or bitmap operand: of the 64-wide K tiles that are present, and
wanted, alone (07 R198, R199), and nothing at or beyond K. -/
def Side.tileReads (s : Side) (kt kLen lo hi row : Nat) (wanted : Nat → Bool) : List (Nat × Nat) :=
  (List.range (ceilDiv hi 64 - lo / 64)).flatMap fun i =>
    let j := lo / 64 + i
    let k0 := max lo (64 * j)
    let n := min hi (64 * j + 64) - k0
    if !wanted j || !s.holds kLen (row / 64) j then []
    else
      (s.off + k0 / kt * s.ps * 512 + row * s.rowBytes kt + k0 % kt * fmtW s.fmt / 8, ceilDiv (n * fmtW s.fmt) 8) ::
        s.scaleReads kLen k0 n row

/-- What a step reads of a row of a structured operand: its kept values, their index bits and scales (07 R196). -/
def Side.groupReads (s : Side) (kt kLen lo hi row : Nat) : List (Nat × Nat) :=
  let j := lo / (2 * kt)
  let groups := ceilDiv (hi - lo) 4
  let kept := if s.sp = 1 then 2 else 1
  (s.off + j * s.ps * 512 + row * s.rowBytes kt, ceilDiv (kept * groups * fmtW s.fmt) 8) ::
    (s.moff + j * s.ms kt + row * s.q kt, ceilDiv (2 * kept * groups) 8) :: s.scaleReads kLen lo (hi - lo) row

/-- The local bytes that a step reads of an operand: rows `first` to `first + n - 1`. `wanted` tells the K tiles that it streams. -/
def Side.reads (s : Side) (kt kLen lo hi first n : Nat) (wanted : Nat → Bool) : List (Nat × Nat) :=
  let rows := fun (g : Nat → List (Nat × Nat)) => (List.range n).flatMap fun r => g (first + r)
  match s.sp with
  | 4 =>
    let e := s.entry (lo / kt) (first / 64)
    (s.off + fld e 32 32, ceilDiv (fld e 0 16 * (fmtW s.fmt + 6)) 8) :: rows (s.scaleReads kLen lo (hi - lo))
  | 1 | 2 => rows (s.groupReads kt kLen lo hi)
  | _ => rows fun r => s.tileReads kt kLen lo hi r wanted

/-- Everything that a step reads of the operands A and B: nothing where it is skipped (07 R200). Under output-stationary only K tiles
present in both are streamed (07 R199). -/
def mxReads (x : MxEntry) (step : Nat) : List (Nat × Nat) :=
  let b := x.bytes
  let (m, nm, n, nn) := blockBox b (step / blockSlots b)
  let (lo, hi) := stepK b (step % blockSlots b)
  let sa := sideA b x.ameta
  let sb := sideB b x.bmeta
  let kl := mxK b
  if (stepLen x step).isNone then []
  else
    (sa.reads (mxKt b) kl lo hi m nm fun j => mxStat b != 1 || sb.holds kl (n / 64) j) ++
      sb.reads (mxKt b) kl lo hi n nn fun j => mxStat b != 1 || sa.holds kl (m / 64) j

/-- An extent of the descriptor's object holds a word with an uncorrectable error (05 R139). -/
def anyBad (f : Fab) (core : Nat) (x : MxEntry) (es : List (Nat × Nat)) : Bool := es.any fun e => locBad f.mem core (x.base + e.1) e.2

/-- Extents of the array's local memory take its wide port (05 R135). -/
def arrayBeats (f : Fab) (core base : Nat) (es : List (Nat × Nat)) : Fab :=
  wideBeats f (es.map fun e => ({ noLoc with kind := 2, core := core, off := base + e.1 }, e.2))

/-- The array reads extents of the descriptor's object: single-bit errors there are corrected (05 R139). -/
def seeAll (f : Fab) (core : Nat) (x : MxEntry) (es : List (Nat × Nat)) : Fab :=
  es.foldl (fun f e => locSeen f core (x.base + e.1) e.2) (arrayBeats f core x.base es)

/-! ### The output block -/

/-- Panel, row and position of an element in C and D. -/
def outPlace (b : List Byte) (m n : Nat) : Nat × Nat × Nat := if mxStat b = 2 then (m / 64, n, m % 64) else (n / 64, m, n % 64)

def accKey (m n : Nat) : Nat := m * 4096 + n

/-- The initial accumulator (06 R182 stage 1, 08 R241). -/
def accStart (mem : Mem) (core : Nat) (x : MxEntry) (m n : Nat) : Acc :=
  let b := x.bytes
  let zeroF : Num := .fin false 0 0
  if !mxCsrc b then { c := zeroF, ps := [], i := 0 }
  else
    let (j, r, p) := outPlace b m n
    let fm := mxOfmt b
    let v := rowBits mem core (x.base + outAt b (mxCoff b) j r) (p * fmtW fm) (fmtW fm)
    if isIntFmt fm then
      let c := intCode fm (mxOsign b) v
      if isIntFmt (mxAfmt b) then { c := zeroF, ps := [], i := c } else { c := ofInt c 0, ps := [], i := 0 }
    else { c := decodeNum (fmtOf fm) v, ps := [], i := 0 }

/-- The elements of a block. -/
def blockElems (b : List Byte) (blk : Nat) : List (Nat × Nat) :=
  let (m, nm, n, nn) := blockBox b blk
  (List.range nm).flatMap fun i => (List.range nn).map fun j => (m + i, n + j)

/-- A block is open from its first step. -/
def openBlock (mem : Mem) (core : Nat) (x : MxEntry) (blk : Nat) : MxEntry :=
  if x.isOpen then x
  else { x with
    isOpen := true
    acc := (blockElems x.bytes blk).foldl (fun t e => tput t (accKey e.1 e.2) (accStart mem core x e.1 e.2)) [] }

/-- The products are added one by one, each sum rounded, in an order the manual leaves open (06 R183, 08 R242; log 15). -/
def sumProducts (seed at_ : Nat) (c : Num) (ps : List Num) : Num :=
  let keyed := orderBy (fun p q => decide (p.1 ≤ q.1)) (ps.mapIdx fun i p => (Config.orderKey seed (at_ * 2 ^ 17 + i), p))
  keyed.foldl (fun s p => roundExt (addE s p.2)) c

/-- The special-function source that the descriptor pinned (06 R184). -/
def pinnedSf (f : Fab) (core : Nat) (x : MxEntry) : SfSrc :=
  let t := mxTable x.bytes
  if t < 8 then .shipped t
  else .image (((tfind f.eng.sft (sftKey (dieOfCore core) t)).map fun y => y.bytes x.bank).getD [])

/-- Stages 2 to 7 of 06 R182 for one element: its code in OFMT and the flags. -/
def epilogue (f : Fab) (core : Nat) (x : MxEntry) (a : Acc) (m n : Nat) : Nat × BitVec 6 :=
  let b := x.bytes
  let v := if isIntFmt (mxAfmt b) then roundExt (addE (ofInt a.i 0) a.c) else sumProducts f.free (accKey m n) a.c a.ps
  let v := roundExt (mulE v (s32 (mxTscale b)))
  let v := if mxBiasEn b then
      roundExt (addE v (s32 (leNat (locBytes f.mem core (x.base + mxBiasOff b + 4 * n) 4)))) else v
  let (v, sat) := if mxSfEn b then sfEval (pinnedSf f core x) .ext v else (v, 0)
  let fm := mxOfmt b
  if isIntFmt fm then
    let w := fmtW fm
    let (lo, hi) : Int × Int := if mxOsign b then (-(2 ^ (w - 1)), 2 ^ (w - 1) - 1) else (0, 2 ^ w - 1)
    let (y, fl) := encodeInt lo hi 0 v
    ((y % 2 ^ w).toNat, fl ||| (sat &&& fSfSat))
  else
    let (c, fl) := encodeNum (fmtOf fm) 0 false v
    (c, fl ||| (sat &&& fSfSat))

/-- Bytes of D that R160 leaves open: those that the operands of this descriptor or of another in flight cover. -/
def openBytes (f : Fab) (core : Nat) (x : MxEntry) (a : Nat) : Bool :=
  meets (inExtents x.bytes x.ameta x.bmeta) a ||
  (arrayOf f core).queue.any fun y => y.id != x.id && y.accepted &&
    meets (allExtents y.bytes y.ameta y.bmeta |>.map fun e => (y.base + e.1, e.2)) (x.base + a) &&
    !meets [(y.base + mxDoff y.bytes, outExtent y.bytes)] (x.base + a)

/-- Bytes of one row of D: the positions written over what the row's last byte held; open bytes are free (log 18). -/
def rowOut (f : Fab) (core : Nat) (x : MxEntry) (j r : Nat) (codes : List Nat) : List Byte :=
  let w := fmtW (mxOfmt x.bytes)
  let at_ := outAt x.bytes (mxDoff x.bytes) j r
  let n := ceilDiv (codes.length * w) 8
  let old := leNat (locBytes f.mem core (x.base + at_) n)
  let bits := packBits w codes + old / 2 ^ (codes.length * w) * 2 ^ (codes.length * w)
  (bytesLE n bits).mapIdx fun i v => if openBytes f core x (at_ + i) then (Config.freeWord (f.free + at_ + i)).truncate 8 else v

/-- A descriptor stops after its checks have passed (06 R170), with `closed` of its blocks closed. -/
def stopMx (k : Keel) (f : Fab) (core : Nat) (x : MxEntry) (closed code : Nat) : Fab :=
  refuseMx k (freeRest f core x closed) core x code

/-- A block closes: every element passes the epilogue once and D is written (06 R173, R182); writes whose stamp has gone stale are dropped and
counted (13 R395). Numeric flags are recorded, but for
a descriptor with K 0 (06 R192). -/
def closeBlock (k : Keel) (f : Fab) (core : Nat) (x : MxEntry) (blk : Nat) : Fab :=
  let b := x.bytes
  let (_, _, n0, nn) := blockBox b blk
  let bias := if mxBiasEn b then [(mxBiasOff b + 4 * n0, 4 * nn)] else []
  let code := fun (m n : Nat) => epilogue f core x (tgetD x.acc (accKey m n) { c := .fin false 0 0, ps := [], i := 0 }) m n
  let rows : List (Nat × Nat × List (Nat × BitVec 6)) := (blockRows b blk).map fun (j, r, n) =>
    (j, r, (List.range n).map fun p => if mxStat b = 2 then code (64 * j + p) r else code r (64 * j + p))
  let writes := rows.map fun (j, r, cs) => (outAt b (mxDoff b) j r, rowOut f core x j r (cs.map Prod.fst))
  let flags := rows.foldl (fun a (_, _, cs) => cs.foldl (fun a c => a ||| c.2) a) (0 : BitVec 6)
  let badWrite := writes.any fun w => locBadWrite f.mem core (x.base + w.1) (w.2.map some)
  if anyBad f core x bias || badWrite then stopMx k f core x blk 0x0208
  else
    let f := arrayBeats (seeAll f core x bias) core x.base (writes.map fun w => (w.1, w.2.length))
    let f := writes.foldl (fun f w => if roleOf f (bindRole core x.part) ≠ x.stamp then roleDrop f (dieOfCore core) x.part 1 else
      let loc : Loc := { noLoc with kind := 2, part := x.part, core := core, off := x.base + w.1 }
      loseResv (onMem f fun m => locWrite m core (x.base + w.1) (w.2.map some)) loc w.2.length noKeep) f
    let f := if mxK b = 0 then f else raise f (arrayFlagKey core x.part) x.ctx flags
    let done := blk + 1 == blockCount b
    modEntry (spend f (mxDoff b + outExtent b + 1)) core x.id fun x => { x with isOpen := false, acc := [], finished := done }

/-! ### Arbitration (06 R177, 14 R404, R405) -/

/-- Who counts as one source for the order of 06 R160: a sub-core, the cluster's routing engine, a queue. -/
def srcKey : EngSrc → Nat × Nat
  | .group gid => (0, gid / 16)
  | .routing c _ _ => (1, c)
  | .command q _ => (2, q)

/-- An entry whose next step is ready. The bank of one whose context is torn down or reset is free (14 R405). -/
def mxReady (k : Keel) (f : Fab) (q : List MxEntry) (x : MxEntry) : Bool :=
  x.accepted && !x.finished && x.fault == 0 && decide (x.step < mxSteps x.bytes) && working k f x.part x.ctx &&
  (x.decoded || !needsDecode x x.step) &&
  (x.isOpen || (!(q.any fun y => y.level == x.level && y.isOpen && !y.finished && !resetting f y.part && !stoppedCtx f y.ctx) &&
    !(q.any fun y => decide (y.id < x.id) && srcKey y.src == srcKey x.src && y.level == x.level && y.accepted && !y.finished &&
      !y.isOpen && y.step == 0)))

def mxShape (b : List Byte) : Nat × Nat := (mxStat b, mxClass b)

/-- Bytes of C that an open block's first step reads: the positions within the block alone (06 R165). -/
def startReads (x : MxEntry) (blk : Nat) : List (Nat × Nat) :=
  let b := x.bytes
  if !mxCsrc b || x.isOpen then []
  else (blockRows b blk).map fun (j, r, n) => (outAt b (mxCoff b) j r, ceilDiv (n * fmtW (mxOfmt b)) 8)

/-- Entries whose next step would meet an error of its metadata or a bad word stop, unperformed (07 R205, 06 R170). -/
def stopFaulty (k : Keel) (f : Fab) (core : Nat) : Fab :=
  let q := (arrayOf f core).queue
  (q.filter fun x => mxReady k f q x).foldl (fun f x =>
    let closed := x.step / blockSlots x.bytes
    if (stepTile f.mem core x x.step).isNone then stopMx k f core x closed 0x0302
    else if anyBad f core x (mxReads x x.step) then stopMx k f core x closed 0x0208 else f) f

/-- Working beats of a step (06 R172, R192); none where it is skipped (06 R175). -/
def stepBeats (x : MxEntry) (step : Nat) : Option Nat :=
  if mxK x.bytes = 0 then some (ceilDiv (blockElems x.bytes (step / blockSlots x.bytes)).length 64)
  else (stepLen x step).map fun l => mxCost x.bytes * max l 64

def gapLen (k : Keel) : Nat := (k.image.map (·.power.gapLen)).getD 64

/-- A gap begins when a step ends and none goes on; one under way continues (06 R186, R187). -/
def enterGap (k : Keel) (a : MxArray) : MxArray :=
  if a.inGap || a.last.isNone then a
  else { a with inGap := true, gapBeats := 0, ramp := none, ballast := gapLen k != 0 }

/-- Beats of an array by what they did, as the activity estimator counts them (17 R472): format classes 0 to 3, 4 ballast. -/
def classUp (f : Fab) (core c n : Nat) : Fab := { f with classWork := tupd f.classWork (8 * core + c) 0 (· + n) }

/-- `n` of the beats that ELAPSED has counted are gap beats with ballast, which WORK counts (06 R187, 02 R44): before the ramp-down no more
than GAP_LEN in a gap. -/
def ballastUp (k : Keel) (f : Fab) (core n : Nat) : Fab :=
  let a := arrayOf f core
  let n := if a.ramp.isSome then n else min n (gapLen k - a.gapBeats)
  modArray (classUp (worked f 1 core n) core 4 n) core fun a => { a with gapBeats := a.gapBeats + n }

/-- A chosen step begins: gap and ballast end. A skipped one is a beat of the gap instead (07 R200). -/
def beginStep (k : Keel) (f : Fab) (core : Nat) (x : MxEntry) : Fab :=
  let f := modEntry f core x.id fun x => { x with decoded := false }
  modArray f core fun a =>
    let a := if (stepBeats x x.step).isNone then enterGap k a else { a with inGap := false, ramp := none, ballast := false }
    { a with cur := some x.id, bubble := none, last := some (mxShape x.bytes), lastCtx := tput a.lastCtx x.level x.ctx }

/-- The beats of a step that has ended count (02 R44): working beats, or the one skip beat, in which ballast may run. -/
def countStep (k : Keel) (f : Fab) (core : Nat) (x : MxEntry) : Fab :=
  match stepBeats x x.step with
  | some n => classUp (workUp f 1 core n) core (mxClass x.bytes) n
  | none =>
    let f := beatsUp f 1 core 1
    if (arrayOf f core).ballast then ballastUp k f core 1 else f

/-- The slot's owner comes first among descriptors at level 3 alone (14 R414). -/
def firstInSlot (k : Keel) (f : Fab) (core : Nat) (x : MxEntry) : Bool := x.level == 3 && ownsSlot k f (dieOfCore core) x.part

/-- The array takes its next step by 06 R177 and 14 R404: at once, after a shape-change bubble, or a gap begins. `clear` is the shape
that a bubble just ended has made room for. DESIGN CHOICE (log 66): the close of a block with K 0, which 06 R192 calls no fold step, is a step here:
it may cost a bubble, ends a gap and begins one. -/
def nextMx (k : Keel) (f : Fab) (core : Nat) (clear : Option (Nat × Nat)) (ended : Bool) : Fab :=
  let f := stopFaulty k f core
  let a := arrayOf f core
  let ready := a.queue.filter (mxReady k f a.queue)
  let pick := pickNext (firstInSlot k f core) (·.level) (·.ctx) (fun l => tgetD a.lastCtx l 1023) ready
  match pick with
  | some x =>
    if a.last.all (· == mxShape x.bytes) || clear == some (mxShape x.bytes) then beginStep k f core x
    else modArray f core fun a => { a with cur := none, bubble := some x.id }
  | none => modArray f core fun a =>
    let a := { a with cur := none, bubble := none }
    if ended then enterGap k a else a

/-! ### The rows -/

/-- Bytes that two descriptors in flight leave open to each other (06 R160). -/
def clashWith (f : Fab) (core : Nat) (x : MxEntry) : Fab :=
  (arrayOf f core).queue.foldl (fun f y =>
    if y.id = x.id || !y.accepted then f
    else
      let shift := fun (z : MxEntry) (es : List (Nat × Nat)) => es.map fun e => (z.base + e.1, e.2)
      let dx := (x.base + mxDoff x.bytes, outExtent x.bytes)
      let dy := (y.base + mxDoff y.bytes, outExtent y.bytes)
      let ix := shift x (inExtents x.bytes x.ameta x.bmeta)
      let iy := shift y (inExtents y.bytes y.ameta y.bmeta)
      let free := fun (f : Fab) (d : Nat × Nat) (os : List (Nat × Nat)) =>
        let bytes := (List.range d.2).map fun i =>
          if meets os (d.1 + i) then some ((Config.freeWord (f.free + i)).truncate 8 : Byte) else none
        if bytes.any (·.isSome) then onMem (spend f d.2) fun m => locPoke m core d.1 bytes else f
      free (free f dx iy) dy ix) f

/-- What the checks of a descriptor find: its counter, where OBJ begins in the local memory, and the metadata read. -/
structure MxFound where
  phys : Nat
  base : Nat
  am : List Byte
  bm : List Byte
  deriving DecidableEq, Repr

/-- Checks 4 and 5 of 06 R168, with what the array reads for them (07 R200, R204). A no-op makes neither (06 R191), but a template makes
both whatever its capacity (07 R214). -/
def mxPlaces (f : Fab) (core : Nat) (b : List Byte) (o : MemObj) (phys : Nat) (template : Bool) : Except Nat MxFound :=
  let share := shareOf f o core
  let base := (share.map fun s => s.first * 16384).getD 0 + o.base
  let room := min o.len ((share.map fun s => s.units * 16384 - o.base).getD 0)
  let fits := fun (es : List (Nat × Nat)) => es.all fun e => decide (e.1 + e.2 ≤ room)
  let kt := mxKt b
  let kl := mxK b
  let sa := sideA b []
  let sb := sideB b []
  let tables := [(sa.moff, sa.tableLen kt kl), (sb.moff, sb.tableLen kt kl)]
  let am := locBytes f.mem core (base + sa.moff) (sa.tableLen kt kl)
  let bm := locBytes f.mem core (base + sb.moff) (sb.tableLen kt kl)
  let badDir := fun (s : Side) => s.sp == 4 && (List.range (s.table.length / 8)).any fun i =>
    let e := numAt s.table (8 * i) 8
    fld e 16 16 != 0 || fld e 32 32 % 32 != 0
  if !template && (mxM b == 0 || mxN b == 0) then .ok { phys := phys, base := base, am := [], bm := [] }
  else if [sa.off, sb.off, mxCoff b, mxDoff b].any (· % 512 != 0) || sa.moff % 32 != 0 || sb.moff % 32 != 0 || mxBiasOff b % 4 != 0 then
    .error 0x0204
  else if !fits tables then .error 0x0205
  else if tables.any (fun (t : Nat × Nat) => locBad f.mem core (base + t.1) t.2) then .error 0x0208
  else if badDir (sideA b am) || badDir (sideB b bm) then .error 0x0302
  else if !fits (allExtents b am bm) then .error 0x0205
  else .ok { phys := phys, base := base, am := am, bm := bm }

/-- Checks 1 to 5 of 06 R168 for a descriptor of a context on a core's array. -/
def mxCheck (f : Fab) (part ctx core : Nat) (b : List Byte) (template : Bool) : Except Nat MxFound :=
  match translate f ctx (mxCid b) .sig with
  | none => .error 0x0401
  | some phys =>
    if !mxFields b then .error 0x0301
    else match findObj f part (mxObj b) with
      | .error e => .error e
      | .ok o =>
        if o.ref.dying then .error 0x0202
        else if !o.r || !o.w || o.kind != 2 then .error 0x0203
        else mxPlaces f core b o phys template

/-- An accepted entry takes its reference and pins its special-function bank (06 R184). One accepted while its partition owns the slot
runs at level 3 (14 R414). -/
def admitMx (k : Keel) (f : Fab) (core : Nat) (x : MxEntry) (r : MxFound) : Fab :=
  let b := x.bytes
  let empty := mxM b == 0 || mxN b == 0
  let f := modEntry (takeDev f .memory (mxObj b)) core x.id fun x => { x with
    accepted := true, stamp := roleOf f (bindRole core x.part), level := if ownsSlot k f (dieOfCore core) x.part then 3 else x.level, phys := r.phys, base := r.base, refs := [(.memory, mxObj b)], ameta := r.am, bmeta := r.bm, finished := empty
    bank := ((tfind f.eng.sft (sftKey (dieOfCore core) (mxTable b))).map (·.active)).getD 0 }
  match findEntry f core x.id with
  | some y =>
    let tables := fun (s : Side) => [(s.moff, s.tableLen (mxKt b) (mxK b))]
    if empty then f else clashWith (seeAll f core y (tables (sideA b []) ++ tables (sideB b []))) core y
  | none => f

/-- MATRIX_DESCRIPTOR_ACCEPT (06 R168): the oldest entry not yet accepted. A routing engine's launch whose stamp has gone stale
is dropped at the queue (13 R395). -/
def runMxAccept (k : Keel) (f : Fab) (core : Nat) : Fab :=
  match (arrayOf f core).queue.find? fun (x : MxEntry) => !x.accepted && working k f x.part x.ctx with
  | none => f
  | some x =>
    let stale := match x.src with
      | .routing .. => roleOf f (bindRole core x.part) != x.stamp
      | _ => false
    if !coreOn k core then f
    else if stale then leaveArray k (roleDrop f (dieOfCore core) x.part 3) core x
    else match mxCheck f x.part x.ctx core x.bytes false with
      | .error e => refuseMx k f core x e
      | .ok r =>
        if mxM x.bytes != 0 && mxN x.bytes != 0 && mxSfEn x.bytes && (sftFor k f (dieOfCore core) (mxTable x.bytes) x.part).isNone then
          refuseMx k f core x 0x0108
        else if refsPast f [(.memory, mxObj x.bytes)] then refuseMx k f core x 0x0603
        else admitMx k f core x r

/-- TILE_DECODE_COMPLETE (07 R203): the first accepted entry whose next step waits for its tile. -/
def runTileDecode (k : Keel) (f : Fab) (core : Nat) : Fab :=
  let a := arrayOf f core
  let nextOf := fun (x : MxEntry) => if a.cur = some x.id then x.step + 1 else x.step
  match a.queue.find? fun x => x.accepted && !x.finished && !x.decoded && decide (nextOf x < mxSteps x.bytes) && needsDecode x (nextOf x) with
  | none => f
  | some x => if coreOn k core then modEntry f core x.id fun x => { x with decoded := true } else f

/-- The step in progress has its effect: its products join the accumulators, and the last step of a block closes it. -/
def performStep (k : Keel) (f : Fab) (core : Nat) (x : MxEntry) : Fab :=
  let b := x.bytes
  let blk := x.step / blockSlots b
  let i := x.step % blockSlots b
  if anyBad f core x (startReads x blk) then stopMx k f core x blk 0x0208
  else
    let tile := (stepTile f.mem core x x.step).getD []
    let y := openBlock f.mem core x blk
    let (lo, hi) := stepK b i
    let add := fun (t : Table Acc) (e : Nat × Nat) =>
      let (ps, n) := elementStep f.mem core y lo hi tile e.1 e.2
      tmod t (accKey e.1 e.2) fun a => { a with ps := a.ps ++ ps, i := a.i + n }
    let y := { y with acc := (blockElems b blk).foldl add y.acc, step := x.step + 1 }
    let f := modEntry (seeAll f core x (startReads x blk ++ mxReads x x.step)) core x.id fun _ => y
    if i + 1 == blockSlots b then closeBlock k f core y blk else f

/-- FOLD_STEP_END (06 R172): the step in progress ends, and the array arbitrates. A stopped descriptor's block does not close
(06 R170). -/
def runFoldStep (k : Keel) (f : Fab) (core : Nat) : Fab :=
  let a := arrayOf f core
  if !coreOn k core || a.bubble.isSome || cutOn k core then f
  else match a.cur.bind (findEntry f core) with
    | none => nextMx k f core none a.cur.isSome
    | some x =>
      let f := countStep k f core x
      let f := if resetting f x.part || stoppedCtx f x.ctx then f else performStep k f core x
      nextMx k (modArray f core fun a => { a with cur := none }) core none true

/-- SHAPE_CHANGE_BUBBLE_END (06 R179, 14 R405): 64 beats without work have passed. -/
def runBubbleEnd (k : Keel) (f : Fab) (core : Nat) : Fab :=
  let a := arrayOf f core
  match a.bubble.filter fun _ => !cutOn k core with
  | none => f
  | some id =>
    let shape := (findEntry f core id).map fun x => mxShape x.bytes
    nextMx k (modArray (beatsUp f 1 core 64) core fun a => { a with bubble := none }) core shape true

def ballastFraction (k : Keel) : Nat := (k.image.map (·.power.fraction)).getD 48

/-- GAP_LEN_EXPIRY (06 R188): GAP_LEN ballast beats have run, and the ramp-down begins; of a fraction of zero there is none. -/
def runGapExpiry (k : Keel) (f : Fab) (core : Nat) : Fab :=
  let a := arrayOf f core
  if a.inGap && a.ballast && a.ramp.isNone && a.bubble.isNone then
    let rest := gapLen k - a.gapBeats
    modArray (ballastUp k (beatsUp f 1 core rest) core rest) core fun a =>
      if ballastFraction k = 0 then { a with ballast := false } else { a with ramp := some (ballastFraction k) }
  else f

/-- BALLAST_RAMP_STEP (06 R188). -/
def runRampStep (f : Fab) (core : Nat) : Fab :=
  match (arrayOf f core).ramp with
  | none => f
  | some n =>
    modArray f core fun a => if n ≤ 1 then { a with ramp := none, ballast := false } else { a with ramp := some (n - 1) }

/-- MATRIX_COMPLETE (06 R180): INC is added to the completion counter, stamped with the core's binding (13 R395), and the entry is free. -/
def runMxComplete (k : Keel) (f : Fab) (core : Nat) : Fab :=
  match (arrayOf f core).queue.find? fun (x : MxEntry) => x.finished && !resetting f x.part && !stoppedCtx f x.ctx with
  | none => f
  | some x =>
    let reply := match x.src with
      | .command q j => CntReply.command q j
      | _ => .none
    leaveArray k (sendCnt f x.phys .add (mxInc x.bytes) (unitLast 2 x.ctx core) reply (some (bindRole core x.part, x.stamp))) core x

/-- MATRIX_DESCRIPTOR_ACCEPT (06 R168). -/
def execMatrixDescriptorAccept (core : Nat) (s : State) : Out := onFab s fun k f => runMxAccept k f core
/-- TILE_DECODE_COMPLETE (07 R203). -/
def execTileDecodeComplete (core : Nat) (s : State) : Out := onFab s fun k f => runTileDecode k f core
/-- FOLD_STEP_END (06 R172). -/
def execFoldStepEnd (core : Nat) (s : State) : Out := onFab s fun k f => runFoldStep k f core
/-- GAP_LEN_EXPIRY (06 R188). -/
def execGapLenExpiry (core : Nat) (s : State) : Out := onFab s fun k f => runGapExpiry k f core
/-- BALLAST_RAMP_STEP (06 R188). -/
def execBallastRampStep (core : Nat) (s : State) : Out := onFab s fun _ f => runRampStep f core
/-- SHAPE_CHANGE_BUBBLE_END (06 R179). -/
def execShapeChangeBubbleEnd (core : Nat) (s : State) : Out := onFab s fun k f => runBubbleEnd k f core
/-- MATRIX_COMPLETE (06 R180). -/
def execMatrixComplete (core : Nat) (s : State) : Out := onFab s fun k f => runMxComplete k f core

end Sys2Proof.Machine
end

