-- ==== Sys2Proof/Machine/Route.lean ====
section
/-!
DEFINITION. Route.lean: the routing engines (07 R211 to R229, R547): acceptance, the choice of experts, capacities, lists,
template launches and exchange packets.
-/
namespace Sys2Proof.Machine

/-! ### The routing descriptor (07 R211) -/

def rtInc (b : List Byte) : Nat := fld (cmdWord b 0) 48 16
def rtCid (b : List Byte) : Nat := fld (cmdWord b 0) 32 14
def rtTopk (b : List Byte) : Nat := fld (cmdWord b 0) 20 4
def rtPolicy (b : List Byte) : Nat := fld (cmdWord b 0) 18 2
def rtNorm (b : List Byte) : Nat := fld (cmdWord b 0) 16 2
def rtSfmt (b : List Byte) : Nat := fld (cmdWord b 0) 14 2
def rtCaptab (b : List Byte) : Bool := bitAt (cmdWord b 0) 13
def rtLaunch (b : List Byte) : Bool := bitAt (cmdWord b 0) 12
def rtExch (b : List Byte) : Bool := bitAt (cmdWord b 0) 11
def rtTokens (b : List Byte) : Nat := fld (cmdWord b 8) 47 17
def rtExperts (b : List Byte) : Nat := fld (cmdWord b 8) 34 13
def rtCap (b : List Byte) : Nat := fld (cmdWord b 8) 17 17
def rtSstride (b : List Byte) : Nat := numAt b 28 4
def rtLstride (b : List Byte) : Nat := numAt b 60 4
def rtOvfMax (b : List Byte) : Nat := numAt b 92 4
def rtScoreBytes (b : List Byte) : Nat := if rtSfmt b = 0 then 4 else 2
def rtEmpty (b : List Byte) : Bool := rtTokens b == 0 || rtExperts b == 0

/-- Check 2 of 07 R212. DESIGN CHOICE (log 67): an LSTRIDE that is no multiple of 32 (07 R211) fails it. -/
def rtFields (b : List Byte) : Bool :=
  fld (cmdWord b 0) 46 2 == 0 && fld (cmdWord b 0) 24 8 == 0 && fld (cmdWord b 0) 0 11 == 0 && fld (cmdWord b 8) 0 17 == 0 &&
  numAt b 24 4 == 0 && numAt b 56 4 == 0 && numAt b 88 4 == 0 && cmdWord b 112 == 0 && cmdWord b 120 == 0 &&
  decide (1 ≤ rtTopk b ∧ rtTopk b ≤ 8) && decide (rtPolicy b ≤ 2) && decide (rtNorm b ≤ 2) && decide (rtSfmt b ≤ 2) &&
  decide (rtTokens b ≤ 65536) && decide (rtExperts b ≤ 4096) && decide (rtCap b ≤ 65536) && rtLstride b % 32 == 0 &&
  (rtCaptab b || cmdWord b 32 == 0) && (rtLaunch b || cmdWord b 96 == 0) && (rtExch b || cmdWord b 104 == 0)

/-! ### The exchange sub-descriptor (07 R224) -/

def xdDest (s : List Byte) : Nat := fld (cmdWord s 0) 0 4
def xdTag (s : List Byte) : Nat := numAt s 4 4
def xdRowb (s : List Byte) : Nat := numAt s 24 4
def xdAstride (s : List Byte) : Nat := numAt s 28 4
def xdXmax (s : List Byte) : Nat := numAt s 40 4
def xdPstride (s : List Byte) : Nat := numAt s 44 4
def xdRxinc (s : List Byte) : Nat := fld (cmdWord s 48) 48 16
def xdRxcid (s : List Byte) : Nat := fld (cmdWord s 48) 32 14
def xdRx (s : List Byte) (d : Nat) : Word64 := cmdAddr s (56 + 8 * d)
def rowb32 (s : List Byte) : Nat := 32 * ceilDiv (xdRowb s) 32
/-- H and the length of a packet of n entries (07 R225). -/
def packetHead (n : Nat) : Nat := 32 * ceilDiv (32 + 16 * n) 32
def packetLen (s : List Byte) (n : Nat) : Nat := packetHead n + n * rowb32 s

def xdFields (s : List Byte) : Bool :=
  fld (cmdWord s 0) 4 28 == 0 && decide (1 ≤ xdDest s) && xdPstride s % 512 == 0 && fld (cmdWord s 48) 46 2 == 0 &&
  fld (cmdWord s 48) 0 32 == 0 && cmdWord s 56 == 0 && cmdWord s 184 == 0 &&
  (List.range 15).all fun i => decide (i + 1 ≤ xdDest s) || xdRx s (i + 1) == 0

/-! ### Runs -/

def findRun (f : Fab) (cluster id : Nat) : Option RtRun := (tfind f.eng.rt cluster).bind fun e => e.runs.find? (·.id == id)

/-- A written extent of the run and what the checks found of each named object. -/
def rtPlace (r : RtRun) (i : Nat) : Loc := r.places.getD i noLoc
def rtTable (r : RtRun) (i : Nat) : List Byte := r.tables.getD i []

/-- Steps 1 to 5 of 05 R130 for an object that the run names: a written one is not of kind 4, and a local one resolves to the
issuing group's core, which a command does not have (05 R544). -/
def rtOperand (f : Fab) (r : RtRun) (u : Use) (a : Word64) (align : Nat) : Except Nat (Loc × Nat) :=
  let noCore := match r.src with
    | .group _ => false
    | _ => true
  match findObj f r.part (slotOf a) with
  | .error e => .error e
  | .ok o =>
    if (decide (u = .store) && o.kind == 4) || (noCore && o.kind == 2) then .error 0x0203
    else operand f r.part r.core u a align

/-- Steps 1 to 5 on a list of operands in order: none for one that is not used. -/
def rtOperands (f : Fab) (r : RtRun) : List (Use × Word64 × Nat × Bool) → Except Nat (List (Loc × Nat))
  | [] => .ok []
  | (u, a, al, used) :: rest =>
    match if used then rtOperand f r u a al else .ok (noLoc, 0) with
    | .error e => .error e
    | .ok x => match rtOperands f r rest with
      | .error e => .error e
      | .ok xs => .ok (x :: xs)

/-- The objects that the descriptor names, in its order: SCORES, CAPS, IDX, WGT, COUNTS, SUMMARY, OVF, TMPL, XDESC. Their places in a run
are 0 to 8. -/
def rtNamed (b : List Byte) : List (Use × Word64 × Nat × Bool) :=
  [(.load, cmdAddr b 16, rtScoreBytes b, true), (.load, cmdAddr b 32, 4, rtCaptab b), (.store, cmdAddr b 40, 4, true),
   (.store, cmdAddr b 48, 4, true), (.store, cmdAddr b 64, 4, true), (.store, cmdAddr b 72, 32, true),
   (.store, cmdAddr b 80, 16, cmdWord b 80 != 0), (.load, cmdAddr b 96, 128, rtLaunch b), (.load, cmdAddr b 104, 64, rtExch b)]

/-- What check 3 asks of the exchange sub-descriptor: DMAP and PKT, places 9 and 10. -/
def xdNamed (s : List Byte) : List (Use × Word64 × Nat × Bool) := [(.load, cmdAddr s 8, 1, true), (.store, cmdAddr s 32, 512, true)]

/-- The slot of the object that place i of a run lies in; 11 is ASRC. -/
def rtSlot (r : RtRun) (i : Nat) : Nat :=
  let s := rtTable r 0
  slotOf (if i = 9 then cmdAddr s 8 else if i = 10 then cmdAddr s 32 else if i = 11 then cmdAddr s 16
    else (((rtNamed r.bytes)[i]?).map (·.2.1)).getD 0)

/-- A run leaves the engine and drops its references. -/
def leaveRoute (k : Keel) (f : Fab) (cluster : Nat) (r : RtRun) : Fab :=
  let f := onEng f fun e => { e with rt := tmod e.rt cluster fun a => { a with
    runs := a.runs.filter (·.id != r.id), cur := if a.cur = some r.id then none else a.cur } }
  dropAll k f r.refs (srcDie f r.src)

def reportRoute (k : Keel) (f : Fab) (cluster : Nat) (r : RtRun) (code : Nat) : Fab :=
  engineFault k f 4 cluster r.part r.ctx (engDie cluster) (rtCid r.bytes) code r.addr

/-- A run ends with a fault: it is recorded on the counter and to the context, and a command retires failed with it (05 R154, 13 R384). -/
def refuseRoute (k : Keel) (f : Fab) (cluster : Nat) (r : RtRun) (code : Nat) : Fab :=
  let f := reportRoute k f cluster r code
  let f := match r.src with
    | .command q j => actCmd f q j code
    | _ => f
  leaveRoute k f cluster r

/-- Reads for the run, requests at the engine's port (10 R307): bytes at offsets from its place i. -/
def rtRead (k : Keel) (f : Fab) (cluster : Nat) (r : RtRun) (code i : Nat) (ps : List (Nat × Nat)) : Fab :=
  let f := modRoutingRun f cluster r.id fun x => { x with readsOut := x.readsOut + 1 }
  let parts := ps.flatMap fun p => partsOf (shift (rtPlace r i) p.1) p.2
  startRead k (trainOn k f (routePort cluster) (rtSlot r i) (parts.map (·.loc))) (.route cluster r.id code) parts (engDie cluster)

/-- A write of the run at an offset from its place i; one to local memory whose stamp has gone stale is dropped and counted (13 R395). -/
def rtWrite (k : Keel) (f : Fab) (cluster : Nat) (r : RtRun) (i off : Nat) (bs : List Byte) : Fab :=
  let loc := shift (rtPlace r i) off
  let bound := r.binds.getD (loc.core % 16) 0
  if loc.kind = 2 ∧ (roleOf f (routeRole cluster r.part) ≠ r.stamp ∨ roleOf f (bindRole loc.core r.part) ≠ bound) then
    roleDrop f (dieOfCore loc.core) r.part 2
  else
    let ws := writesOf (.route cluster r.id) 0 0 loc (bs.map some)
    let f := modRoutingRun f cluster r.id fun x => { x with writesOut := x.writesOut + ws.length }
    let f := wideBeats (trainOn k f (routePort cluster) (rtSlot r i) (ws.map (·.loc))) (ws.map fun w => (w.loc, w.bytes.length))
    ws.foldl (fun f w => agentWrite k f w (engDie cluster)) f

/-! ### Acceptance (07 R212 to R214) -/

/-- Bytes of a template and its launch header (07 R222). -/
def tmplAt (t : List Byte) (e : Nat) : List Byte := slice t (128 * e) 128
def tmGather (t : List Byte) : Bool := bitAt (cmdWord t 64) 31
def tmCore (t : List Byte) : Nat := fld (cmdWord t 64) 0 4
def tmGsrc (t : List Byte) : Word64 := cmdAddr t 72
def tmGstride (t : List Byte) : Nat := numAt t 84 4
/-- The matrix descriptor with M replaced (07 R223). -/
def withM (t : List Byte) (m : Nat) : List Byte :=
  t.take 8 ++ bytesLE 8 (m * 2 ^ 51 + cmdWord t 8 % 2 ^ 51) ++ slice t 16 48

/-- 07 R214 on one template: the fault, or 0. -/
def tmplFault (k : Keel) (f : Fab) (cluster : Nat) (r : RtRun) (e : Nat) : Nat :=
  let t := tmplAt (rtTable r 2) e
  let core := 16 * cluster + tmCore t
  let b := withM t (r.caps.getD e 0)
  if fld (cmdWord t 64) 4 27 ≠ 0 ∨ numAt t 68 4 ≠ 0 ∨ numAt t 80 4 ≠ 0 ∨ !((t.drop 88).all (· == 0)) ∨ !corePresent k core then 0x0301
  else match mxCheck f r.part r.ctx core b true with
    | .error c => c
    | .ok _ =>
      if tmGather t then
        if (sideA b []).sp ≠ 0 then 0x0301
        else match operand f r.part core .load (tmGsrc t) 1 with
          | .error c => c
          | .ok (_, room) =>
            if (rtTokens r.bytes - 1) * tmGstride t + ceilDiv (mxK b * fmtW (mxAfmt b)) 8 > room then 0x0205 else 0
      else if tmGsrc t ≠ 0 ∨ tmGstride t ≠ 0 then 0x0301 else 0

/-- The receive objects of an exchange, from destination d on: kind 4, with room for a full packet (07 R224). -/
def rxPlaces (f : Fab) (r : RtRun) : List Nat → Except Nat (List (Loc × Nat))
  | [] => .ok []
  | d :: ds =>
    let s := rtTable r 0
    match findObj f r.part (slotOf (xdRx s d)) with
    | .error c => .error c
    | .ok o => if o.kind ≠ 4 then .error 0x0203 else match operand f r.part r.core .store (xdRx s d) 1 with
      | .error c => .error c
      | .ok x => if packetLen s (xdXmax s) > x.2 then .error 0x0205 else match rxPlaces f r ds with
        | .error c => .error c
        | .ok xs => .ok (x :: xs)

/-- Check 7 of 07 R212 once DMAP has been read: the places of ASRC and of the receive objects. -/
def exchPlaces (f : Fab) (r : RtRun) : Except Nat (List (Loc × Nat)) :=
  let s := rtTable r 0
  if (rtTable r 3).any (fun d => decide (d.toNat > xdDest s)) || decide (xdPstride s < packetLen s (xdXmax s)) then .error 0x0301
  else if (xdDest s - 1) * xdPstride s + packetLen s (xdXmax s) > r.rooms.getD 10 0 then .error 0x0205
  else match rtOperand f r .load (cmdAddr s 16) 1 with
    | .error c => .error c
    | .ok a =>
      if (rtTokens r.bytes - 1) * xdAstride s + xdRowb s > a.2 then .error 0x0205
      else match rxPlaces f r ((List.range (xdDest s)).map (· + 1)) with
        | .error c => .error c
        | .ok xs => .ok (a :: xs)

/-- Operands of the run have passed their checks: it keeps their places, and references on their objects (05 R132, 13 R372). -/
def holdRun (k : Keel) (f : Fab) (cluster : Nat) (r : RtRun) (found : List (Loc × Nat)) (slots : List Nat) (go : Fab → RtRun → Fab) : Fab :=
  let refs := slots.map fun s => (ObjKind.memory, s)
  if refsPast f refs then refuseRoute k f cluster r 0x0603
  else go (takeAll f refs) { r with
    places := r.places ++ found.map (·.1), rooms := r.rooms ++ found.map (·.2), refs := r.refs ++ refs }

/-- The run as it stands in its engine after a change. -/
def keepRun (f : Fab) (cluster : Nat) (r : RtRun) : Fab := modRoutingRun f cluster r.id fun _ => r

/-- The extents that a run writes, with their lengths. -/
def rtWritten (r : RtRun) : List (Loc × Nat) :=
  let b := r.bytes
  let e := rtExperts b
  let lists := (e - 1) * rtLstride b + 4 * r.caps.getD (e - 1) 0
  let s := rtTable r 0
  if rtEmpty b then []
  else
    [(rtPlace r 2, lists), (rtPlace r 3, lists), (rtPlace r 4, 4 * e), (rtPlace r 5, 32)] ++
    (if cmdWord b 80 = 0 then [] else [(rtPlace r 6, 16 * rtOvfMax b)]) ++
    (if rtExch b then [(rtPlace r 10, (xdDest s - 1) * xdPstride s + packetLen s (xdXmax s))] else [])

/-- The written extents of an accepted run overlap those of others in flight: both remember the bytes (07 R228). -/
def noteRuns (f : Fab) (r : RtRun) : Fab × RtRun :=
  let others := (f.eng.rt.flatMap (·.2.runs)).filter fun e => e.accepted && e.id != r.id
  let common := fun (e : RtRun) => allCommon (rtWritten r) (rtWritten e)
  let told := fun (y : RtRun) => if y.accepted && y.id != r.id then { y with spoilt := y.spoilt ++ common y } else y
  (onEng f fun e => { e with rt := e.rt.map fun x => (x.1, { x.2 with runs := x.2.runs.map told }) },
   { r with spoilt := others.flatMap common })

/-- Beats of acceptance that no template takes (07 R228). DESIGN CHOICE (log 67): the bytes of CAPS and DMAP together are rounded up to 512. -/
def acceptBeats (b : List Byte) : Nat :=
  if rtEmpty b then 16
  else 16 + ceilDiv ((if rtCaptab b then 4 * rtExperts b else 0) + if rtExch b then rtExperts b else 0) 512

/-- The run is accepted: it takes its stamps (13 R395). An empty one has nothing to do (07 R213). -/
def admitRoute (f : Fab) (cluster : Nat) (r : RtRun) : Fab :=
  let f := if rtLaunch r.bytes && !rtEmpty r.bytes then f else workUp f 6 cluster (acceptBeats r.bytes)
  let (f, r) := noteRuns (checkedCmd f r.src) r
  keepRun f cluster { r with
    accepted := true, phase := if rtEmpty r.bytes then 7 else 0, next := 0, inbox := []
    stamp := roleOf f (routeRole cluster r.part)
    binds := (List.range 16).map fun c => roleOf f (bindRole (16 * cluster + c) r.part) }

/-- The fifth check (07 R212), where every capacity is known. -/
def rtBounds (r : RtRun) : Bool :=
  let b := r.bytes
  let room := fun (i : Nat) => r.rooms.getD i 0
  let e := rtExperts b
  let list := (e - 1) * rtLstride b + 4 * r.caps.getD (e - 1) 0
  decide ((rtTokens b - 1) * rtSstride b + e * rtScoreBytes b ≤ room 0) && decide (list ≤ room 2) && decide (list ≤ room 3) &&
  decide (4 * e ≤ room 4) && decide (32 ≤ room 5) && (cmdWord b 80 == 0 || decide (16 * rtOvfMax b ≤ room 6)) &&
  (!rtLaunch b || decide (128 * e ≤ room 7))

/-- Check 7 begins: the sub-descriptor's fields, then DMAP is read within its object (07 R224). -/
def acceptExch (k : Keel) (f : Fab) (cluster : Nat) (r : RtRun) : Fab :=
  if !rtExch r.bytes then admitRoute f cluster r
  else if !xdFields (rtTable r 0) then refuseRoute k f cluster r 0x0301
  else if rtExperts r.bytes > r.rooms.getD 9 0 then refuseRoute k f cluster r 0x0205
  else
    let r := { r with phase := 4 }
    rtRead k (keepRun f cluster r) cluster r 0 9 [(0, rtExperts r.bytes)]

/-- Check 6, a step of acceptance at a time: as many templates, at two beats each, as 512 beats take (07 R214, R547). -/
def acceptTemplates (k : Keel) (f : Fab) (cluster : Nat) (r : RtRun) : Fab :=
  let first := if r.next = 0 then acceptBeats r.bytes else 0
  let n := min (rtExperts r.bytes - r.next) ((512 - first) / 2)
  let f := workUp f 6 cluster (first + 2 * n)
  match (((List.range n).map fun i => tmplFault k f cluster r (r.next + i)).find? (· != 0)) with
  | some c => refuseRoute k f cluster r c
  | none =>
    let r := { r with phase := 5, next := r.next + n }
    if r.next < rtExperts r.bytes then keepRun f cluster r else acceptExch k f cluster r

/-- Checks 4 and 5 once the capacities are known, then the templates are read. -/
def acceptCaps (k : Keel) (f : Fab) (cluster : Nat) (r : RtRun) : Fab :=
  let b := r.bytes
  let e := rtExperts b
  let caps := if rtCaptab b then (List.range e).map fun i => min 65536 (numAt (rtTable r 1) (4 * i) 4) else List.replicate e (rtCap b)
  let r := { r with caps := caps }
  let most := r.caps.foldl max 0
  if rtLstride b < 4 * most ∨ (rtLaunch b ∧ most > 4096) then refuseRoute k f cluster r 0x0301
  else if !rtBounds r then refuseRoute k f cluster r 0x0205
  else if rtLaunch b then
    let r := { r with phase := 3 }
    rtRead k (keepRun f cluster r) cluster r 0 7 [(0, 128 * e)]
  else acceptExch k f cluster r

/-- Check 3 has passed: an empty run is accepted (07 R213), another reads CAPS or goes on. -/
def acceptNamed (k : Keel) (f : Fab) (cluster : Nat) (r : RtRun) : Fab :=
  let b := r.bytes
  if rtEmpty b then admitRoute f cluster r
  else if !rtCaptab b then acceptCaps k f cluster r
  else if 4 * rtExperts b > r.rooms.getD 1 0 then refuseRoute k f cluster r 0x0205
  else
    let r := { r with phase := 2 }
    rtRead k (keepRun f cluster r) cluster r 0 1 [(0, 4 * rtExperts b)]

/-- Check 3 on what the descriptor names: SSTRIDE belongs to the alignment of SCORES. The sub-descriptor of an exchange is read next. -/
def acceptNames (k : Keel) (f : Fab) (cluster : Nat) (r : RtRun) : Fab :=
  let b := r.bytes
  match rtOperands f r ((rtNamed b).take 1) with
  | .error c => refuseRoute k f cluster r c
  | .ok scores =>
    if rtSstride b % rtScoreBytes b ≠ 0 then refuseRoute k f cluster r 0x0204
    else match rtOperands f r ((rtNamed b).drop 1) with
      | .error c => refuseRoute k f cluster r c
      | .ok xs =>
        holdRun k f cluster r (scores ++ xs) (((rtNamed b).filter (·.2.2.2)).map fun x => slotOf x.2.1) fun f r =>
          if !rtExch b then acceptNamed k f cluster r
          else if r.rooms.getD 8 0 < 192 then refuseRoute k f cluster r 0x0205
          else
            let r := { r with phase := 1 }
            rtRead k (keepRun f cluster r) cluster r 0 8 [(0, 192)]

/-- What the run has read for its acceptance takes its place, and the checks go on (07 R212). -/
def acceptData (k : Keel) (f : Fab) (cluster : Nat) (r : RtRun) : Fab :=
  let data := tgetD r.inbox 0 []
  match r.phase with
  | 1 =>
    let r := { r with tables := [data, [], [], []] }
    match rtOperands f r (xdNamed data) with
    | .error c => refuseRoute k f cluster r c
    | .ok xs =>
      holdRun k f cluster r xs ((xdNamed data).map fun x => slotOf x.2.1) fun f r => acceptNamed k f cluster r
  | 2 => acceptCaps k f cluster { r with tables := [rtTable r 0, data, [], []] }
  | 3 => acceptTemplates k f cluster { r with tables := [rtTable r 0, rtTable r 1, data, []] }
  | 4 =>
    let r := { r with tables := [rtTable r 0, rtTable r 1, rtTable r 2, data] }
    match exchPlaces f r with
    | .error c => refuseRoute k f cluster r c
    | .ok xs =>
      let s := rtTable r 0
      holdRun k f cluster r xs (slotOf (cmdAddr s 16) :: (List.range (xdDest s)).map fun i => slotOf (xdRx s (i + 1))) fun f r =>
        admitRoute f cluster r
  | _ => acceptTemplates k f cluster r

/-- ROUTE_DESCRIPTOR_ACCEPT (07 R212): the oldest run not yet accepted makes its next checks, in the order of the table; while it waits
for what they read, the row is not due. -/
def runRouteAccept (k : Keel) (f : Fab) (cluster : Nat) : Fab :=
  let rs := ((tfind f.eng.rt cluster).map (·.runs)).getD []
  match rs.find? fun r => !r.accepted && r.readsOut == 0 && working k f r.part r.ctx with
  | none => f
  | some r =>
    if !coreOn k (16 * cluster) then f
    else if r.fault ≠ 0 then refuseRoute k f cluster r r.fault
    else if r.phase ≠ 0 then acceptData k f cluster r
    else match translate f r.ctx (rtCid r.bytes) .sig with
      | none => refuseRoute k f cluster r 0x0401
      | some p =>
        if !rtFields r.bytes then refuseRoute k f cluster { r with phys := p } 0x0301 else acceptNames k f cluster { r with phys := p }

/-! ### Choosing experts (07 R215, R216) -/

/-- The S32 score of an expert in a token's row. -/
def scoreAt (b row : List Byte) (e : Nat) : Word32 :=
  match rtSfmt b with
  | 0 => BitVec.ofNat 32 (numAt row (4 * e) 4)
  | 1 => BitVec.ofNat 32 (encodeNum fmtS32 0 true (decodeNum fmtB16 (numAt row (2 * e) 2))).1
  | _ => BitVec.ofNat 32 (encodeNum fmtS32 0 true (decodeNum fmtH16 (numAt row (2 * e) 2))).1

def w32 (w : Word32) : Num := decodeNum fmtS32 w.toNat

/-- The candidates of a token, best first and equal scores by lower expert index: the k chosen and, under the spill policy, eight more. -/
def chooseFor (b row : List Byte) : List (Nat × Word32) :=
  let cs := ((List.range (rtExperts b)).map fun e => (e, scoreAt b row e)).filter fun c => !(w32 c.2).isNan
  (orderBy (fun c d => ltNum (w32 d.2) (w32 c.2)) cs).take (rtTopk b + if rtPolicy b = 1 then 8 else 0)

/-- e^(s - most) for scores up to `most`: beyond 2,000 below it counts as zero. -/
def expBelow (most s : Word32) : Num :=
  let d := addE (w32 s) (negNum (w32 most))
  if ltNum d (.fin true 2000 0) then natNum 0 else expNum d

/-- The exact weight under NORM 1 or 2 of a score over the scores that it is divided by (07 R216). DESIGN CHOICE (log 67): the +∞ scores that share
the weight are all those that the sum covers, under NORM 2 unchosen ones too. -/
def exactWeight (s : Word32) (scores : List Word32) : Num :=
  let most := scores.foldl (fun m x => if ltNum (w32 m) (w32 x) then x else m) 0xFF800000
  if w32 most == .inf false || w32 most == .inf true then
    if w32 s == w32 most then quoNum oneNum (natNum (scores.filter fun x => w32 x == w32 most).length) else natNum 0
  else if w32 s == .inf true then natNum 0
  else quoNum (expBelow most s) ((scores.filter fun x => w32 x != .inf true).foldl (fun a x => addE a (expBelow most x)) (natNum 0))

/-- One weight: free within a relative error of 2^-20, or of the spacing of S32's smallest values; 0 and 1 are exact. -/
def softWeight (seed : Nat) (s : Word32) (scores : List Word32) : Word32 :=
  let exact := exactWeight s scores
  let s' := if (w32 s).isZero then 0 else s
  let err := addE (scaleNum (-20) exact) (if ltNum exact (pow2 (-126)) then pow2 (-149) else natNum 0)
  if exact.isZero || eqNum exact oneNum then toS32 exact
  else toS32 (heldTo (w32 (Config.routeWeight seed s' scores)) exact err)

/-- The weights of a token's chosen ranks. -/
def weightsFor (seed : Nat) (b row : List Byte) (chosen : List (Nat × Word32)) : List Word32 :=
  let top := (chosen.take (rtTopk b)).map (·.2)
  match rtNorm b with
  | 0 => top
  | 1 => top.map fun s => softWeight seed s top
  | _ =>
    let all := ((List.range (rtExperts b)).map (scoreAt b row)).filter fun s => !(w32 s).isNan
    top.map fun s => softWeight seed s all

/-! ### Capacity (07 R217, R218) -/

/-- The state of the assignment: entries per expert, what was accepted, what overflowed. -/
structure Fill where
  counts : Table Nat
  took : List Assign
  spill : List Assign
  deriving DecidableEq, Repr

/-- Rank-major assignment. -/
def assignAll (r : RtRun) : Fill :=
  let b := r.bytes
  (List.range (rtTopk b)).foldl (fun st j => (List.range (rtTokens b)).foldl (fun (st : Fill) t =>
    match (r.chosen.getD t [])[j]? with
    | none => st
    | some (e, _) =>
      let a : Assign := { token := t, expert := e, first := e, rank := j, weight := (r.weights.getD t []).getD j 0 }
      let n := tgetD st.counts e 0
      if n < r.caps.getD e 0 then { st with counts := tput st.counts e (n + 1), took := st.took ++ [a] }
      else { st with spill := st.spill ++ [a] }) st) { counts := [], took := [], spill := [] }

/-- Where an overflowing assignment goes under the spill policy: the best candidate with room that the token has not been given. -/
def spillTo (r : RtRun) (st : Fill) (a : Assign) : Option Nat :=
  (((r.chosen.getD a.token []).drop (rtTopk r.bytes)).find? fun c =>
    !(st.took.any fun x => x.token == a.token && x.expert == c.1) && decide (tgetD st.counts c.1 0 < r.caps.getD c.1 0)).map (·.1)

/-- An overflow record names the expert that the assignment was chosen for (07 R221). -/
def ovfOf (a : Assign) (outcome spill : Nat) : OvfRec :=
  { token := a.token, expert := a.first, rank := a.rank, outcome := outcome, spill := spill }

/-- Overflows under the policy: what is accepted in the end and the events. -/
def overflow (r : RtRun) (st : Fill) : List Assign × List OvfRec :=
  match rtPolicy r.bytes with
  | 1 =>
    let (st, evs) := st.spill.foldl (fun (x : Fill × List OvfRec) a =>
      match spillTo r x.1 a with
      | some e => ({ x.1 with counts := tput x.1.counts e (tgetD x.1.counts e 0 + 1), took := x.1.took ++ [{ a with expert := e }] },
          x.2 ++ [ovfOf a 1 e])
      | none => (x.1, x.2 ++ [ovfOf a 0 0xFFFF])) (st, [])
    (st.took, evs)
  | 2 => (st.took, st.spill.map fun a => ovfOf a 2 0xFFFF)
  | _ => (st.took, st.spill.map fun a => ovfOf a 0 0xFFFF)

def dmapOf (r : RtRun) (e : Nat) : Nat := ((rtTable r 3).getD e 0).toNat

/-- Entries that a packet has no room for leave their lists (07 R225). -/
def packetRoom (r : RtRun) (took : List Assign) : List Assign × List OvfRec :=
  if !rtExch r.bytes then (took, [])
  else
    let x := xdXmax (rtTable r 0)
    let (kept, _, evs) := took.foldl (fun (st : List Assign × Table Nat × List OvfRec) a =>
      let d := dmapOf r a.expert
      let n := tgetD st.2.1 d 0
      if d = 0 then (st.1 ++ [a], st.2.1, st.2.2)
      else if n < x then (st.1 ++ [a], tput st.2.1 d (n + 1), st.2.2)
      else (st.1, st.2.1, st.2.2 ++ [ovfOf a 3 (if a.expert = a.first then 0xFFFF else a.expert)])) ([], [], [])
    (kept, evs)

/-- The demand of each expert, without capacities (07 R217). -/
def demandOf (r : RtRun) : List Nat :=
  (List.range (rtExperts r.bytes)).map fun e =>
    (r.chosen.map fun c => ((c.take (rtTopk r.bytes)).filter fun x => x.1 == e).length).sum

/-- The capacity phase decides every assignment. DESIGN CHOICE (log 67): the events of full exchange packets come after those of full experts. -/
def decideRun (r : RtRun) : RtRun :=
  let st := assignAll r
  let (took, evs) := overflow r st
  let fails := rtPolicy r.bytes == 2 && !st.spill.isEmpty
  let (kept, full) := if fails then (took, []) else packetRoom r took
  { r with
    assigns := kept, ovf := evs ++ full, failed := fails, demand := if fails then demandOf r else []
    emptyRanks := (r.chosen.map fun c => rtTopk r.bytes - min (rtTopk r.bytes) c.length).sum }

/-- Entries of an expert, in acceptance order. -/
def listOf (r : RtRun) (e : Nat) : List Assign := if r.failed then [] else r.assigns.filter (·.expert == e)
def countOf (r : RtRun) (e : Nat) : Nat := if r.failed then r.demand.getD e 0 else (listOf r e).length

/-- Whether an expert is launched (07 R223). -/
def launches (r : RtRun) (e : Nat) : Bool :=
  rtLaunch r.bytes && !r.failed && decide (0 < countOf r e) && (!rtExch r.bytes || dmapOf r e == 0)

/-- The summary record (07 R220). -/
def summaryOf (r : RtRun) : List Byte :=
  let counts := (List.range (rtExperts r.bytes)).map (countOf r)
  let dropped := (r.ovf.filter fun o => o.outcome != 1).length
  let spilled := (r.ovf.filter fun o => o.outcome == 1).length
  let launched := ((List.range (rtExperts r.bytes)).filter (launches r)).length
  bytesLE 8 (dropped * 2 ^ 32 + r.assigns.length) ++ bytesLE 8 (r.emptyRanks * 2 ^ 32 + spilled) ++
  bytesLE 8 (counts.foldl max 0 * 2 ^ 32 + (counts.filter (0 < ·)).length * 2 ^ 16 + launched) ++ bytesLE 8 (if r.failed then 1 else 0)

/-- An overflow record (07 R221). -/
def ovfBytes (o : OvfRec) : List Byte := bytesLE 8 (o.outcome * 2 ^ 56 + o.rank * 2 ^ 48 + o.expert * 2 ^ 32 + o.token) ++ bytesLE 8 o.spill

def ovfCount (r : RtRun) : Nat := if cmdWord r.bytes 80 = 0 then 0 else min (rtOvfMax r.bytes) r.ovf.length

/-! ### Steps (07 R228, R547) -/

/-- Entries of a destination's packet, in acceptance order. -/
def packetOf (r : RtRun) (d : Nat) : List Assign := r.assigns.filter fun a => dmapOf r a.expert == d

/-- The numbers of entries of the packets, by destination. -/
def packetSizes (r : RtRun) : List Nat := (List.range (xdDest (rtTable r 0))).map fun i => (packetOf r (i + 1)).length

/-- Units of a packet of n entries: its entries, then its rows; the header alone where it has none. -/
def packetUnits (n : Nat) : Nat := max 1 (2 * n)

/-- Beats of the first u units of a packet (07 R228): 4, and one per 512 bytes. -/
def packetBeats (s : List Byte) (n u : Nat) : Nat :=
  if u = 0 then 0 else 4 + ceilDiv (if n = 0 then packetHead 0 else if u < n then 32 + 16 * u else packetHead n + (u - n) * rowb32 s) 512

/-- Where unit u of the exchange lies: the destination's index, its number of entries, and the unit within its packet. -/
def packetAt : List Nat → (u : Nat) → (at_ : Nat) → Nat × Nat × Nat
  | [], u, at_ => (at_, 0, u)
  | n :: ns, u, at_ => if u < packetUnits n then (at_, n, u) else packetAt ns (u - packetUnits n) (at_ + 1)

def exchBeats (s : List Byte) (ns : List Nat) (u : Nat) : Nat :=
  let (i, n, v) := packetAt ns u 0
  ((ns.take i).map fun m => packetBeats s m (packetUnits m)).sum + packetBeats s n (min v (packetUnits n))

/-- Units of a phase: 0 top-k, 1 weights, 2 capacity, 3 lists and counts, 4 summary and records, 5 launches, 6 exchange. -/
def phaseUnits (r : RtRun) (p : Nat) : Nat :=
  let b := r.bytes
  match p with
  | 0 | 2 => rtTokens b
  | 1 => if rtNorm b = 0 then 0 else rtTokens b
  | 3 => rtExperts b
  | 4 => max 1 (ovfCount r)
  | 5 => if rtLaunch b && !r.failed then rtExperts b else 0
  | 6 => if rtExch b && !r.failed then ((packetSizes r).map packetUnits).sum else 0
  | _ => 0

/-- Beats of the first u units of the run's phase (07 R228). -/
def beatsTo (r : RtRun) (u : Nat) : Nat :=
  let b := r.bytes
  let rows := ceilDiv (rtExperts b) 128
  match r.phase with
  | 0 => u * rows
  | 1 => if rtNorm b = 1 then u else u * rows
  | 2 => ceilDiv (u * rtTopk b) 16 + (r.ovf.filter fun o => o.outcome != 3 && decide (o.token < u)).length
  | 3 => ceilDiv (r.assigns.filter fun a => decide (a.expert < u)).length 32 + ceilDiv u 128
  | 4 => if u = 0 then 0 else 1 + ceilDiv (min u (ovfCount r)) 32
  | 5 => 8 * ((List.range u).filter (launches r)).length
  | _ => exchBeats (rtTable r 0) (packetSizes r) u

/-- The end of the next step (07 R547): the units done, the beats then spent on the next unit, and the beats of the step. A step ends at
the last boundary within 512 beats; a unit longer than that is cut after 512. -/
def stepEnd (r : RtRun) : Nat × Nat × Nat :=
  let at_ := beatsTo r r.next + r.cut
  let n := ((List.range (phaseUnits r r.phase - r.next)).filter fun i => decide (beatsTo r (r.next + i + 1) ≤ at_ + 512)).length
  if n = 0 then (r.next, r.cut + 512, 512) else (r.next + n, 0, beatsTo r (r.next + n) - at_)

/-- The gathers of an expert: one for each A panel (07 R223). -/
def gathersOf (f : Fab) (cluster : Nat) (r : RtRun) (e : Nat) : List (Nat × List Byte) :=
  let t := tmplAt (rtTable r 2) e
  let b := withM t (countOf r e)
  let p := mxKt b * fmtW (mxAfmt b) / 8
  let core := 16 * cluster + tmCore t
  let at_ := fun (a : Word64) (n : Nat) => BitVec.ofNat 64 (slotOf a * 2 ^ 48 + (offOf a + n) % 2 ^ 48)
  (List.range (ceilDiv (mxK b) (mxKt b))).map fun j =>
    (e, gatherBytes (at_ (tmGsrc t) (j * p))
      (BitVec.ofNat 64 (mxObj b * 2 ^ 48 + (sideA b []).off + j * (sideA b []).ps * 512))
      (at_ (cmdAddr r.bytes 40) (e * rtLstride r.bytes)) (countOf r e) p (tmGstride t) p core r.core
      (kindAt f r.part (tmGsrc t) == some 2) (kindAt f r.part (cmdAddr r.bytes 40) == some 2))

/-- One expert's launch begins: its gathers, or nothing more to wait for. -/
def launchExpert (cluster : Nat) (f : Fab) (r : RtRun) (e : Nat) : Fab :=
  if !launches r e then f
  else if tmGather (tmplAt (rtTable r 2) e) then
    let gs := gathersOf f cluster r e
    pumpGathers (modRoutingRun f cluster r.id fun x => { x with
      toLaunch := x.toLaunch ++ [e], gathers := x.gathers ++ [(e, 0)], gwait := x.gwait ++ gs }) cluster r.id
  else modRoutingRun f cluster r.id fun x => { x with toLaunch := x.toLaunch ++ [e], ready := x.ready ++ [e] }

/-- Entries of the cluster's routing engine on an array (06 R159). -/
def routedEntries (f : Fab) (core : Nat) : Nat :=
  ((arrayOf f core).queue.filter fun x => match x.src with
    | .routing .. => true
    | _ => false).length

/-- Templates whose gathers are done enter their arrays, in expert order, while an entry is free (07 R223). -/
def enterArrays (cluster run : Nat) : (fuel : Nat) → Fab → Fab
  | 0, f => f
  | fuel + 1, f =>
    match findRun f cluster run with
    | none => f
    | some r => match r.toLaunch with
      | [] => f
      | e :: rest =>
        let t := tmplAt (rtTable r 2) e
        let core := 16 * cluster + tmCore t
        if !r.ready.contains e || r.fault != 0 || decide (routedEntries f core ≥ 8) || arrayFull f core then f
        else
          let id := f.nextId
          let x := MxEntry.fresh id (.routing cluster run e) r.ctx r.part r.level
            (BitVec.ofNat 64 (slotOf (cmdAddr r.bytes 96) * 2 ^ 48 + (offOf (cmdAddr r.bytes 96) + 128 * e) % 2 ^ 48)) (withM t (countOf r e))
            (r.binds.getD (tmCore t) 0)
          let f := modArray { f with nextId := id + 1 } core fun a => { a with queue := a.queue ++ [x] }
          enterArrays cluster run fuel (modRoutingRun f cluster run fun y => { y with toLaunch := rest, launched := y.launched + 1 })

/-- Where the rows of an exchange wait by destination and entry, and where its built packets wait. -/
def rowKey (d i : Nat) : Nat := 2 ^ 32 + d * 2 ^ 20 + i
def destKey (d : Nat) : Nat := 2 ^ 40 + d

/-- The bytes of a packet (07 R225). -/
def packetBytes (k : Keel) (r : RtRun) (d : Nat) : List Byte :=
  let s := rtTable r 0
  let es := packetOf r d
  let self := ((k.image.bind (·.routes)).map (·.self)).getD 0
  let head := bytesLE 4 es.length ++ bytesLE 4 (xdRowb s) ++ bytesLE 8 (xdTag s) ++ bytesLE 8 self ++ zeros 8
  let recs := es.flatMap fun a => bytesLE 8 (a.rank * 2 ^ 48 + a.expert * 2 ^ 32 + a.token) ++ bytesLE 4 a.weight.toNat ++ zeros 4
  let body := (List.range es.length).flatMap fun i => (tgetD r.inbox (rowKey d i) []) ++ zeros (rowb32 s - xdRowb s)
  head ++ recs ++ zeros (packetHead es.length - 32 - 16 * es.length) ++ body

/-- One unit of the exchange: a row of a packet is read; an entry is known. -/
def exchUnit (k : Keel) (cluster : Nat) (f : Fab) (r : RtRun) (u : Nat) : Fab :=
  let s := rtTable r 0
  let (i, n, v) := packetAt (packetSizes r) u 0
  match (packetOf r (i + 1))[v - n]? with
  | some a => if v < n || xdRowb s == 0 then f else rtRead k f cluster r (rowKey (i + 1) (v - n)) 11 [(a.token * xdAstride s, xdRowb s)]
  | none => f

/-- Every row has arrived: the packets are built in their staging buffers. -/
def buildPackets (k : Keel) (f : Fab) (cluster : Nat) (r : RtRun) : Fab :=
  let s := rtTable r 0
  let built := if rtExch r.bytes && !r.failed then (List.range (xdDest s)).map fun i => (destKey (i + 1), packetBytes k r (i + 1)) else []
  let f := built.foldl (fun f e => rtWrite k f cluster r 10 ((e.1 - destKey 1) * xdPstride s) e.2) f
  modRoutingRun f cluster r.id fun x => { x with inbox := built }

/-- Built packets are sent, each once its transfer may open (07 R226), to the places that the checks found. -/
def sendPackets (k : Keel) (f : Fab) (cluster run : Nat) : Fab :=
  match findRun f cluster run with
  | none => f
  | some r =>
    if r.phase < 7 || r.fault != 0 then f
    else r.inbox.foldl (fun f e =>
      let s := rtTable r 0
      let done := fun f => modRoutingRun f cluster run fun x => { x with inbox := tdel x.inbox e.1 }
      match sendXfer k f r.part 0 0 (rtPlace r (12 + (e.1 - destKey 1))) [(0, e.2)] (some (xdRxcid s, xdRxinc s)) (.xferRoute cluster run) with
      | .wait => f
      | .failed c => modRoutingRun (done f) cluster run fun x => { x with fault := if x.fault = 0 then c else x.fault }
      | .sent g => modRoutingRun (done g) cluster run fun x => { x with xfersOut := x.xfersOut + 1 }) f

/-- The scores of every token are in: the choices and their weights. -/
def chooseAll (r : RtRun) (seed : Nat) : RtRun :=
  let rows := (List.range (rtTokens r.bytes)).map fun t => tgetD r.inbox t []
  let chosen := rows.map (chooseFor r.bytes)
  { r with
    chosen := chosen, inbox := []
    weights := (rows.zip chosen).mapIdx fun t x => weightsFor (seed + t) r.bytes x.1 x.2 }

/-- The run goes to its next phase where its units are done and what they read has arrived. Launches wait until every list is written
(07 R223). -/
def nextPhase (k : Keel) (f : Fab) (cluster run : Nat) : Fab :=
  match findRun f cluster run with
  | none => f
  | some r =>
    if !r.accepted || r.fault != 0 || decide (r.phase ≥ 7) || decide (r.next < phaseUnits r r.phase) || r.readsOut != 0 then f
    else match r.phase with
      | 0 => keepRun (spend f (rtTokens r.bytes)) cluster { chooseAll r f.free with phase := 1, next := 0 }
      | 1 => keepRun f cluster { decideRun r with phase := 2, next := 0 }
      | 4 => if rtLaunch r.bytes && r.writesOut != 0 then f else keepRun f cluster { r with phase := 5, next := 0 }
      | 6 => buildPackets k (keepRun f cluster { r with phase := 7, next := 0 }) cluster r
      | p => keepRun f cluster { r with phase := p + 1, next := 0 }

/-- What n units of a run's phase do. -/
def performUnits (k : Keel) (f : Fab) (cluster : Nat) (r : RtRun) (n : Nat) : Fab :=
  let b := r.bytes
  let us := (List.range n).map (r.next + ·)
  match r.phase with
  | 0 => us.foldl (fun f t => rtRead k f cluster r t 0 [(t * rtSstride b, rtExperts b * rtScoreBytes b)]) f
  | 3 => us.foldl (fun f e =>
      let l := listOf r e
      let f := if l.isEmpty then f else
        rtWrite k (rtWrite k f cluster r 2 (e * rtLstride b) (l.flatMap fun a => bytesLE 4 a.token))
          cluster r 3 (e * rtLstride b) (l.flatMap fun a => bytesLE 4 a.weight.toNat)
      rtWrite k f cluster r 4 (4 * e) (bytesLE 4 (countOf r e))) f
  | 4 =>
    let f := if r.next = 0 then rtWrite k f cluster r 5 0 (summaryOf r) else f
    us.foldl (fun f i => match (r.ovf.take (ovfCount r))[i]? with
      | some o => rtWrite k f cluster r 6 (16 * i) (ovfBytes o)
      | none => f) f
  | 5 => us.foldl (fun f e => launchExpert cluster f r e) f
  | 6 => us.foldl (fun f u => exchUnit k cluster f r u) f
  | _ => f

/-! ### The end of a run (07 R227, R229) -/

/-- Nothing of the run is outstanding. -/
def rtQuiet (r : RtRun) : Bool := r.readsOut == 0 && r.writesOut == 0 && r.xfersOut == 0 && r.gathers.all (·.2 == 0)

/-- A run that has failed ends once nothing of it is outstanding; its written extents hold free values (07 R229; log 18). -/
def endFailed (k : Keel) (f : Fab) (cluster : Nat) (r : RtRun) : Fab :=
  refuseRoute k (spoil f (rtWritten r)) cluster r r.fault

def runIds (f : Fab) (cluster : Nat) : List Nat := (((tfind f.eng.rt cluster).map (·.runs)).getD []).map (·.id)

/-- What the engine does beside its steps: failed runs end, phases pass, packets and templates leave. -/
def tendRuns (k : Keel) (f : Fab) (cluster : Nat) : Fab :=
  (runIds f cluster).foldl (fun f id =>
    let f := (List.range 4).foldl (fun f _ => nextPhase k f cluster id) f
    let f := enterArrays cluster id 4096 (sendPackets k f cluster id)
    match findRun f cluster id with
    | some r => if r.accepted && r.fault != 0 && rtQuiet r && working k f r.part r.ctx then endFailed k f cluster r else f
    | none => f) f

/-- A packet of the engine waits for a transfer: that holds its step (16 R457, R460). -/
def heldRun (f : Fab) (cluster : Nat) : Bool :=
  (((tfind f.eng.rt cluster).map (·.runs)).getD []).any fun r => r.accepted && decide (r.phase ≥ 7) && r.fault == 0 && !r.inbox.isEmpty

/-- ROUTING_STEP_END (07 R547): the step in progress ends, and the engine arbitrates. -/
def runRoutingStep (k : Keel) (f : Fab) (cluster : Nat) : Fab :=
  match tfind f.eng.rt cluster with
  | none => f
  | some a =>
    if !coreOn k (16 * cluster) || heldRun f cluster then f
    else
      let f := match a.cur.bind (findRun f cluster) with
        | none => f
        | some r =>
          let (next, cut, beats) := stepEnd r
          let f := workUp f 6 cluster beats
          if r.fault ≠ 0 || resetting f r.part || stoppedCtx f r.ctx then f
          else performUnits k (modRoutingRun f cluster r.id fun x => { x with next := next, cut := cut }) cluster r (next - r.next)
      let f := tendRuns k f cluster
      let rs := ((tfind f.eng.rt cluster).map (·.runs)).getD []
      let ready := rs.filter fun r => r.accepted && r.fault == 0 && decide (r.phase < 7) &&
        decide (r.next < phaseUnits r r.phase) && (r.phase == 0 || r.phase == 6 || r.readsOut == 0) && working k f r.part r.ctx && r.src.runs f
      let next := pickNext (fun r : RtRun => ownsSlot k f (engDie cluster) r.part) (·.level) (·.ctx) (fun l => tgetD a.lastCtx l 1023) ready
      onEng f fun e => { e with rt := tmod e.rt cluster fun a => match next with
        | none => { a with cur := none }
        | some r => { a with cur := some r.id, lastCtx := tput a.lastCtx r.level r.ctx } }

/-- GATHER_COMPLETE (07 R223): the expert's template may enter its array. -/
def runGatherDone (k : Keel) (f : Fab) (cluster expert : Nat) : Fab :=
  let rs := ((tfind f.eng.rt cluster).map (·.runs)).getD []
  match rs.find? fun r => r.fault == 0 && r.gathers.contains (expert, 0) && !(r.gwait.any (·.1 == expert)) && working k f r.part r.ctx with
  | none => f
  | some r =>
    enterArrays cluster r.id 4096 (modRoutingRun f cluster r.id fun x => { x with
      gathers := x.gathers.filter (·.1 != expert), ready := x.ready ++ [expert] })

/-- ROUTING_COMPLETE (07 R227): INC is added; a run that the fail policy ended records its fault instead (07 R217). -/
def runRouteDone (k : Keel) (f : Fab) (cluster : Nat) : Fab :=
  let f := tendRuns k f cluster
  let rs := ((tfind f.eng.rt cluster).map (·.runs)).getD []
  match rs.find? fun r => r.accepted && decide (r.phase ≥ 7) && r.fault == 0 && rtQuiet r && r.toLaunch.isEmpty && r.inbox.isEmpty &&
      working k f r.part r.ctx && r.src.runs f with
  | none => f
  | some r =>
    let f := spoil f r.spoilt
    if r.failed then refuseRoute k f cluster r 0x0303
    else
      let reply := match r.src with
        | .command q j => CntReply.command q j
        | _ => .none
      let f := sendCnt f r.phys .add (rtInc r.bytes) (unitLast 4 r.ctx cluster) reply (some (routeRole cluster r.part, r.stamp))
      leaveRoute k f cluster r

/-- ROUTE_DESCRIPTOR_ACCEPT (07 R212). -/
def execRouteDescriptorAccept (cluster : Nat) (s : State) : Out := onFab s fun k f => settle k (runRouteAccept k f cluster)
/-- ROUTING_STEP_END (07 R547). -/
def execRoutingStepEnd (cluster : Nat) (s : State) : Out := onFab s fun k f => settle k (runRoutingStep k f cluster)
/-- GATHER_COMPLETE (07 R223). -/
def execGatherComplete (cluster expert : Nat) (s : State) : Out := onFab s fun k f => runGatherDone k f cluster expert
/-- ROUTING_COMPLETE (07 R227). -/
def execRoutingComplete (cluster : Nat) (s : State) : Out := onFab s fun k f => settle k (runRouteDone k f cluster)

end Sys2Proof.Machine
end

