-- ==== Sys2Proof/Machine/Accept.lean ====
section
/-!
DEFINITION. Accept.lean: the acceptance of a queue's commands (13 R384): the last of its checks, its references, and COMMAND_READ_DATA.
-/
namespace Sys2Proof.Machine

/-- Where the descriptor of a MATRIX command lies in local memory of its queue's core (04 R102). -/
def matrixPlace (f : Fab) (x : Queue) (addr : Word64) : Option Nat :=
  match checkAt f x.part (some x.unit) .load addr 64 (descLen .matrix) with
  | .error _ => none
  | .ok loc =>
    if loc.kind = 2 ∧ (tfind f.tab.objs (slotOf addr)).any (fun o => o.kdata.toNat % 1024 == x.ctx) then some loc.off else none

/-- The checks of 06 R168 on it. -/
def matrixFault (k : Keel) (f : Fab) (x : Queue) (b : List Byte) : Option Nat :=
  match mxCheck f x.part x.ctx x.unit b false with
  | .error e => some e
  | .ok _ =>
    if mxM b != 0 && mxN b != 0 && mxSfEn b && (sftFor k f (dieOfCore x.unit) (mxTable b) x.part).isNone then some 0x0108 else none

def putCmd (f : Fab) (q j : Nat) (b : List Byte) (sigOk : Bool) (refs : List (ObjKind × Nat)) (stage : CmdStage) : Fab :=
  modQueue f q fun y => { y with cmds := tput y.cmds j { bytes := b, sigOk := sigOk, left := 0, refs := refs, stage := stage } }

/-- A command fails a check: it will retire with the code. -/
def failCmd (f : Fab) (q j : Nat) (b : List Byte) (sigOk : Bool) (code : Nat) : Fab :=
  putCmd (takeDev f .queue q) q j b sigOk [(.queue, q)] (.acted code)

/-- A command has passed checks 1 to 5 of 13 R384. The descriptor of a COPY or a ROUTE enters its engine, which makes check 6 of it; that of a
MATRIX is checked in local memory. -/
def passCmd (k : Keel) (f : Fab) (q j : Nat) (x : Queue) (b : List Byte) (sigOk : Bool) : Fab :=
  let refs := cmdRefs f x q b
  let id := f.nextId
  let addr := cmdAddr b 16
  if refsPast f refs then failCmd f q j b sigOk 0x0603
  else match cmdOp b with
    | 0x02 =>
      let d := CpDesc.fresh id (.command q j) x.ctx x.part x.prio addr (slice b 64 64) (16 * x.unit) (roleOf f (copyRole x.unit x.part))
      onEng (putCmd { takeAll f refs with nextId := id + 1 } q j b sigOk refs .checking) fun g => { g with
        cp := tupd g.cp x.unit CopyEng.fresh fun a => { a with descs := a.descs ++ [d] } }
    | 0x03 => match matrixPlace f x addr with
      | none => failCmd f q j b sigOk 0x0106
      | some at_ =>
        let desc := locBytes f.mem x.unit at_ (descLen .matrix)
        let f := locSeen f x.unit at_ (descLen .matrix)
        match matrixFault k f x desc with
        | some code => failCmd (engineFault k f 2 x.unit x.part x.ctx x.die (mxCid desc) code addr) q j b sigOk code
        | none => putCmd (takeAll f refs) q j (b ++ desc) sigOk refs .accepted
    | 0x04 =>
      let r := RtRun.fresh id (.command q j) x.ctx x.part x.prio addr (slice b 64 128) (16 * x.unit) (roleOf f (routeRole x.unit x.part))
      onEng (putCmd { takeAll f refs with nextId := id + 1 } q j b sigOk refs .checking) fun g => { g with
        rt := tupd g.rt x.unit RouteEng.fresh fun a => { a with runs := a.runs ++ [r] } }
    | _ => putCmd (takeAll f refs) q j b sigOk refs .accepted

/-- The outcome of a command's checks. -/
def acceptCmd (k : Keel) (f : Fab) (q j : Nat) (x : Queue) (b : List Byte) (sigOk : Bool) : Option Nat → Fab
  | some code => failCmd f q j b sigOk code
  | none => passCmd k f q j x b sigOk

/-- COMMAND_READ_DATA (13 R380, R384): a command arrives and is accepted, or what its payload names arrives. -/
def runCommandRead (k : Keel) (f : Fab) (m : Nat) : Fab :=
  match tfind f.net m with
  | some (.cmdData q j bytes fault) =>
    let f := drop f m
    match findQueue f q with
    | none => f
    | some x =>
      match tfind x.cmds j with
      | some c =>
        if c.stage != .fetching then f
        else
          let b := c.bytes ++ bytes
          let bad := if fault ≠ 0 then some fault else if cmdOp b = 1 then launchFault f x b else none
          readNext k (acceptCmd k f q j x b c.sigOk bad) q
      | none =>
        if x.state ≠ 0 then modQueue f q fun x => { x with reading := false, tailRead := false }
        else if fault ≠ 0 then closeQueue k (modQueue f q fun x => { x with reading := false, tailRead := false }) q fault
        else
          let f := writeCount k (modQueue f q fun x => { x with head := x.head + 1 }) x 8 (x.head + 1)
          let (sigOk, bad) := acceptFault k f x bytes
          let aux := if bad.isSome then [] else auxReads f x.part bytes
          if aux.isEmpty then readNext k (acceptCmd k f q j x bytes sigOk bad) q
          else startRead k (putCmd f q j bytes sigOk [] .fetching) (.command q j) (placesOf f x.part aux) x.die
  | _ => f

/-- COMMAND_READ_DATA (13 R384). -/
def execCommandReadData (m : Nat) (s : State) : Out := onFab s fun k f => settle k (runCommandRead k f m)

end Sys2Proof.Machine
end

