-- ==== Sys2Proof/Machine/Arith.lean ====
section
/-!
DEFINITION. Arith.lean: the arithmetic instructions of a group (04 R100, 08 R247 to R249) and the special functions
(04 R125, 09 R255 to R284).
-/
namespace Sys2Proof.Machine

/-- An instruction writes one value per active lane, with no flag. -/
def putResults (f : Fab) (i : Iss) (dk : Nat) (val : Nat → Nat) : Fab :=
  i.next f fun g => putDst g dk (aDst i.w) ((lanes i.act).map fun l => (l, val l))

/-- Integer arithmetic wraps, or saturates with SAT, and sets no numeric flag (08 R247). -/
def runInteger (_ : Keel) (f : Fab) (i : Iss) : Fab :=
  putResults f i (aDk i.w) fun l =>
    intResult (xOpc i.w) (aTy i.w) (aSat i.w) (srcA i.g i.w l) (srcB i.g i.w l) (srcC i.g i.w l)

def runCmp (_ : Keel) (f : Fab) (i : Iss) : Fab :=
  putResults f i (aDk i.w) fun l => if cmpResult (xOpc i.w) (aTy i.w) (srcA i.g i.w l) (srcB i.g i.w l) then 1 else 0

/-- Sources are the predicates that SA and SB name (log 28). -/
def runPredicate (_ : Keel) (f : Fab) (i : Iss) : Fab :=
  putResults f i 2 fun l => if predResult (xOpc i.w) (pget i.g (aSa i.w) l) (pget i.g (aSb i.w) l) then 1 else 0

/-- A value moved to a predicate is 0 or 1; of any other value the bit is free (log 28). -/
def toDst (dk v : Nat) : Nat := if dk = 2 ∧ v > 1 then (Config.predBit v).toNat else v

def runMov (_ : Keel) (f : Fab) (i : Iss) : Fab :=
  putResults f i (aDk i.w) fun l => toDst (aDk i.w) (srcA i.g i.w l)

/-- `mov.i32` (04 R90): a 32-bit immediate in bits 39:8. -/
def runMovI32 (_ : Keel) (f : Fab) (i : Iss) : Fab :=
  putResults f i (xf i.w 6 2) fun _ => xf i.w 8 32

def runSel (_ : Keel) (f : Fab) (i : Iss) : Fab :=
  putResults f i (aDk i.w) fun l => toDst (aDk i.w) (if pget i.g (aSa i.w) l then srcB i.g i.w l else srcC i.g i.w l)

/-- `xlane` (04 R100): vA of the lane whose number is source B mod 32, active or not. -/
def runXlane (_ : Keel) (f : Fab) (i : Iss) : Fab :=
  putResults f i 0 fun l => (vget i.g (aSa i.w) (srcB i.g i.w l % 32)).toNat

/-- An instruction that writes values with sticky flags: the flags of the active lanes are ORed into the sub-core's set of the
partition (08 R251). -/
def putFlagged (f : Fab) (i : Iss) (dk : Nat) (val : Nat → Nat × BitVec 6) : Fab :=
  let rs := (lanes i.act).map fun l => (l, val l)
  let written := if dk = 1 then rs.take 1 else rs
  let f := i.next f fun g => putDst g dk (aDst i.w) (written.map fun r => (r.1, r.2.1))
  raise f (subFlagKey i.gid i.g.part) i.g.ctx (written.foldl (fun a r => a ||| r.2.2) 0)

def runFloat (_ : Keel) (f : Fab) (i : Iss) : Fab :=
  putFlagged f i (aDk i.w) fun l =>
    floatOp (xOpc i.w) (aTy i.w) (aRnd i.w) (srcA i.g i.w l) (srcB i.g i.w l) (srcC i.g i.w l)

/-- 08 R248: which elements `cvt` converts and where they go. -/
def cvtLane (w : Word64) (a : Nat) : Nat × BitVec 6 :=
  let src := aImm w % 16
  let sel := fld (aImm w) 4 2
  let ns := elems src
  let nd := elems (aTy w)
  let conv := fun (i : Nat) => cvtElem src (aTy w) (aRnd w) (aSat w) (elemOf ns i a)
  packElems nd ((List.range nd).map fun i =>
    if ns ≥ nd then conv (sel * nd + i)
    else if sel * ns ≤ i ∧ i < sel * ns + ns then conv (i - sel * ns) else (0, 0))

def runCvt (_ : Keel) (f : Fab) (i : Iss) : Fab := putFlagged f i (aDk i.w) fun l => cvtLane i.w (srcA i.g i.w l)

/-! ### Special functions -/

/-- The formats of TYPE for `sf.*`, and its elements. -/
def sfFmt (w : Word64) : Fmt := typeFmt (aTy w)
def sfCount (w : Word64) : Nat := elems (aTy w)

/-- A lookup (04 R125, 09 R261): a table with no loaded bank for the partition parks the group. -/
def runSfLookup (k : Keel) (f : Fab) (i : Iss) : Fab :=
  match sftFor k f i.die (xOpc i.w - 0x80) i.g.part with
  | none => if i.act = 0 then i.next f id else i.park k f 0x0108 0 (lanes i.act)
  | some src => putFlagged f i 0 fun l =>
      let a := srcA i.g i.w l
      packElems (sfCount i.w) ((List.range (sfCount i.w)).map fun e => sfElem src (sfFmt i.w) (elemOf (sfCount i.w) e a))

/-- The elements that an `sf.*` instruction takes, in ascending lane and element order (09 R275). -/
def rowElems (i : Iss) : List Num :=
  (lanes i.act).flatMap fun l => (List.range (sfCount i.w)).map fun e => decodeNum (sfFmt i.w) (elemOf (sfCount i.w) e (srcA i.g i.w l))

/-- The row state and the flags after elements are taken one by one. -/
def rowRun (step : RowState → Num → RowState × BitVec 6) (r : RowState) (xs : List Num) : RowState × BitVec 6 :=
  xs.foldl (fun st x => ((step st.1 x).1, st.2 ||| (step st.1 x).2)) (r, 0)

/-- A register of a lane with each element replaced, and the flags of the elements. -/
def mapElems (i : Iss) (one : Nat → Nat × BitVec 6) (l : Nat) : Nat × BitVec 6 :=
  packElems (sfCount i.w) ((List.range (sfCount i.w)).map fun e => one (elemOf (sfCount i.w) e (srcA i.g i.w l)))

/-- A value in a format; a NaN sets no flag. -/
def elemIn (t : Fmt) (y : Num) : Nat × BitVec 6 := if y.isNan then (t.nan.getD 0, 0) else encodeNum t 0 false y

/-- The element of DST of a soft-maximum accumulate: the element after clamping (09 R277); its flag is the accumulation's. -/
def accElem (t : Fmt) (v : Nat) : Nat × BitVec 6 :=
  let x := decodeNum t v
  let y := (rowInput x).2.1
  (if y.isNan then t.nan.getD 0 else if eqNum x y then v else (encodeNum t 0 false y).1, 0)

/-- The element of DST of a normalise, and its flags (09 R279). -/
def normElem (t : Fmt) (r : RowState) (v : Nat) : Nat × BitVec 6 :=
  let (y, fl) := rowNormalise r (decodeNum t v)
  ((elemIn t y).1, fl ||| (elemIn t y).2)

/-- An instruction leaves a row state and one value per active lane, and raises flags. -/
def putRow (f : Fab) (i : Iss) (r : RowState × BitVec 6) (val : Nat → Nat) : Fab :=
  let f := i.next f fun g => { putDst g 0 (aDst i.w) ((lanes i.act).map fun l => (l, val l)) with row := r.1 }
  raise f (subFlagKey i.gid i.g.part) i.g.ctx r.2

def rowStart (i : Iss) : RowState := if bitAt (aImm i.w) 4 then i.g.row.cleared else i.g.row

def runSfAccumulate (_ : Keel) (f : Fab) (i : Iss) : Fab :=
  if i.act = 0 then i.next f id
  else putRow f i (rowRun rowAccumulate (rowStart i) (rowElems i)) fun l => (mapElems i (accElem (sfFmt i.w)) l).1

/-- The DST of a statistics accumulate is the input unchanged (09 R257). -/
def runSfStatsAccumulate (_ : Keel) (f : Fab) (i : Iss) : Fab :=
  if i.act = 0 then i.next f id else putRow f i (rowRun statsAccumulate (rowStart i) (rowElems i)) (srcA i.g i.w)

/-- The flags of the values of the active lanes. -/
def laneFlags (i : Iss) (val : Nat → Nat × BitVec 6) : BitVec 6 := (lanes i.act).foldl (fun a l => a ||| (val l).2) 0

/-- 09 R279. An empty row sets bit ROW of DEAD and records EMPTY_ROW once. -/
def runSfNormalise (_ : Keel) (f : Fab) (i : Iss) : Fab :=
  if i.act = 0 then i.next f id
  else
    let r := i.g.row
    let val := mapElems i (normElem (sfFmt i.w) r)
    let marked := { r with dead := r.dead ||| laneBit (fld (aImm i.w) 5 5) }
    putRow f i (if r.live = 0 then (marked, laneFlags i val ||| fEmptyRow) else (r, laneFlags i val)) fun l => (val l).1

/-- The register that holds a value in every element. -/
def everyElem (i : Iss) (y : Num) : Nat × BitVec 6 :=
  packElems (sfCount i.w) (List.replicate (sfCount i.w) (elemIn (sfFmt i.w) y))

/-- 09 R280: the log-sum, or DEAD, which CLR then clears. -/
def runSfRowRead (_ : Keel) (f : Fab) (i : Iss) : Fab :=
  if i.act = 0 then i.next f id
  else if bitAt (aImm i.w) 3 then
    putRow f i (if bitAt (aImm i.w) 4 then { i.g.row with dead := 0 } else i.g.row, 0) fun _ => i.g.row.dead.toNat
  else putRow f i (i.g.row, (everyElem i (rowLogSum i.g.row)).2) fun _ => (everyElem i (rowLogSum i.g.row)).1

/-- 09 R282: a statistic; with CNT 0 it is 0 and EMPTY_ROW is recorded. -/
def runSfStatistic (_ : Keel) (f : Fab) (i : Iss) : Fab :=
  if i.act = 0 then i.next f id
  else
    let y := everyElem i (rowStatistic i.g.row (aImm i.w % 8))
    putRow f i (i.g.row, if i.g.row.cnt = 0 then y.2 ||| fEmptyRow else y.2) fun _ => y.1

/-! ### The commands -/

/-- INTEGER_ARITHMETIC (04 R100). -/
def execIntegerArithmetic (g : GroupAt) (s : State) : Out := issue s g (· == .integer) runInteger
/-- CMP (04 R100). -/
def execCmp (g : GroupAt) (s : State) : Out := issue s g (· == .cmp) runCmp
/-- PREDICATE_LOGIC (04 R100). -/
def execPredicateLogic (g : GroupAt) (s : State) : Out := issue s g (· == .pred) runPredicate
/-- MOV (04 R100). -/
def execMov (g : GroupAt) (s : State) : Out := issue s g (· == .mov) runMov
/-- MOV_I32 (04 R90). -/
def execMovI32 (g : GroupAt) (s : State) : Out := issue s g (· == .movI32) runMovI32
/-- SEL (04 R100). -/
def execSel (g : GroupAt) (s : State) : Out := issue s g (· == .sel) runSel
/-- CVT (08 R248). -/
def execCvt (g : GroupAt) (s : State) : Out := issue s g (· == .cvt) runCvt
/-- XLANE (04 R100). -/
def execXlane (g : GroupAt) (s : State) : Out := issue s g (· == .xlane) runXlane
/-- FLOAT_ARITHMETIC (08 R247). -/
def execFloatArithmetic (g : GroupAt) (s : State) : Out := issue s g (· == .float) runFloat
/-- SF_LOOKUP (09 R261). -/
def execSfLookup (g : GroupAt) (s : State) : Out := issue s g (· == .sfLookup) runSfLookup
/-- SF_ACCUMULATE (09 R276). -/
def execSfAccumulate (g : GroupAt) (s : State) : Out := issue s g (· == .sfAcc) runSfAccumulate
/-- SF_NORMALISE (09 R279). -/
def execSfNormalise (g : GroupAt) (s : State) : Out := issue s g (· == .sfNorm) runSfNormalise
/-- SF_ROW_READ (09 R280). -/
def execSfRowRead (g : GroupAt) (s : State) : Out := issue s g (· == .sfRead) runSfRowRead
/-- SF_STATS_ACCUMULATE (09 R282). -/
def execSfStatsAccumulate (g : GroupAt) (s : State) : Out := issue s g (· == .sfSacc) runSfStatsAccumulate
/-- SF_MEAN (09 R282). -/
def execSfMean (g : GroupAt) (s : State) : Out := issue s g (· == .sfMean) runSfStatistic
/-- SF_VARIANCE (09 R282). -/
def execSfVariance (g : GroupAt) (s : State) : Out := issue s g (· == .sfVar) runSfStatistic
/-- SF_RMS (09 R282). -/
def execSfRms (g : GroupAt) (s : State) : Out := issue s g (· == .sfRms) runSfStatistic

end Sys2Proof.Machine
end

