-- ==== Sys2Proof/Machine/Crypto.lean ====
section
/-!
DEFINITION. Crypto.lean: the functions that 18 and 19 take from standards: SHA-512 (FIPS 180-4), HMAC-SHA-512 (FIPS 198-1), pure Ed25519 and
Ed25519ph (RFC 8032). The manual names the standards and does not repeat them: PRESUMED, log 12. Words are natural numbers below 2^64 and field elements
natural numbers below 2^255 - 19; the loops evaluate their numbers as they go (`evaluated`).
-/
namespace Sys2Proof.Crypto

open Sys2Proof.Machine (bytesLE leNat zeros slice)

/-- `f` of a number, the number being evaluated first. -/
def evaluated {α : Type} (x : Nat) (f : Nat → α) : α :=
  match x with
  | 0 => f 0
  | n + 1 => f (Nat.succ n)

theorem evaluated_eq {α : Type} (x : Nat) (f : Nat → α) : evaluated x f = f x := by cases x <;> rfl

/-! ### SHA-512 (FIPS 180-4, 4.1.3, 4.2.3, 5.1.2, 6.4) -/

/-- A word rotated right. -/
def rotr (x n : Nat) : Nat := (x >>> n ||| x <<< (64 - n)) % 2 ^ 64

/-- The eight words of the hash value. -/
structure Hash where
  a : Nat
  b : Nat
  c : Nat
  d : Nat
  e : Nat
  f : Nat
  g : Nat
  h : Nat
  deriving DecidableEq, Repr

/-- The hash value before the first block. -/
def initialHash : Hash :=
  { a := 0x6A09E667F3BCC908, b := 0xBB67AE8584CAA73B, c := 0x3C6EF372FE94F82B, d := 0xA54FF53A5F1D36F1
    e := 0x510E527FADE682D1, f := 0x9B05688C2B3E6C1F, g := 0x1F83D9ABFB41BD6B, h := 0x5BE0CD19137E2179 }

/-- The constants of the 80 rounds. -/
def roundConstants : List Nat :=
  [0x428A2F98D728AE22, 0x7137449123EF65CD, 0xB5C0FBCFEC4D3B2F, 0xE9B5DBA58189DBBC,
   0x3956C25BF348B538, 0x59F111F1B605D019, 0x923F82A4AF194F9B, 0xAB1C5ED5DA6D8118] ++
  [0xD807AA98A3030242, 0x12835B0145706FBE, 0x243185BE4EE4B28C, 0x550C7DC3D5FFB4E2,
   0x72BE5D74F27B896F, 0x80DEB1FE3B1696B1, 0x9BDC06A725C71235, 0xC19BF174CF692694] ++
  [0xE49B69C19EF14AD2, 0xEFBE4786384F25E3, 0x0FC19DC68B8CD5B5, 0x240CA1CC77AC9C65,
   0x2DE92C6F592B0275, 0x4A7484AA6EA6E483, 0x5CB0A9DCBD41FBD4, 0x76F988DA831153B5] ++
  [0x983E5152EE66DFAB, 0xA831C66D2DB43210, 0xB00327C898FB213F, 0xBF597FC7BEEF0EE4,
   0xC6E00BF33DA88FC2, 0xD5A79147930AA725, 0x06CA6351E003826F, 0x142929670A0E6E70] ++
  [0x27B70A8546D22FFC, 0x2E1B21385C26C926, 0x4D2C6DFC5AC42AED, 0x53380D139D95B3DF,
   0x650A73548BAF63DE, 0x766A0ABB3C77B2A8, 0x81C2C92E47EDAEE6, 0x92722C851482353B] ++
  [0xA2BFE8A14CF10364, 0xA81A664BBC423001, 0xC24B8B70D0F89791, 0xC76C51A30654BE30,
   0xD192E819D6EF5218, 0xD69906245565A910, 0xF40E35855771202A, 0x106AA07032BBD1B8] ++
  [0x19A4C116B8D2D0C8, 0x1E376C085141AB53, 0x2748774CDF8EEB99, 0x34B0BCB5E19B48A8,
   0x391C0CB3C5C95A63, 0x4ED8AA4AE3418ACB, 0x5B9CCA4F7763E373, 0x682E6FF3D6B2B8A3] ++
  [0x748F82EE5DEFB2FC, 0x78A5636F43172F60, 0x84C87814A1F0AB72, 0x8CC702081A6439EC,
   0x90BEFFFA23631E28, 0xA4506CEBDE82BDE9, 0xBEF9A3F7B2C67915, 0xC67178F2E372532B] ++
  [0xCA273ECEEA26619C, 0xD186B8C721C0C207, 0xEADA7DD6CDE0EB1E, 0xF57D4F7FEE6ED178,
   0x06F067AA72176FBA, 0x0A637DC5A2C898A6, 0x113F9804BEF90DAE, 0x1B710B35131C471B] ++
  [0x28DB77F523047D84, 0x32CAAB7B40C72493, 0x3C9EBE0A15C9BEBC, 0x431D67C49C100D4C,
   0x4CC5D4BECB3E42B6, 0x597F299CFC657E2A, 0x5FCB6FAB3AD6FAEC, 0x6C44198C4A475817]

/-- The message schedule with its latest word first: `n` further words. -/
def schedule : Nat → List Nat → List Nat
  | 0, ws => ws
  | n + 1, ws =>
    let w2 := ws.getD 1 0
    let w15 := ws.getD 14 0
    let s1 := rotr w2 19 ^^^ rotr w2 61 ^^^ w2 >>> 6
    let s0 := rotr w15 1 ^^^ rotr w15 8 ^^^ w15 >>> 7
    evaluated ((s1 + ws.getD 6 0 + s0 + ws.getD 15 0) % 2 ^ 64) fun w => schedule n (w :: ws)

/-- The rounds over constants and schedule words. -/
def rounds : List (Nat × Nat) → Hash → Hash
  | [], x => x
  | (k, w) :: rest, ⟨a, b, c, d, e, f, g, h⟩ =>
    let s1 := rotr e 14 ^^^ rotr e 18 ^^^ rotr e 41
    let ch := (e &&& f) ^^^ ((2 ^ 64 - 1 - e) &&& g)
    let s0 := rotr a 28 ^^^ rotr a 34 ^^^ rotr a 39
    let maj := (a &&& b) ^^^ (a &&& c) ^^^ (b &&& c)
    evaluated (h + s1 + ch + k + w) fun t1 =>
      evaluated ((d + t1) % 2 ^ 64) fun e' => evaluated ((t1 + s0 + maj) % 2 ^ 64) fun a' => rounds rest ⟨a', a, b, c, e', e, f, g⟩

/-- `f` of the sum of two words. -/
def sum64 {α : Type} (x y : Nat) (f : Nat → α) : α := evaluated ((x + y) % 2 ^ 64) f

/-- One block, its 16 words in order. -/
def block (x : Hash) (ws : List Nat) : Hash :=
  match x, rounds (roundConstants.zip (schedule 64 ws.reverse).reverse) x with
  | ⟨a, b, c, d, e, f, g, h⟩, ⟨a', b', c', d', e', f', g', h'⟩ =>
    sum64 a a' fun a => sum64 b b' fun b => sum64 c c' fun c => sum64 d d' fun d =>
      sum64 e e' fun e => sum64 f f' fun f => sum64 g g' fun g => sum64 h h' fun h => ⟨a, b, c, d, e, f, g, h⟩

/-- The first `n` big-endian words of a byte string. -/
def words : Nat → List Byte → List Nat
  | 0, _ => []
  | n + 1, bs => evaluated (leNat (bs.take 8).reverse) fun w => w :: words n (bs.drop 8)

/-- `n` blocks of 128 bytes. -/
def blocks : Nat → List Byte → Hash → Hash
  | 0, _, x => x
  | n + 1, bs, x => blocks n (bs.drop 128) (block x (words 16 bs))

/-- A message, a 1 bit, 0 bits and the length in bits: a multiple of 128 bytes. -/
def padded (msg : List Byte) : List Byte :=
  msg ++ [0x80] ++ zeros ((239 - msg.length % 128) % 128) ++ (bytesLE 16 (8 * msg.length)).reverse

/-- SHA-512, 64 bytes. -/
def sha512 (msg : List Byte) : List Byte :=
  let bs := padded msg
  match blocks (bs.length / 128) bs initialHash with
  | ⟨a, b, c, d, e, f, g, h⟩ => [a, b, c, d, e, f, g, h].flatMap fun w => (bytesLE 8 w).reverse

/-- HMAC-SHA-512 (FIPS 198-1) with a key of at most 128 bytes. -/
def hmac (key msg : List Byte) : List Byte :=
  let k := key ++ zeros (128 - key.length)
  sha512 (k.map (· ^^^ 0x5C) ++ sha512 (k.map (· ^^^ 0x36) ++ msg))

/-! ### The field and the curve (RFC 8032, 5.1) -/

/-- 2^255 - 19. -/
def prime : Nat := 57896044618658097711785492504343953926634992332820282019728792003956564819949

/-- The order of the base point, 2^252 + 27742317777372353535851937790883648493. -/
def order : Nat := 7237005577332262213973186563042994240857116359379907606001950938285454250989

/-- `b` to the `e`, times `acc`, modulo the prime, for an exponent of `n` bits. -/
def power : (n b e acc : Nat) → Nat
  | 0, _, _, acc => acc
  | n + 1, b, e, acc =>
    evaluated (if e % 2 = 1 then acc * b % prime else acc) fun acc => evaluated (b * b % prime) fun b => evaluated (e / 2) fun e => power n b e acc

def inverse (x : Nat) : Nat := power 255 x (prime - 2) 1

/-- The curve constant d, -121665/121666. -/
def curveD : Nat := 37095705934669439343138083508754565189542113879843219016388785533085940283555

/-- A square root of -1. -/
def rootMinusOne : Nat := 19681161376707505956807079304988542015446066515923890162744021073123829784752

/-- A point in extended homogeneous coordinates. -/
structure Point where
  x : Nat
  y : Nat
  z : Nat
  t : Nat
  deriving DecidableEq, Repr

def neutral : Point := ⟨0, 1, 1, 0⟩

/-- The base point. -/
def base : Point :=
  { x := 15112221349535400772501151409588531511454012693041857206046113283949847762202
    y := 46316835694926478169428394003475163141307993866256225615783033603165251855960
    z := 1
    t := 46827403850823179245072216630277197565144205554125654976674165829533817101731 }

/-- The point whose four coordinates are products of E, F, G and H (5.1.4). -/
def ofFactors (e f g h : Nat) : Point :=
  evaluated (e * f % prime) fun x => evaluated (g * h % prime) fun y => evaluated (f * g % prime) fun z => evaluated (e * h % prime) fun t => ⟨x, y, z, t⟩

/-- The sum of two points. -/
def addPoints (p q : Point) : Point :=
  match p, q with
  | ⟨x1, y1, z1, t1⟩, ⟨x2, y2, z2, t2⟩ =>
    evaluated ((y1 + prime - x1) * (y2 + prime - x2) % prime) fun a => evaluated ((y1 + x1) * (y2 + x2) % prime) fun b =>
      evaluated (2 * t1 * t2 * curveD % prime) fun c => evaluated (2 * z1 * z2 % prime) fun d =>
        evaluated (b + prime - a) fun e => evaluated (d + prime - c) fun f => evaluated (d + c) fun g => evaluated (b + a) fun h => ofFactors e f g h

/-- `acc` plus a multiple of a point, for a factor of `n` bits. -/
def multiply : (n k : Nat) → (p acc : Point) → Point
  | 0, _, _, acc => acc
  | n + 1, k, p, acc =>
    evaluated (k / 2) fun k' =>
      match (if k % 2 = 1 then addPoints acc p else acc), addPoints p p with
      | ⟨x, y, z, t⟩, ⟨x', y', z', t'⟩ => multiply n k' ⟨x', y', z', t'⟩ ⟨x, y, z, t⟩

def samePoint (p q : Point) : Bool := p.x * q.z % prime == q.x * p.z % prime && p.y * q.z % prime == q.y * p.z % prime

/-- The 32 bytes of a point (5.1.2). -/
def encodePoint (p : Point) : List Byte :=
  evaluated (inverse p.z) fun i => evaluated (p.x * i % prime) fun x => evaluated (p.y * i % prime) fun y => bytesLE 32 (y + x % 2 * 2 ^ 255)

/-- The x of a point from its y and its sign, where there is one (5.1.3). -/
def recoverX (y sign : Nat) : Option Nat :=
  evaluated ((y * y + prime - 1) * inverse ((curveD * y * y + 1) % prime) % prime) fun x2 =>
    evaluated (power 255 x2 ((prime + 3) / 8) 1) fun r =>
      evaluated (if r * r % prime = x2 then r else r * rootMinusOne % prime) fun x =>
        if x * x % prime ≠ x2 ∨ (x = 0 ∧ sign = 1) then none else some (if x % 2 = sign then x else prime - x)

/-- The point of 32 bytes, where they encode one. -/
def decodePoint (bs : List Byte) : Option Point :=
  if bs.length ≠ 32 then none
  else
    evaluated (leNat bs % 2 ^ 255) fun y =>
      if prime ≤ y then none else (recoverX y (leNat bs / 2 ^ 255)).map fun x => evaluated (x * y % prime) fun t => ⟨x, y, 1, t⟩

/-! ### Ed25519 (5.1.5 to 5.1.7) -/

/-- The secret scalar of a seed's digest. -/
def scalar (digest : List Byte) : Nat := leNat (digest.take 32) / 8 * 8 % 2 ^ 254 + 2 ^ 254

/-- The public key of a 32-byte seed. -/
def publicKey (seed : List Byte) : List Byte := encodePoint (multiply 255 (scalar (sha512 seed)) base neutral)

/-- dom2 with flag 1: the prefix of Ed25519ph with a context. -/
def domain (context : List Byte) : List Byte :=
  ("SigEd25519 no Ed25519 collisions".toList.map fun c => BitVec.ofNat 8 c.toNat) ++ [1, BitVec.ofNat 8 context.length] ++ context

/-- The signature of a message under a seed, with a variant's prefix. -/
def signWith (dom seed msg : List Byte) : List Byte :=
  let h := sha512 seed
  evaluated (leNat (sha512 (dom ++ h.drop 32 ++ msg)) % order) fun r =>
    let big := encodePoint (multiply 253 r base neutral)
    evaluated (leNat (sha512 (dom ++ big ++ publicKey seed ++ msg)) % order) fun k => big ++ bytesLE 32 ((r + k * scalar h) % order)

/-- Whether a signature verifies, with a variant's prefix: 8 S B = 8 R + 8 k A, the group equation of 5.1.7. -/
def verifyWith (dom key msg sig : List Byte) : Bool :=
  match decodePoint key, decodePoint (sig.take 32) with
  | some a, some r =>
    evaluated (leNat (sig.drop 32)) fun s => evaluated (leNat (sha512 (dom ++ sig.take 32 ++ key ++ msg)) % order) fun k =>
      sig.length == 64 && decide (s < order) &&
        samePoint (multiply 4 8 (multiply 253 s base neutral) neutral) (multiply 4 8 (addPoints r (multiply 253 k a neutral)) neutral)
  | _, _ => false

/-- The pure Ed25519 signature of a message under a seed. -/
def ed25519Sign (seed msg : List Byte) : List Byte := signWith [] seed msg

/-- Whether a pure Ed25519 signature verifies. -/
def ed25519Verify (key msg sig : List Byte) : Bool := verifyWith [] key msg sig

/-- Whether an Ed25519ph signature with a context verifies over a message's digest (18 R492). -/
def ed25519phVerify (key context digest sig : List Byte) : Bool := verifyWith (domain context) key digest sig

end Sys2Proof.Crypto
end

