-- ==== Sys2Proof/Machine/Regs.lean ====
section
/-!
DEFINITION. Regs.lean: the flag registers (08 R250 to R254), the table-load registers (09 R270 to R273), the beat-counter
snapshots (02 R43 to R47) and the cyclic schedule (14 R411 to R415) with its frame events (02 R48 to R51).
-/
namespace Sys2Proof.Machine

/-! ### Flag registers -/

/-- The flag-set key of a die's engine of a class for a partition; none where the selection names nothing. -/
def nflagKey (die cls index part : Nat) : Option Nat :=
  if cls = 0 ∧ index < 768 then some (flagKey (768 * die + index) part)
  else if cls = 1 ∧ index < 192 then some (arrayFlagKey (192 * die + index) part)
  else none

/-- The global core of a flag engine. -/
def nflagCore (die cls index : Nat) : Nat := 192 * die + if cls = 0 then index / 4 else index

/-- The set that a die's SAIL_NFLAG_SEL selects, where the request may see it and the engine's domain is on. -/
def nflagSel (k : Keel) (f : Fab) (m : Mark) (die : Nat) : Option Nat :=
  let d := dieRegs f die
  if actsFor k m d.nfPart && coreOn k (nflagCore die d.nfClass d.nfIndex) then nflagKey die d.nfClass d.nfIndex d.nfPart else none

def flagSetOf (f : Fab) (key : Nat) : FlagSet := tgetD f.cores.flags key { flags := 0, ctx := 0 }

/-- SAIL_NFLAG_SET. -/
def nflagSet (k : Keel) (f : Fab) (m : Mark) (die : Nat) : Nat :=
  match nflagSel k f m die with
  | none => 0
  | some key => 2 ^ 31 + (flagSetOf f key).ctx * 2 ^ 16 + (flagSetOf f key).flags.toNat

/-- W1C of a set: a set whose flags are all 0 holds no context. -/
def clearFlags (f : Fab) (key v : Nat) : Fab :=
  let s := flagSetOf f key
  let fl := s.flags &&& ~~~(BitVec.ofNat 6 v)
  onCores f fun c => { c with flags := if fl = 0 then tdel c.flags key else tput c.flags key { s with flags := fl } }

/-- A write of SAIL_NFLAG_SEL. -/
def writeNflagSel (k : Keel) (f : Fab) (m : Mark) (die v : Nat) : Fab :=
  if actsFor k m (fld v 16 4) then modDie f die fun d => { d with nfClass := fld v 24 4, nfPart := fld v 16 4, nfIndex := fld v 0 10 } else f

/-- A write of SAIL_NFLAG_SET. -/
def writeNflagSet (k : Keel) (f : Fab) (m : Mark) (die v : Nat) : Fab :=
  match nflagSel k f m die with
  | none => f
  | some key => clearFlags f key v

/-- A write of SAIL_NFLAG_SCAN starts a scan, abandons one in progress and forgets what the last one found, which may have been another
partition's (08 R253). -/
def writeNflagScan (k : Keel) (f : Fab) (m : Mark) (die v : Nat) : Fab :=
  if actsFor k m (fld v 24 4) then modDie f die fun d => { d with
    scanDone := false, scanBusy := true, scanNext := 0, scanClass := fld v 28 2, scanPart := fld v 24 4, scanStart := fld v 0 10 }
  else f

/-- SAIL_NFLAG_SCAN: a request that may not see the partition finds no engine. -/
def nflagScan (k : Keel) (f : Fab) (m : Mark) (die : Nat) : Nat :=
  let d := dieRegs f die
  (if d.scanDone then 2 ^ 31 else 0) + d.scanClass * 2 ^ 28 + d.scanPart * 2 ^ 24 +
    (if actsFor k m d.scanPart then d.scanNext else 1023) * 2 ^ 10 + d.scanStart

/-- The lowest INDEX at or above a start whose set holds a flag, or 1,023. -/
def scanFrom (k : Keel) (f : Fab) (die cls part start : Nat) : Nat :=
  let has := fun i => match nflagKey die cls i part with
    | some key => coreOn k (nflagCore die cls i) && (flagSetOf f key).flags != 0
    | none => false
  ((List.range 768).find? fun i => decide (start ≤ i) && has i).getD 1023

/-- FLAG_SCAN_COMPLETE. -/
def runScanDone (k : Keel) (f : Fab) (die : Nat) : Fab :=
  let d := dieRegs f die
  if d.scanBusy then modDie f die fun d => { d with
    scanBusy := false, scanDone := true, scanNext := scanFrom k f die d.scanClass d.scanPart d.scanStart }
  else f

/-- The die and the partition of a flag-set key. -/
def flagDie (key : Nat) : Nat := if key / 16 < 4096 then key / 16 / 768 else (key / 16 - 4096) / 192

/-- A write of SAIL_NFLAG_CLR with GO 1. -/
def writeNflagClr (k : Keel) (f : Fab) (m : Mark) (die v : Nat) : Fab :=
  if bitAt v 0 && actsFor k m (fld v 16 4) then
    onCores f fun c => { c with flags := c.flags.filter fun e => !(e.1 % 16 == fld v 16 4 && flagDie e.1 == die) }
  else f

/-! ### Table loads -/

/-- A write of SAIL_SFT_SEL. -/
def writeSftSel (k : Keel) (f : Fab) (m : Mark) (die v : Nat) : Fab :=
  if actsFor k m (fld v 16 4) then modDie f die fun d => { d with sftPart := fld v 16 4, sftTable := fld v 0 4 } else f

/-- A write of SAIL_SFT_SRC. -/
def writeSftSrc (k : Keel) (f : Fab) (m : Mark) (die : Nat) (v : Word64) : Fab :=
  if actsFor k m (dieRegs f die).sftPart then modDie f die fun d => { d with sftSrc := v } else f

/-- The object check of step 2: R permission, kind 0, 1 or 3, SRC 64-byte aligned. -/
def sftPlace (f : Fab) (part : Nat) (src : Word64) : Option Loc :=
  match checkAt f part none .load src 64 4160 with
  | .ok l => if l.kind = 0 ∨ l.kind = 1 ∨ l.kind = 3 then some l else none
  | .error _ => none

/-- A write of SAIL_SFT_CMD with GO 1: steps 1 and 2 of 09 R271 begin, or the write is discarded while a load runs. -/
def writeSftCmd (k : Keel) (f : Fab) (m : Mark) (die v : Nat) : Fab :=
  let d := dieRegs f die
  if !bitAt v 0 || !actsFor k m d.sftPart then f
  else if d.sftLoad.isSome then modDie f die fun d => { d with sftOverrun := true }
  else
    let id := f.nextId
    let start := fun (f : Fab) (fault : Nat) => modDie { f with nextId := id + 1 } die fun d => { d with
      sftLoad := some { id := id, step := 1, got := fault != 0, fault := fault, table := d.sftTable, part := d.sftPart, src := d.sftSrc, image := [], promise := false } }
    if !sftOwned k d.sftTable d.sftPart then start f 2
    else match sftPlace f d.sftPart d.sftSrc with
      | none => start f 3
      | some l => startRead k (start f 0) (.sft die id) (partsOf l 4160) die

/-- A load ends with a RESULT. -/
def endSft (f : Fab) (die part code : Nat) : Fab :=
  modDie f die fun d => { d with sftLoad := none, sftResult := code, sftResultPart := part }

/-- SFT_IMAGE_CHECKED: step 2 ends. -/
def runSftChecked (f : Fab) (die : Nat) : Fab :=
  match (dieRegs f die).sftLoad with
  | none => f
  | some l =>
    if l.step ≠ 1 || !l.got then f
    else if l.fault ≠ 0 then endSft f die l.part l.fault
    else if !imageValid l.image then endSft f die l.part 4
    else
      let seam := seamCheck l.image
      if bitAt (numAt l.image 0 8) 45 && !seam then endSft f die l.part 5
      else modDie f die fun d => { d with sftLoad := some { l with step := 2, promise := seam } }

/-- A descriptor in flight on the die has pinned a bank of a table (06 R184). -/
def bankPinned (f : Fab) (die t bank : Nat) : Bool :=
  f.eng.mx.any fun a => dieOfCore a.1 == die &&
    a.2.queue.any fun x => x.accepted && mxSfEn x.bytes && mxTable x.bytes == t && x.bank == bank

def SftTable.none : SftTable := { bank0 := [], bank1 := [], active := 0, loaded := false, promise0 := false, promise1 := false }

/-- Steps 4 and 5: the inactive bank is written and the banks flip. -/
def flipTable (x : SftTable) (image : List Byte) (promise : Bool) : SftTable :=
  if x.active = 0 then { x with bank1 := image, promise1 := promise, active := 1, loaded := true }
  else { x with bank0 := image, promise0 := promise, active := 0, loaded := true }

/-- SFT_PINS_CLEARED: steps 3 to 6. -/
def runSftCleared (f : Fab) (die : Nat) : Fab :=
  match (dieRegs f die).sftLoad with
  | none => f
  | some l =>
    let x := tgetD f.eng.sft (sftKey die l.table) SftTable.none
    if l.step ≠ 2 || bankPinned f die l.table (1 - x.active) then f
    else endSft (onEng f fun e => { e with sft := tput e.sft (sftKey die l.table) (flipTable x l.image l.promise) }) die l.part 1

/-- SAIL_SFT_STATUS. -/
def sftStatus (k : Keel) (f : Fab) (m : Mark) (die : Nat) : Nat :=
  let d := dieRegs f die
  if !actsFor k m d.sftPart then 0
  else
    let x := tgetD f.eng.sft (sftKey die d.sftTable) SftTable.none
    let fixed := decide (d.sftTable < 8)
    let b := fun (c : Bool) (i : Nat) => if c then 2 ^ i else 0
    b d.sftLoad.isSome 31 + b d.sftOverrun 30 + b (fixed || (x.loaded && if x.active = 0 then x.promise0 else x.promise1)) 26 +
      b (!fixed && x.active == 1) 25 + b (fixed || x.loaded) 24 + b (sftOwned k d.sftTable d.sftPart) 20 +
      (if d.sftResultPart = d.sftPart then d.sftResult else 0)

/-- A write of SAIL_SFT_STATUS: OVERRUN is W1C. -/
def writeSftStatus (k : Keel) (f : Fab) (m : Mark) (die v : Nat) : Fab :=
  if bitAt v 30 && actsFor k m (dieRegs f die).sftPart then modDie f die fun d => { d with sftOverrun := false } else f

/-! ### Beat counters -/

/-- Units of each counter class on one die (02 R46). -/
def classUnits : Nat → Nat
  | 0 => 768 | 1 => 192 | 2 => 192 | 3 => 3 | 4 => 48 | 5 => 12 | 6 => 12 | _ => 0

/-- The power domain of a unit (17 R465). -/
def unitDom (die cls index : Nat) : Nat :=
  match cls with
  | 0 => computeDom die (index / 256)
  | 1 | 2 => computeDom die (index / 64)
  | 3 | 4 => memDom die
  | _ => computeDom die (index / 4)

/-- A write of SAIL_BEATCNT_SEL. -/
def writeBeatSel (f : Fab) (die v : Nat) : Fab :=
  modDie f die fun d =>
    let d := { d with beatClass := fld v 24 4, beatIndex := fld v 0 10 }
    if bitAt v 31 then { d with beatBusy := true, beatValid := false } else d

/-- SNAPSHOT_COMPLETE (02 R47): both counters at one beat of the unit. DESIGN CHOICE (log 56): of the unit selected now, if a write
with SNAP 0 has changed the selection since. -/
def runSnapshot (k : Keel) (f : Fab) (die : Nat) : Fab :=
  let d := dieRegs f die
  if !d.beatBusy then f
  else
    let bad := decide (d.beatIndex ≥ classUnits d.beatClass)
    let off := !bad && !domainOn k (unitDom die d.beatClass d.beatIndex)
    let key := unitKey d.beatClass (classUnits d.beatClass * die + d.beatIndex)
    let val := fun (t : Table Nat) => if bad || off then 0 else tgetD t key 0
    modDie f die fun d => { d with
      beatBusy := false, beatValid := true, beatBadSel := bad, beatOff := off, beatElapsed := val f.elapsed, beatWork := val f.work }

/-- SAIL_BEATCNT_STATUS. -/
def beatStatus (d : DieRegs) : Nat := (if d.beatOff then 4 else 0) + (if d.beatBadSel then 2 else 0) + (if d.beatValid then 1 else 0)

/-! ### The cyclic schedule -/

def schedSlots (k : Keel) : List Word32 := ((k.image.bind (·.sched)).map (·.slots)).getD []

/-- The next FSTART slot after a position, cyclically; the position itself where it is the only one (14 R412). -/
def nextStart (slots : List Word32) (at_ : Nat) : Nat :=
  (((List.range slots.length).map fun i => (at_ + 1 + i) % slots.length).find? fun i => ((slots[i]?).getD 0).getLsbD 31).getD at_

/-- The last FSTART slot in table order: FRAME_SLOT until the first accepted frame (14 R412). -/
def lastStart (slots : List Word32) : Nat :=
  (((List.range slots.length).reverse).find? fun i => ((slots[i]?).getD 0).getLsbD 31).getD 0

/-- Whether a frame source is the selected one (02 R49). -/
def selectedFrame (k : Keel) (src : FrameSrc) : Bool :=
  match k.image.bind (·.sched), src with
  | some s, .frameIn => s.src == 1
  | some s, .doorbell => s.src == 2
  | some s, .glinen p => s.src == 3 && s.port == p
  | none, _ => false

/-- 1 µs and 1 ms of keel time, in periods (02 R42). -/
def usec : Nat := 200
def msec : Nat := 200000

/-- A FRAME message of a port goes ahead of every queued frame (16 R464). -/
def sendFrameMsg (k : Keel) (f : Fab) (port : Nat) : Fab :=
  let fr : Frame := { w0 := BitVec.ofNat 64 (7 * 2 ^ 56), w1 := BitVec.ofNat 64 (((k.image.bind (·.routes)).map (·.self)).getD 0 * 2 ^ 32), w2 := 0, w3 := 0, w4 := 0, w5 := 0, w6 := 0, w7 := 0, data := [] }
  pumpTx port (modPort f port fun p => { p with txq := (k.time, fr) :: p.txq })

/-- Frame events of one source are taken in one order (02 R50). -/
def frameFirst (f : Fab) (m : Nat) (src : FrameSrc) : Bool := f.net.all fun e => !(decide (e.1 < m)) || e.2 != .frame src

/-- FRAME_EVENT (14 R412, 02 R49 to R51): the event is unselected, merged, or moves FRAME_SLOT and is broadcast. -/
def runFrameEvent (k : Keel) (f : Fab) (m : Nat) : Keel × Fab :=
  match tfind f.net m with
  | some (.frame src) =>
    if !frameFirst f m src then (k, f)
    else
      let f := drop f m
      if !selectedFrame k src then ({ k with unselected := sat 65535 (k.unselected + 1) }, f)
      else if k.lastFrame.any fun t => decide (k.time < t + usec) then ({ k with merged := sat 65535 (k.merged + 1) }, f)
      else
        let k := { k with
          accepted := (k.accepted + 1) % 2 ^ 32, lastFrame := some k.time, frameSlot := nextStart (schedSlots k) k.frameSlot }
        let f := sendAll f ((List.range k.sails).map fun d => .slotStart d)
        let fwd := ((k.image.bind (·.routes)).map (·.frameFwd)).getD 0
        (k, (setBits 6 fwd).foldl (fun f p => sendFrameMsg k f p) f)
  | _ => (k, f)

/-- A frame event from a source is on its way to the keel (02 R50). -/
def frameFrom (f : Fab) (src : FrameSrc) : Fab := send f (.frame src)

/-- SLOT_FRAME_START (14 R412 step 3): the die ends its slot, goes to FRAME_SLOT with its count at 0 and leaves the tail. -/
def runSlotStart (k : Keel) (f : Fab) (die : Nat) : Fab :=
  match f.net.find? fun e => e.2 == .slotStart die with
  | none => f
  | some e => modDie (drop f e.1) die fun d => { d with schedTail := false, schedSlot := k.frameSlot, schedBudget := 0 }

/-- BUDGET of a slot: bits 23:0 of its entry (14 R411). -/
def slotBudget (slots : List Word32) (i : Nat) : Nat := fld ((slots[i]?).getD 0).toNat 0 24

/-- SLOT_BUDGET_EXPIRY (14 R413): the count has reached BUDGET; the die goes to the next slot, or into the frame tail. The count stands while
every compute domain of the die is off. A frame event that reaches the die in the same beat sets its position to FRAME_SLOT, whichever of the
two rows comes first (14 R415). -/
def runSlotExpiry (k : Keel) (f : Fab) (die : Nat) : Fab :=
  let d := dieRegs f die
  let slots := schedSlots k
  let counts := (List.range 3).any fun x => domainOn k (computeDom die x)
  if d.schedTail || slots.isEmpty || !counts || decide (d.schedBudget < slotBudget slots d.schedSlot) then f
  else
    let next := (d.schedSlot + 1) % slots.length
    if ((slots[next]?).getD 0).getLsbD 31 then modDie f die fun d => { d with schedTail := true, schedBudget := 0 }
    else modDie f die fun d => { d with schedSlot := next, schedBudget := 0 }

/-- The schedule registers at the scheduler region, by offset (14). SLOT of SCHED_DIE_POS is undefined while TAIL is 1: a free value. -/
def schedReg (k : Keel) (f : Fab) (off : Nat) : Option Nat :=
  let sc := k.image.bind (·.sched)
  if off = 0 then some ((sc.map (·.src)).getD 0 * 2 ^ 30 + (sc.map fun s => if s.src = 3 then s.port else 0).getD 0 * 2 ^ 27 + k.frameSlot)
  else if off = 8 then some (k.accepted * 2 ^ 32 + k.merged * 2 ^ 16 + k.unselected)
  else if 0x10 ≤ off ∧ off < 0x30 ∧ off % 8 = 0 then
    let s := (off - 0x10) / 8
    let d := dieRegs f s
    some (if decide (s < k.sails) then 2 ^ 31 + (if d.schedTail then 2 ^ 8 + (Config.freeWord f.free).toNat % 256 else d.schedSlot % 256) else 0)
  else if 0x44 ≤ off ∧ off < 0x50 ∧ off % 4 = 0 then
    let r := (((k.image.map (·.reserves)).getD [])[(off - 0x44) / 4]?).getD (0, 0)
    some (r.2 * 2 ^ 16 + r.1)
  else if off = 0x800 then some 0
  else if 0x1000 ≤ off ∧ off < 0x1400 ∧ off % 4 = 0 then some (((schedSlots k)[(off - 0x1000) / 4]?).getD 0).toNat
  else none

/-! ### The rows -/

/-- FLAG_SCAN_START (08 R254): a write of SAIL_NFLAG_SCAN. -/
def execFlagScanStart (mark : Mark) (die : Nat) (v : Word32) (s : State) : Out :=
  regRow s mark fun k f => if die < k.sails then writeNflagScan k f mark die v.toNat else f
/-- FLAG_SCAN_COMPLETE (08 R254). -/
def execFlagScanComplete (die : Nat) (s : State) : Out := onFab s fun k f => runScanDone k f die
/-- FLAG_SET_CLEAR (08 R252): a write of SAIL_NFLAG_SET. -/
def execFlagSetClear (mark : Mark) (die : Nat) (v : Word32) (s : State) : Out :=
  regRow s mark fun k f => if die < k.sails then writeNflagSet k f mark die v.toNat else f
/-- FLAG_CLEAR_ALL (08 R254): a write of SAIL_NFLAG_CLR. -/
def execFlagClearAll (mark : Mark) (die : Nat) (v : Word32) (s : State) : Out :=
  regRow s mark fun k f => if die < k.sails then writeNflagClr k f mark die v.toNat else f
/-- SFT_GO (09 R271): a write of SAIL_SFT_CMD. -/
def execSftGo (mark : Mark) (die : Nat) (v : Word32) (s : State) : Out :=
  regRow s mark fun k f => if die < k.sails then settle k (writeSftCmd k f mark die v.toNat) else f
/-- SFT_IMAGE_CHECKED (09 R271). -/
def execSftImageChecked (die : Nat) (s : State) : Out := onFab s fun _ f => runSftChecked f die
/-- SFT_PINS_CLEARED (09 R271). -/
def execSftPinsCleared (die : Nat) (s : State) : Out := onFab s fun _ f => runSftCleared f die
/-- SNAP (02 R47): a write of SAIL_BEATCNT_SEL with SNAP 1. -/
def execSnap (mark : Mark) (die : Nat) (v : Word32) (s : State) : Out :=
  regRow s mark fun k f => if v.getLsbD 31 && decide (die < k.sails) then writeBeatSel f die v.toNat else f
/-- SNAPSHOT_COMPLETE (02 R47). -/
def execSnapshotComplete (die : Nat) (s : State) : Out := onFab s fun k f => runSnapshot k f die
/-- FRAME_IN_EDGE (20 R535); ignored while RESET_N is low and during a stop (20 R536). -/
def execFrameInEdge (s : State) : Out := onFab s fun k f =>
  if k.on && k.resetN && !k.power.stopping && k.power.state != 3 then frameFrom f .frameIn else f
/-- FRAME_DOORBELL (15 R429): a write of SCHED_FRAME_DB with FRAME 1. -/
def execFrameDoorbell (mark : Mark) (v : Word32) (s : State) : Out :=
  regRow s mark fun _ f => if v.getLsbD 0 then frameFrom f .doorbell else f
/-- FRAME_EVENT (14 R412). -/
def execFrameEvent (m : Nat) (s : State) : Out := onBoth s fun k f => runFrameEvent k f m
/-- SLOT_FRAME_START (14 R412). -/
def execSlotFrameStart (die : Nat) (s : State) : Out := onFab s fun k f => runSlotStart k f die
/-- SLOT_BUDGET_EXPIRY (14 R413). -/
def execSlotBudgetExpiry (die : Nat) (s : State) : Out := onFab s fun k f => runSlotExpiry k f die

end Sys2Proof.Machine
end

