-- ==== Sys2Proof/Machine/Glinen.lean ====
section
/-!
DEFINITION. Glinen.lean: the Glinen ports (16): frames that arrive, their checks, forwarding and responses, replay and
training, routes and their timeouts, and the port and route registers.
-/
namespace Sys2Proof.Machine

/-! ### A frame's form (16 R449, R451, R452) -/

def portPresent (k : Keel) (port : Nat) : Bool := k.fuse.variant.ports && decide (port < 6)
/-- The sail die that a port's die attaches to. -/
def portSail (port : Nat) : Nat := 2 + port / 3
def portOn (k : Keel) (port : Nat) : Bool := portPresent k port && domainOn k (2 + port / 3)
def portUp (k : Keel) (f : Fab) (port : Nat) : Bool := portOn k port && (portOf f port).state == 2

def knownFrame (ty : Nat) : Bool := decide (ty ≤ 7) || ty == 0x81 || ty == 0x82 || ty == 0x84 || ty == 0x86

/-- LEN and class that a type allows. -/
def frameShape (fr : Frame) : Bool :=
  let n := fr.len
  let request := decide (fr.vc < 2) && fr.status == 0
  let response := decide (2 ≤ fr.vc) && decide (fr.status ≤ 1)
  match fr.ty with
  | 0x00 | 0x07 => request && n == 0 && fr.dst == 0
  | 0x01 | 0x05 => request && decide (1 ≤ n) && decide (fr.bytes ≤ 64 * n)
  | 0x02 | 0x04 | 0x06 => request && n == 0
  | 0x03 => request && n == 1 && decide (8 ≤ fr.aop ∧ fr.aop ≤ 17)
  | 0x82 => response
  | _ => response && n == 0

def frameOk (fr : Frame) : Bool :=
  knownFrame fr.ty && fr.reserved && decide (fr.len ≤ 8) && decide (fr.data.length = 64 * fr.len) && decide (fr.bytes ≤ 512) &&
  decide (fr.hint ≤ 2) && frameShape fr && (!fr.masked || (fr.off % 128 == 0 && decide (fr.len ≤ 2)))

def frN (fr : Frame) : Nat := fld fr.w5.toNat 32 32
def frSigEn (fr : Frame) : Bool := fr.w5.getLsbD 15
def frCid (fr : Frame) : Nat := fld fr.w5.toNat 0 14
def frXcount (fr : Frame) : Nat := fld fr.w6.toNat 32 32

def selfOf (k : Keel) : Nat := ((k.image.bind (·.routes)).map (·.self)).getD 0

/-! ### The link (16 R443 to R445) -/

/-- A LINKCTL frame with ACKSEQ and REPLAY. -/
def linkctlFrame (k : Keel) (replay : Bool) (ack : Nat) : Frame :=
  { w0 := 0, w1 := BitVec.ofNat 64 (selfOf k * 2 ^ 32), w2 := 0, w3 := 0, w4 := 0
    w5 := BitVec.ofNat 64 ((if replay then 2 ^ 15 else 0) + ack), w6 := 0, w7 := 0, data := [] }

/-- The last codeword that a port has received, from the units it has taken in. -/
def lastSeq (units : Nat) : Nat := (units / 10 + 4095) % 4096

/-- A port has taken in what fills the places up to `u`: ACKSEQ is reported once in 64 codewords. -/
def tookIn (k : Keel) (f : Fab) (port u : Nat) : Fab :=
  let old := (portOf f port).rxSeq
  let f := modPort f port fun p => { p with rxSeq := u }
  if u / 640 = old / 640 then f else enqueue k f port (linkctlFrame k false (lastSeq u))

/-- A frame has come in. It leaves the receive buffer at once, and the block control of the port's next codeword returns its credits (16 R443,
R444). -/
def received (k : Keel) (f : Fab) (port : Nat) (fr : Frame) : Fab :=
  let p := portOf f port
  tookIn k { f with sent := f.sent ++ [.credit port (seqOfUnit p.unitsSent) fr.vc (1 + fr.len)] } port (p.rxSeq + 1 + fr.len)

/-- The frames after ACKSEQ are sent again, in order. -/
def replayPort (f : Fab) (port : Nat) : Fab :=
  { f with sent := f.sent ++ (portOf f port).sent.map fun x => Sent.frame port x.2.2 }

/-- A LINKCTL frame: what it acknowledges leaves the replay store; REPLAY makes the port send the rest again. -/
def runLinkctl (_ : Keel) (f : Fab) (port : Nat) (fr : Frame) : Fab :=
  let ack := fld fr.w5.toNat 0 12
  let f := modPort f port fun p => { p with
    ackSeq := ack, sent := p.sent.filter fun (x : Nat × Nat × Frame) => decide ((ack + 4096 - x.2.1) % 4096 ≥ 2048) }
  let f := if fr.w5.getLsbD 15 then replayPort (modPort f port fun p => { p with replayed := sat 65535 (p.replayed + 1) }) port else f
  pumpTx port f

def retrainPort (f : Fab) (port : Nat) : Fab :=
  modPort f port fun p => { p with state := 3, retrains := sat 255 (p.retrains + 1), uncorrectable := [] }

/-- CODEWORD_UNCORRECTABLE: the receiver asks for a replay after the last codeword it has. -/
def runUncorrectable (k : Keel) (f : Fab) (port : Nat) : Fab :=
  if !portUp k f port then f
  else
    let f := modPort f port fun p => { p with uncorrectable := (p.uncorrectable.filter fun t => decide (k.time < t + msec)) ++ [k.time] }
    enqueue k f port (linkctlFrame k true (lastSeq (portOf f port).rxSeq))

/-- PORT_RETRAIN_TRIGGER: more than 16 uncorrectable codewords within 1 ms. -/
def runRetrainTrigger (k : Keel) (f : Fab) (port : Nat) : Fab :=
  if portUp k f port && decide (((portOf f port).uncorrectable.filter fun t => decide (k.time < t + msec)).length > 16) then
    retrainPort f port
  else f

/-- LANE_LOCK_LOST. -/
def runLockLost (k : Keel) (f : Fab) (port lane : Nat) : Fab :=
  if portUp k f port && decide (lane < 8) then
    modPort (retrainPort f port) port fun p => { p with locked := p.locked &&& ~~~(BitVec.ofNat 8 (2 ^ lane)) }
  else f

/-- A port comes up: lanes lock, and what waits is sent; or it stays down. -/
def endTraining (_ : Keel) (f : Fab) (port : Nat) (ok : Bool) : Fab :=
  let f := modPort f port fun p => { p with state := if ok then 2 else 0, locked := if ok then 0xFF else 0 }
  pumpTx port f

/-- PORT_RETRAIN_COMPLETE: replay resumes from ACKSEQ, or the port is down. -/
def runPortRetrained (k : Keel) (f : Fab) (port : Nat) (ok : Bool) : Fab :=
  if (portOf f port).state ≠ 3 then f
  else if ok then endTraining k (replayPort f port) port true else endTraining k f port false

/-- A write of GLN_PORT_CTRL. -/
def writePortCtrl (k : Keel) (f : Fab) (m : Mark) (port v : Nat) : Fab :=
  if bitAt v 0 && systemMark m && portOn k port && (portOf f port).state == 0 then modPort f port fun p => { p with state := 1 } else f

/-- FRAME_AGE_EXPIRY: a frame that has waited 100 µs in the transmit queue or the replay store, counted in that order. -/
def runFrameAge (k : Keel) (f : Fab) (port m : Nat) : Fab :=
  let p := portOf f port
  let old := fun (t : Nat) => decide (t + 100 * usec ≤ k.time)
  if m < p.txq.length then
    match p.txq[m]? with
    | some x => if old x.1 then discardFrame (modPort f port fun p => { p with txq := p.txq.eraseIdx m }) port else f
    | none => f
  else
    let i := m - p.txq.length
    match p.sent[i]? with
    | some x => if old x.1 then discardFrame (modPort f port fun p => { p with sent := p.sent.eraseIdx i }) port else f
    | none => f

/-- CREDIT_RETURN. -/
def runCredit (k : Keel) (f : Fab) (port vc units : Nat) : Fab :=
  if portUp k f port && decide (vc < 4) && decide (units < 64) then
    pumpTx port (modPort f port fun p => { p with credits := tupd p.credits vc 0 fun c => min 256 (c + units) })
  else f

/-! ### Forwarding (16 R448, R449) -/

/-- A frame for another address, by the arrival port's input table. -/
def forwardFrame (k : Keel) (f : Fab) (port : Nat) (fr : Frame) : Fab :=
  let table := (((k.image.bind (·.routes)).map (·.inputs)).getD [])[port]?.getD []
  match longest 0 table fr.dst with
  | none => discardFrame f port
  | some (_, e) =>
    if decide (fr.hops ≤ 1) || entryPort e == port then discardFrame f port
    else
      let vc := fr.vc / 2 * 2 + (if e.getLsbD 62 then 1 else fr.vc % 2)
      let w := fr.w0.toNat
      enqueue k f (entryPort e) { fr with w0 := BitVec.ofNat 64 (fld w 56 8 * 2 ^ 56 + vc * 2 ^ 54 + (fr.hops - 1) * 2 ^ 46 + fld w 0 46) }

/-! ### Delivered requests (16 R454 to R459) -/

/-- Local partitions that the pairs table admits a frame for (16 R450). -/
def admitted (k : Keel) (fr : Frame) : List Nat :=
  let pairs := ((k.image.bind (·.routes)).map (·.pairs)).getD []
  (pairs.filter fun e => e.getLsbD 63 && fld e.toNat 56 4 == fr.spart &&
    (let n := 8 * (4 - fld e.toNat 60 3); fld e.toNat 0 32 / 2 ^ n == fr.src / 2 ^ n)).map fun e => fld e.toNat 52 4

/-- Checks 1 to 5 of 16 R455; `align` is an atomic's size, else 1. -/
def admitFrame (k : Keel) (f : Fab) (fr : Frame) (ok : MemObj → Bool) (align : Nat) : Except Nat (Loc × MemObj) :=
  let parts := admitted k fr
  if parts.isEmpty then .error 0x0202
  else match tfind f.tab.objs fr.slot with
    | none => .error 0x0202
    | some o =>
      if !parts.contains o.part || decide (o.kind > 4) then .error 0x0202
      else if o.kind = 2 ∨ o.kind = 4 then .error 0x0203
      else if fr.epoch ≠ epochOf f .memory fr.slot then .error 0x0503
      else if !ok o then .error 0x0203
      else if fr.off + fr.bytes > o.len then .error 0x0205
      else if fr.off % align ≠ 0 then .error 0x0204
      else .ok ({ kind := o.kind, part := o.part, off := o.base + fr.off, core := 0, kdata := o.kdata, c := o.c }, o)

/-- Check 6: the counter that a signal names in the table of the slot's owning context. -/
def frameCounter (f : Fab) (fr : Frame) (o : MemObj) : Except Nat Nat :=
  match translate f o.owner (frCid fr) .sig with
  | some p => .ok p
  | none => .error 0x0401

/-- A request whose role has changed is counted in ROLE_DROPS of the target's partition (13 R395). -/
def noteRole (f : Fab) (port : Nat) (fr : Frame) (code : Nat) : Fab :=
  if code = 0x0503 then roleDrop f (portSail port) (((tfind f.tab.objs fr.slot).map (·.part)).getD 0) 4 else f

/-- A refused request is answered with its code. -/
def refuseFrame (k : Keel) (f : Fab) (port : Nat) (fr : Frame) (ty code : Nat) : Fab :=
  sendResponse k (noteRole f port fr code) (respFrame k ty fr 1 code [])

/-- The bytes that a WR or XWR writes. -/
def frameBytes (fr : Frame) : List (Option Byte) :=
  (fr.data.take fr.bytes).mapIdx fun i b =>
    if !fr.masked || bitAt (if i < 64 then fr.w5.toNat / 2 ^ i else fr.w6.toNat / 2 ^ (i - 64)) 0 then some b else none

/-- The writes of a frame; a hint that names nothing present is ignored (16 R455). -/
def frameWrites (k : Keel) (sink : AckSink) (fr : Frame) (loc : Loc) : List AgentWrite :=
  let there := (fr.hint == 1 && decide (fr.target < 48 * k.sails)) || (fr.hint == 2 && corePresent k fr.target)
  writesOf sink (if there then fr.hint else 0) fr.target loc (frameBytes fr)

/-- A WR frame. -/
def runWr (k : Keel) (f : Fab) (port : Nat) (fr : Frame) : Fab :=
  match admitFrame k f fr (·.w) 1 with
  | .error c => refuseFrame k f port fr 0x81 c
  | .ok (loc, _) =>
    let ws := frameWrites k (.glinen port fr) fr loc
    if ws.isEmpty then sendResponse k f (respFrame k 0x81 fr 0 0 [])
    else
      let f := modPort f port fun p => { p with inReq := p.inReq ++ [(fr, ws.length, 0)] }
      ws.foldl (fun f w => agentWrite k f w (portSail port)) f

/-- An RD frame. -/
def runRd (k : Keel) (f : Fab) (port : Nat) (fr : Frame) : Fab :=
  match admitFrame k f fr (·.r) 1 with
  | .error c => refuseFrame k f port fr 0x82 c
  | .ok (loc, _) => startRead k f (.glinen port fr) (partsOf loc fr.bytes) (portSail port)

/-- An ATOM frame. -/
def runAtom (k : Keel) (f : Fab) (port : Nat) (fr : Frame) : Fab :=
  let size := if fr.a64 then 8 else 4
  match admitFrame k f fr (fun o => o.r && o.w && o.a) size with
  | .error c => refuseFrame k f port fr 0x82 c
  | .ok (loc, o) =>
    if fr.off + size > o.len then refuseFrame k f port fr 0x82 0x0205
    else startAtomic k f (portSail port)
      { loc := loc, op := fr.aop, size := size, a := BitVec.ofNat 128 (numAt fr.data 0 8), b := BitVec.ofNat 128 (numAt fr.data 8 8),
        who := none, sink := .glinen port fr } false

/-- What SYNC_DBG_LAST records of a peer's signal: KIND 5, the port and the sender. -/
def peerLast (port : Nat) (fr : Frame) : LastOp := { noLast with kind := 5, unit := port, source := fr.src }

/-- A SIG frame: N is added as a release at system scope, and SIGACK follows once it is performed. -/
def runSig (k : Keel) (f : Fab) (port : Nat) (fr : Frame) : Fab :=
  match admitFrame k f fr (·.w) 1 with
  | .error c => refuseFrame k f port fr 0x84 c
  | .ok (_, o) => match frameCounter f fr o with
    | .error c => refuseFrame k f port fr 0x84 c
    | .ok p => sendCnt f p .add (frN fr) (peerLast port fr) (.glinen fr)

/-- An open transfer of a port. -/
def findXfer (f : Fab) (port src xfer : Nat) : Option RxXfer := (portOf f port).rx.find? fun r => r.src == src && r.xfer == xfer

/-- A write of an open transfer arrives. -/
def joinXfer (k : Keel) (f : Fab) (port : Nat) (fr : Frame) (r : RxXfer) : Fab :=
  match admitFrame k f fr (·.w) 1 with
  | .error c => noteRole (modXfer f port r.id fun r => { r with
      frames := r.frames + 1, refused := if r.refused = 0 then c else r.refused }) port fr c
  | .ok (loc, _) =>
    let ws := frameWrites k (.xfer port fr.src r.id) fr loc
    let f := modXfer f port r.id fun r => { r with frames := r.frames + 1, left := r.left + ws.length }
    ws.foldl (fun f w => agentWrite k f w (portSail port)) f

/-- An XWR frame (16 R456, R457): it opens its transfer or joins it, or is discarded where the port's table is full. -/
def runXwr (k : Keel) (f : Fab) (port : Nat) (fr : Frame) : Fab :=
  match findXfer f port fr.src fr.xfer with
  | some r => joinXfer k f port fr r
  | none =>
    if (portOf f port).rx.length ≥ 512 then discardFrame f port
    else
      let r : RxXfer := { id := f.nextId, src := fr.src, xfer := fr.xfer, frames := 0, left := 0, refused := 0, xend := none, sig := none }
      joinXfer k (modPort { f with nextId := f.nextId + 1 } port fun p => { p with rx := p.rx ++ [r] }) port fr r

def closeXfer (f : Fab) (port id : Nat) : Fab := modPort f port fun p => { p with rx := p.rx.filter fun r => r.id != id }

/-- The checks of an XEND (16 R455), made when it is delivered; check 4 asks nothing of it. Answers the counter of its signal. -/
def xendCheck (k : Keel) (f : Fab) (fr : Frame) : Except Nat (Option Nat) :=
  match admitFrame k f fr (fun _ => true) 1 with
  | .error c => .error c
  | .ok (_, o) => if frSigEn fr then (frameCounter f fr o).map some else .ok none

/-- An XEND frame: a transfer that lost frames is answered at once; any other waits for its writes. -/
def runXend (k : Keel) (f : Fab) (port : Nat) (fr : Frame) : Fab :=
  match findXfer f port fr.src fr.xfer with
  | none => sendResponse k f (respFrame k 0x86 fr 1 0x0508 [])
  | some r =>
    if r.frames < frXcount fr then sendResponse k (closeXfer f port r.id) (respFrame k 0x86 fr 1 0x0508 [])
    else match xendCheck k f fr with
      | .ok sig => modXfer f port r.id fun r => { r with xend := some fr, sig := sig }
      | .error c => noteRole (modXfer f port r.id fun r => { r with
          xend := some fr, refused := if r.refused = 0 then c else r.refused }) port fr c

/-- TRANSFER_COMPLETE: every write of the transfer is acknowledged; the signal is added and XACK follows. -/
def runXferDone (k : Keel) (f : Fab) (port src xfer : Nat) : Fab :=
  match findXfer f port src xfer with
  | none => f
  | some r => match r.xend with
    | none => f
    | some fr =>
      if r.left ≠ 0 then f
      else
        let f := closeXfer f port r.id
        if r.refused ≠ 0 then sendResponse k f (respFrame k 0x86 fr 1 r.refused [])
        else match r.sig with
          | none => sendResponse k f (respFrame k 0x86 fr 0 0 [])
          | some p => sendCnt f p .add (frN fr) (peerLast port fr) (.glinen fr)

/-! ### Responses (16 R458, R460, R463) -/

def isWriteOut : OutWhat → Bool
  | .write _ => true
  | _ => false

def isSignalOut : OutWhat → Bool
  | .signal _ => true
  | _ => false

def isDataOut : OutWhat → Bool
  | .piece .. | .job .. | .atomic _ => true
  | _ => false

def isXferOut : OutWhat → Bool
  | .xferCopy .. | .xferRoute .. => true
  | _ => false

/-- A response completes the entry that its TAG names on the route to its sender. One that comes after that route was declared down is counted
in LATE (16 R463); one that no request of the route awaits is discarded. -/
def runResponse (k : Keel) (f : Fab) (port : Nat) (fr : Frame) (mine : OutWhat → Bool) : Fab :=
  match routeOf k fr.src with
  | none => discardFrame f port
  | some (r, _) =>
    if (routeSt f r).down then modRoute f r fun s => { s with late := sat 65535 (s.late + 1) }
    else match (tfind (portOf f port).outst fr.tag).filter fun e => e.route == r && mine e.what with
      | none => discardFrame f port
      | some e =>
        let f := restartTimer k (modPort f port fun p => { p with outst := tdel p.outst fr.tag }) r
        let f := endOut k f e.what (fr.data.take fr.bytes) (if fr.status = 0 then 0 else fr.code)
        let f := pumpOut k port f
        match e.what with
        | .xferRoute c r => sendPackets k f c r
        | _ => f

/-! ### Routes (16 R461, R462) -/

/-- A route's timer has reached TIMEOUT, in units of 10 µs (16 R446, R461). -/
def timedOut (k : Keel) (f : Fab) (route : Nat) (e : Word64) : Bool :=
  decide ((routeSt f route).timer + fld e.toNat 42 14 * 10 * usec ≤ k.time)

/-- ROUTE_TIMEOUT: the route is declared down once its timer has run out; what is outstanding on it or waits for it fails with
"peer lost", and so do the fences whose peer it leads to (13 R391). -/
def runRouteTimeout (k : Keel) (f : Fab) (route : Nat) : Fab :=
  match (originOf k)[route]? with
  | none => f
  | some e =>
    let port := entryPort e
    let out := outstanding f port route
    if !e.getLsbD 63 || out.isEmpty || (routeSt f route).down || !timedOut k f route e then f
    else
      let waits := (portOf f port).waitq.filter fun w => w.1 == route
      let f := modRoute f route fun s => { s with
        down := true, downAt := k.time, failed := sat 65535 (s.failed + out.length + waits.length) }
      let f := modPort f port fun p => { p with
        outst := p.outst.filter (fun x => x.2.route != route), waitq := p.waitq.filter fun w => w.1 != route }
      let f := (out.map (·.2.what) ++ waits.map (·.2.2)).foldl (fun f w => endOut k f w [] 0x0501) f
      failFences k (pumpOut k port f) (fun x => x.watchEn && (routeOf k x.watch).any (·.1 == route)) 0x0501 0

/-- The selection of a port die, and whether its origin entry's PORT lies there. -/
def routeSel (f : Fab) (pdie : Nat) : Nat × Nat := if pdie = 0 then f.gln.selA else f.gln.selB

def routeHere (k : Keel) (f : Fab) (pdie : Nat) : Bool :=
  let s := routeSel f pdie
  s.1 == 6 && ((originOf k)[s.2]?).any fun e => e.getLsbD 63 && entryPort e / 3 == pdie

def setRouteErr (f : Fab) (pdie : Nat) (b : Bool) : Fab := onGln f fun g => if pdie = 0 then { g with errA := b } else { g with errB := b }

/-- A write of GLN_ROUTE_CTRL. -/
def writeRouteCtrl (k : Keel) (f : Fab) (m : Mark) (pdie v : Nat) : Fab :=
  if !systemMark m then f
  else
    let f := if bitAt v 31 then setRouteErr f pdie false else f
    let r := (routeSel f pdie).2
    let st := routeSt f r
    if !bitAt v 0 then f
    else if !routeHere k f pdie then setRouteErr f pdie true
    else if !st.down then f
    else if decide (st.downAt + 26 * msec ≤ k.time) && (portOf f (entryPort (((originOf k)[r]?).getD 0))).state == 2 then
      restartTimer k (modRoute f r fun s => { s with down := false }) r
    else setRouteErr f pdie true

/-- A write of GLN_ROUTE_SEL. -/
def writeRouteSel (f : Fab) (pdie v : Nat) : Fab :=
  let x := (fld v 8 3, fld v 0 6)
  onGln f fun g => if pdie = 0 then { g with selA := x } else { g with selB := x }

/-! ### The registers -/

/-- A register of a port, by its offset. -/
def portReg (f : Fab) (port off : Nat) : Option Nat :=
  let p := portOf f port
  if off = 0 then some (p.state * 2 ^ 30 + p.locked.toNat * 2 ^ 8)
  else if off = 8 then some (p.corrected * 2 ^ 32 + p.replayed * 2 ^ 16 + p.discarded * 2 ^ 8 + p.retrains)
  else if off = 0x10 then some 0
  else none

/-- A route register of a port die, by its offset. -/
def routeReg (k : Keel) (f : Fab) (pdie off : Nat) : Option Nat :=
  let rt := k.image.bind (·.routes)
  let s := routeSel f pdie
  let st := routeSt f s.2
  if off = 0 then some (selfOf k)
  else if off = 8 then some (s.1 * 2 ^ 8 + s.2)
  else if off = 0x10 then
    let t := if s.1 < 6 then ((rt.map (·.inputs)).getD [])[s.1]?.getD [] else if s.1 = 6 then originOf k else (rt.map (·.pairs)).getD []
    some ((t[s.2]?).getD 0).toNat
  else if off = 0x18 then
    if routeHere k f pdie then
      let port := entryPort (((originOf k)[s.2]?).getD 0)
      let n := (outstanding f port s.2).length
      some (2 ^ 63 + (if st.down then 2 ^ 62 else 0) + (if n < 4096 then n else (fresh f).toNat % 4096) * 2 ^ 32 +
        st.failed * 2 ^ 16 + st.late)
    else some 0
  else if off = 0x20 then some (if (if pdie = 0 then f.gln.errA else f.gln.errB) then 2 ^ 31 else 0)
  else none

/-! ### The rows -/

/-- A frame of one type arrives at a port. One of a type that the manual does not know, or of a broken form, is discarded and
counted; one for another address is forwarded. -/
def frameRow (s : State) (ty port : Nat) (fr : Frame) (run : Keel → Fab → Fab) : Out := onFab s fun k f =>
  if !portUp k f port then f
  else if fr.ty ≠ ty then (if knownFrame fr.ty then f else discardFrame (received k f port fr) port)
  else
    let f := received k f port fr
    if !frameOk fr then discardFrame f port
    else if ty = 0x00 ∨ ty = 0x07 then run k f
    else if fr.dst ≠ selfOf k then forwardFrame k f port fr
    else settle k (run k f)

/-- GLINEN_WR (16 R455). -/
def execGlinenWr (port : Nat) (fr : Frame) (s : State) : Out := frameRow s 0x01 port fr fun k f => runWr k f port fr
/-- GLINEN_RD (16 R455). -/
def execGlinenRd (port : Nat) (fr : Frame) (s : State) : Out := frameRow s 0x02 port fr fun k f => runRd k f port fr
/-- GLINEN_ATOM (16 R455). -/
def execGlinenAtom (port : Nat) (fr : Frame) (s : State) : Out := frameRow s 0x03 port fr fun k f => runAtom k f port fr
/-- GLINEN_SIG (16 R455). -/
def execGlinenSig (port : Nat) (fr : Frame) (s : State) : Out := frameRow s 0x04 port fr fun k f => runSig k f port fr
/-- XWR (16 R457). -/
def execXwr (port : Nat) (fr : Frame) (s : State) : Out := frameRow s 0x05 port fr fun k f => runXwr k f port fr
/-- XEND (16 R456). -/
def execXend (port : Nat) (fr : Frame) (s : State) : Out := frameRow s 0x06 port fr fun k f => runXend k f port fr
/-- TRANSFER_COMPLETE (16 R456). -/
def execTransferComplete (port src xfer : Nat) (s : State) : Out := onFab s fun k f => runXferDone k f port src xfer
/-- GLINEN_FRAME (16 R464): the message is on its way to the keel. -/
def execGlinenFrame (port : Nat) (fr : Frame) (s : State) : Out := frameRow s 0x07 port fr fun _ f => frameFrom f (.glinen port)
/-- LINKCTL (16 R444). -/
def execLinkctl (port : Nat) (fr : Frame) (s : State) : Out := frameRow s 0x00 port fr fun k f => runLinkctl k f port fr
/-- WACK (16 R453). -/
def execWack (port : Nat) (fr : Frame) (s : State) : Out := frameRow s 0x81 port fr fun k f => runResponse k f port fr isWriteOut
/-- RDATA (16 R453). -/
def execRdata (port : Nat) (fr : Frame) (s : State) : Out := frameRow s 0x82 port fr fun k f => runResponse k f port fr isDataOut
/-- SIGACK (16 R453). -/
def execSigack (port : Nat) (fr : Frame) (s : State) : Out := frameRow s 0x84 port fr fun k f => runResponse k f port fr isSignalOut
/-- XACK (16 R458). -/
def execXack (port : Nat) (fr : Frame) (s : State) : Out := frameRow s 0x86 port fr fun k f => runResponse k f port fr isXferOut
/-- CODEWORD_UNCORRECTABLE (16 R444). -/
def execCodewordUncorrectable (port : Nat) (s : State) : Out := onFab s fun k f => runUncorrectable k f port
/-- PORT_RETRAIN_TRIGGER (16 R445). -/
def execPortRetrainTrigger (port : Nat) (s : State) : Out := onFab s fun k f => runRetrainTrigger k f port
/-- LANE_LOCK_LOST (16 R445). -/
def execLaneLockLost (port lane : Nat) (s : State) : Out := onFab s fun k f => runLockLost k f port lane
/-- PORT_RETRAIN_COMPLETE (16 R445). -/
def execPortRetrainComplete (port : Nat) (ok : Bool) (s : State) : Out := onFab s fun k f => runPortRetrained k f port ok
/-- TRAIN (16 R445): a write of GLN_PORT_CTRL. -/
def execPortTrain (mark : Mark) (port : Nat) (v : Word32) (s : State) : Out := regRow s mark fun k f => writePortCtrl k f mark port v.toNat
/-- PORT_TRAINING_COMPLETE (16 R442). -/
def execPortTrainingComplete (port : Nat) (ok : Bool) (s : State) : Out :=
  onFab s fun k f => if portOn k port && (portOf f port).state == 1 then endTraining k f port ok else f
/-- ROUTE_TIMEOUT (16 R461). -/
def execRouteTimeout (route : Nat) (s : State) : Out := onFab s fun k f => settle k (runRouteTimeout k f route)
/-- FRAME_AGE_EXPIRY (16 R462). -/
def execFrameAgeExpiry (port m : Nat) (s : State) : Out := onFab s fun k f => runFrameAge k f port m
/-- ENABLE (16 R462): a write of GLN_ROUTE_CTRL with ENABLE 1. -/
def execRouteEnable (mark : Mark) (pdie : Nat) (v : Word32) (s : State) : Out :=
  regRow s mark fun k f => if v.getLsbD 0 && decide (pdie < 2) && k.fuse.variant.ports then writeRouteCtrl k f mark pdie v.toNat else f
/-- CREDIT_RETURN (16 R444). -/
def execCreditReturn (port vc units : Nat) (s : State) : Out := onFab s fun k f => runCredit k f port vc units

end Sys2Proof.Machine
end

