-- ==== Sys2Proof/Machine/Security.lean ====
section
/-!
DEFINITION. Security.lean: keys and measurements (19 R508 to R511), attestation banks (R513, R514), debug tokens and sessions
(R515 to R521), the quiescing of partitions (R522) and the registers of the keel that run them.
-/
namespace Sys2Proof.Machine

/-- One bit of a register set or cleared. -/
def bset {n : Nat} (w : BitVec n) (i : Nat) (b : Bool) : BitVec n :=
  if b then w ||| BitVec.ofNat n (2 ^ i) else w &&& ~~~(BitVec.ofNat n (2 ^ i))

def modSec (k : Keel) (g : Sec → Sec) : Keel := { k with sec := g k.sec }

/-! ### Keys and measurements -/

def ascii (s : String) : List Byte := s.toList.map fun c => BitVec.ofNat 8 c.toNat

/-- The active owner slot, in OWNED. -/
def ownerSlot (k : Keel) : Option OwnerSlot := if k.fuse.lifecycle = 2 then k.fuse.slots[k.fuse.activeSlot]? else none

/-- 19 R505: the key that images are checked with; none in BLANK and RETIRED. -/
def imageKey (k : Keel) : Option (List Byte) :=
  if k.fuse.lifecycle = 1 then some Config.provisioningImageKey else (ownerSlot k).map (·.imageKey)

/-- 19 R505: the debug-token key. -/
def debugKey (k : Keel) : Option (List Byte) :=
  if k.fuse.lifecycle = 1 then some Config.provisioningDebugKey else (ownerSlot k).map (·.debugKey)

/-- 19 R509. -/
def ownerDigest (k : Keel) : List Byte :=
  match ownerSlot k with
  | some o => Crypto.sha512 (o.imageKey ++ o.debugKey)
  | none => zeros 64

/-- Whether keys can be derived: in PROVISIONED and OWNED. -/
def keyed (k : Keel) : Bool := k.fuse.lifecycle == 1 || k.fuse.lifecycle == 2

/-- 19 R509: HMAC-SHA-512 keyed with the UDS. -/
def hmacUds (msg : List Byte) : List Byte := Crypto.hmac Config.uds msg

/-- The seed of the device identity key. -/
def identitySeed : List Byte := (hmacUds (ascii "XOTAR-ID")).take 32

/-- 19 R509: bytes 0 to 15 of the digest of the identity public key; zero in BLANK and RETIRED. -/
def deriveId (k : Keel) : List Byte := if keyed k then (Crypto.sha512 (Crypto.publicKey identitySeed)).take 16 else zeros 16

/-- The seed of a partition's attestation key. -/
def partSeed (k : Keel) (p : Nat) : List Byte :=
  (hmacUds (ascii "XOTAR-PA" ++ [BitVec.ofNat 8 p] ++ ownerDigest k ++ k.sec.mImage ++ k.sec.mPtab ++ k.sec.mTether)).take 32

/-! ### Attestation (19 R513, R514) -/

def AttBank.fresh : AttBank := { nonce := zeros 32, busy := false, done := false, err := false, result := 0, report := zeros 512 }
def attBank (k : Keel) (p : Nat) : AttBank := tgetD k.sec.att p AttBank.fresh
def modBank (k : Keel) (p : Nat) (g : AttBank → AttBank) : Keel := modSec k fun s => { s with att := tupd s.att p AttBank.fresh g }

/-- The bank that a request reaches: requests with ACT 1 or 2, and ACT 3 where it is honoured. -/
def bankOf (k : Keel) (m : Mark) : Option Nat :=
  if !m.i3c && (m.act == 1 || m.act == 2 || (m.act == 3 && k.sec.device)) then some m.part else none

def flagByte (k : Keel) (p : Nat) : Nat :=
  (if k.sec.pdebug.getLsbD p then 1 else 0) + (if k.sec.ddebug then 2 else 0) + (if k.sec.quiesced.getLsbD p then 4 else 0)

/-- Bytes 0 to 351 of a report, with given bytes 4, 6 and 32 to 63. -/
def reportHead (k : Keel) (p flags dbgMin : Nat) (nonce : List Byte) : List Byte :=
  bytesLE 2 1 ++ bytesLE 1 p ++ bytesLE 1 k.fuse.lifecycle ++ bytesLE 1 flags ++ bytesLE 1 k.boot.svn ++ bytesLE 1 dbgMin ++ [0] ++
  bytesLE 8 k.boot.seq ++ k.sec.deviceId ++ nonce ++ k.sec.mImage ++ k.sec.mTether ++ k.sec.mPtab ++ ownerDigest k ++
  Crypto.publicKey (partSeed k p)

/-- The report of a partition. -/
def buildReport (k : Keel) (p : Nat) : List Byte :=
  let endorse := Crypto.ed25519Sign identitySeed (reportHead k p 0 0 (zeros 32))
  let body := reportHead k p (flagByte k p) k.fuse.dbgMin (attBank k p).nonce ++ endorse ++ zeros 32
  body ++ Crypto.ed25519Sign (partSeed k p) body

/-- A write of KEEL_ATT_CTRL. -/
def writeAttCtrl (k : Keel) (m : Mark) (v : Nat) : Keel :=
  match bankOf k m with
  | none => k
  | some p =>
    let k := if bitAt v 29 then modBank k p fun b => { b with err := false } else k
    if !bitAt v 0 then k
    else if (attBank k p).busy then modBank k p fun b => { b with err := true }
    else if !k.boot.ready.getLsbD p || k.power.retention ≠ 0 then modBank k p fun b => { b with done := false, result := 2 }
    else modBank k p fun b => { b with busy := true, done := false, result := 0 }

/-- A write of KEEL_ATT_NONCE0 to 3. -/
def writeAttNonce (k : Keel) (m : Mark) (i v : Nat) : Keel :=
  match bankOf k m with
  | none => k
  | some p => modBank k p fun b => { b with nonce := splice b.nonce (8 * i) (bytesLE 8 v) }

/-- ATT_REPORT_DONE: the report is built; during R520 only once step 5 has ended (19 R525). -/
def runReportDone (k : Keel) (p : Nat) : Keel :=
  if (attBank k p).busy && k.sec.devStep == 0 then
    let r := buildReport k p
    modBank k p fun b => { b with busy := false, done := true, result := 1, report := r }
  else k

/-- KEEL_ATT_CTRL. -/
def attCtrl (k : Keel) (m : Mark) : Nat :=
  match bankOf k m with
  | none => 0
  | some p =>
    let b := attBank k p
    (if b.busy then 2 ^ 31 else 0) + (if b.done then 2 ^ 30 else 0) + (if b.err then 2 ^ 29 else 0) + b.result * 4

/-! ### The challenge nonce (19 R517) -/

/-- A fresh nonce from the random source replaces the one held; the staging buffer is cleared (19 R523). -/
def newNonce (k : Keel) (f : Fab) : Keel × Fab :=
  let n := (List.range 4).flatMap fun i => bytesLE 8 (Config.freeWord (f.free + i)).toNat
  (modSec k fun s => { s with nonce := some n, voided := s.voided ++ s.nonce.toList, staging := zeros 512 }, spend f 4)

/-! ### Sessions and holds -/

/-- Rings held for partitions that are no longer held are handled (15 R429). -/
def afterHold (old k : Keel) (f : Fab) : Fab := releaseHeld k f fun p => heldPart old p && !heldPart k p

/-- QUIESCED stands only while the partition is held. -/
def dropQuiesced (k : Keel) : Keel := modSec k fun s => { s with quiesced := s.quiesced &&& s.held }

/-- The partition-scoped session of a partition closes, and the quiesces that it made end (19 R521). -/
def closePart (k : Keel) (f : Fab) (p : Nat) : Keel × Fab :=
  let k' := dropQuiesced (modSec k fun s => { s with psess := bset s.psess p false, heldByPart := bset s.heldByPart p false })
  (k', afterHold k k' f)

/-- The device session closes. -/
def closeDev (k : Keel) (f : Fab) : Keel × Fab :=
  let k' := dropQuiesced (modSec k fun s => { s with device := false, heldByDev := 0 })
  (k', afterHold k k' f)

/-- Every session closes; an OPEN that runs ends with RESULT 11 (19 R521, R525). -/
def dropSessions (k : Keel) : Keel :=
  modSec k fun s => { s with
    psess := 0, device := false, heldByPart := 0, heldByDev := 0, quiesced := 0, devStep := 0, zeroWait := 0, openReq := none
    busy := false, result := if s.busy then 11 else s.result }

/-! ### OPEN (19 R516, R518 to R520) -/

/-- The response registers. -/
def response (k : Keel) : List Byte := (List.range 24).flatMap fun i => bytesLE 8 (tgetD k.sec.resp i 0).toNat

/-- The session signature of a response over a nonce. -/
def signedOver (r n : List Byte) : Bool := Crypto.ed25519Verify (slice r 24 32) (n ++ r.take 64) (slice r 128 64)

/-- Checks 1 to 5, with the nonce that was held: the RESULT of the first that fails, 0 where all pass. A session does not open in retention. An OPEN
made for a nonce that a second challenge voided ends with 4 (19 R525). DESIGN CHOICE (log 72): PART and TSVN are in no check of their own. -/
def openChecks (k : Keel) (nonce : Option (List Byte)) (r : List Byte) : Nat :=
  let level := numAt r 2 1
  let body := r.take 64
  let bind := slice r 8 16
  if !keyed k || !k.boot.imageOk then 3
  else if k.power.retention ≠ 0 then 11
  else match nonce with
    | none => 4
    | some n =>
      if !signedOver r n && k.sec.voided.any (signedOver r) then 4
      else if numAt r 0 2 ≠ 1 ∨ (level ≠ 1 ∧ level ≠ 2) ∨ slice r 5 3 ≠ zeros 3 ∨ slice r 56 8 ≠ zeros 8 ∨ (bind ≠ zeros 16 ∧ bind ≠ k.sec.deviceId) then 5
      else if !((debugKey k).any fun key => Crypto.ed25519Verify key body (slice r 64 64)) || !signedOver r n then 6
      else if numAt r 4 1 < k.fuse.dbgMin then 7
      else 0

/-- OPEN begins: the nonce is consumed. -/
def beginOpen (k : Keel) : Keel :=
  let r := response k
  let code := openChecks k k.sec.nonce r
  modSec k fun s => { s with
    nonce := none, voided := [], busy := true, openReq := some { level := numAt r 2 1, part := numAt r 3 1, tsvn := numAt r 4 1, result := code } }

def endOpen (k : Keel) (code : Nat) : Keel := modSec k fun s => { s with openReq := none, busy := false, result := code, devStep := 0, zeroWait := 0 }

/-- Checks 6 and 7. -/
def openLast (k : Keel) (r : OpenReq) : Nat :=
  if r.result ≠ 0 then r.result
  else if r.level = 1 ∧ ((partRec k r.part).isNone ∨ k.boot.ready.getLsbD r.part = false) then 8
  else if r.level = 1 then (if k.sec.psess.getLsbD r.part then 9 else 0)
  else if k.sec.device then 9 else 0

def configured (k : Keel) : List Nat := (List.range 16).filter fun p => (partRec k p).isSome

/-- OPEN_CHECKS_COMPLETE: a partition-scoped session opens; a device session begins step 1 of 19 R520. -/
def runOpenChecks (k : Keel) (f : Fab) : Keel × Fab :=
  match k.sec.openReq with
  | none => (k, f)
  | some r =>
    if k.sec.devStep ≠ 0 then (k, f)
    else
      let code := openLast k r
      if code ≠ 0 then (endOpen k code, f)
      else if r.level = 1 then
        let k := modSec k fun s => { s with psess := bset s.psess r.part true, pdebug := bset s.pdebug r.part true, pTsvn := tput s.pTsvn r.part r.tsvn }
        (endOpen k 1, f)
      else
        let f := (configured k).foldl (fun f p => startReset k f p 0x0506 0) f
        (modSec k fun s => { s with devStep := 1 }, f)

/-- Steps 2 and 3 of 19 R520: caches drop every line without write-back, and every reservation and all local memory is zero. -/
def zeroAll (f : Fab) : Fab :=
  onMem f fun m => { m with
    nm := [], lpd := [], loc := [], poison := [], badWords := [], softWords := [], l2 := [], evb := [], l1 := [], dir := [], streams := []
    failedLane := [], resv := [], holds := [] }

/-- Steps 5 and 6: user tables are not loaded, the holds end, and the session is open. -/
def finishDevice (k : Keel) (f : Fab) : Keel × Fab :=
  let tsvn := ((k.sec.openReq).map (·.tsvn)).getD 0
  let k' := endOpen (modSec k fun s => { s with device := true, ddebug := true, dTsvn := tsvn }) 1
  (k', afterHold k k' (onEng f fun e => { e with sft := e.sft.map fun x => (x.1, { x.2 with loaded := false }) }))

/-- A message of the keel leaves by the mailbox once the one before it is acknowledged (15 R434). -/
def mboxSend (k : Keel) (o : KeelOut) : Keel :=
  if k.mboxOut then { k with mboxWait := k.mboxWait ++ [o] } else { k with mboxOut := true, out := k.out ++ [o] }

/-- The mailbox message by which the keel asks the tether die to zero a carve-out (19 R520 step 4). -/
def zeroMsg (k : Keel) (p : Nat) : KeelOut := .mboxToTether (bytesLE 8 p ++ bytesLE 8 (((partRec k p).map (·.tetherBytes)).getD 0))

/-- DEVICE_SESSION_SCRUB_COMPLETE: every reset has ended and the scrub is done; the tether die is asked, or the session opens. -/
def runDeviceScrub (k : Keel) (f : Fab) : Keel × Fab :=
  if k.sec.devStep ≠ 1 || !f.tab.resets.isEmpty || !((configured k).all fun p => linesQuiet f p) then (k, f)
  else
    let f := zeroAll f
    let ask := (configured k).filter fun p => (partRec k p).any fun r => r.tetherBytes != 0
    if ask.isEmpty then finishDevice k f
    else
      let k := ask.foldl (fun k p => mboxSend k (zeroMsg k p)) k
      (modSec k fun s => { s with devStep := 4, zeroAt := k.time, zeroWait := ask.foldl (fun w p => bset w p true) 0 }, f)

/-- TETHER_ZERO_ACK. -/
def runZeroAck (k : Keel) (f : Fab) (p : Nat) : Keel × Fab :=
  if k.sec.devStep ≠ 4 || !k.sec.zeroWait.getLsbD p then (k, f)
  else
    let k := modSec k fun s => { s with zeroWait := bset s.zeroWait p false }
    if k.sec.zeroWait = 0 then finishDevice k f else (k, f)

/-- TETHER_ZERO_TIMEOUT, 1 s after the tether die was asked: the session does not open, and the holds end. -/
def runZeroTimeout (k : Keel) (f : Fab) : Keel × Fab :=
  if k.sec.devStep ≠ 4 ∨ k.time < k.sec.zeroAt + 1000 * msec then (k, f)
  else
    let k' := endOpen k 10
    (k', afterHold k k' f)

/-! ### QUIESCE and RESUME (19 R522) -/

def setResult (k : Keel) (code : Nat) : Keel := modSec k fun s => { s with result := code }

def quiescePart (k : Keel) (m : Mark) (p : Nat) : Keel :=
  if !debugsFor k m p then setResult k 2
  else if m.act = 2 then setResult (modSec k fun s => { s with heldByPart := bset s.heldByPart p true }) 1
  else setResult (modSec k fun s => { s with heldByDev := bset s.heldByDev p true }) 1

def resumePart (k : Keel) (f : Fab) (m : Mark) (p : Nat) : Keel × Fab :=
  if !debugsFor k m p then (setResult k 2, f)
  else
    let k' := dropQuiesced (modSec k fun s => { s with heldByPart := bset s.heldByPart p false, heldByDev := bset s.heldByDev p false })
    (setResult k' 1, afterHold k k' f)

/-- A message in flight that is an access of a partition or to its memory, or an operation on a counter of its own: adds from Glinen ports are not
awaited (19 R522). -/
def msgOf (f : Fab) (p : Nat) : Msg → Bool
  | .home l _ | .inval l _ | .invAck l _ _ | .fwd l _ _ | .fwdNotify l _ | .wb l _ _ _ | .evict l _ | .wbAck l _ _ | .fill l _ _ _ _ _ => l.part == p
  | .memRead loc _ _ => loc.part == p
  | .uncWrite w => w.loc.part == p
  | .farAt a | .farRead a _ => a.loc.part == p
  | .capture _ _ _ part _ _ _ => part == p
  | .cnt o => (tfind f.tab.ctrs o.phys).any fun c => c.owner == p && o.src.kind != 5
  | .waitReq phys _ _ | .pair phys _ _ => (tfind f.tab.ctrs phys).any (·.owner == p)
  | .release w _ => (findCtx f w.ctx).any (·.part == p)
  | .tailData q _ _ | .cmdData q _ _ _ => (findQueue f q).any (·.part == p)
  | .eventAck ctx _ _ _ => (findCtx f ctx).any (·.part == p)
  | .notifyAck fence _ _ => (tfind f.tab.fences fence).any (·.part == p)
  | .storeAck .. | .copyAck .. | .frame _ | .slotStart _ => false

/-- The acknowledgement of a write that the queue logic or the keel makes for a partition. -/
def sinkOf (f : Fab) (p : Nat) : AckSink → Bool
  | .event ctx _ _ => (findCtx f ctx).any (·.part == p)
  | .notify fence _ _ => (tfind f.tab.fences fence).any (·.part == p)
  | .cmd q _ => (findQueue f q).any (·.part == p)
  | .program part => part == p
  | _ => false

/-- A request to the tether die without an answer that is the partition's. -/
def upOf (f : Fab) (p : Nat) : UpWhat → Bool
  | .write sink | .merged sink => sinkOf f p sink
  | .merge _ w => w.loc.part == p
  | _ => false

/-- A request to a peer without an answer that is the partition's. -/
def outOf (f : Fab) (p : Nat) : OutWhat → Bool
  | .write sink | .signal sink => sinkOf f p sink
  | _ => false

/-- Every engine stands at a step boundary of the partition, and its outstanding accesses have ended. -/
def partAtRest (f : Fab) (p : Nat) : Bool :=
  (f.eng.cp.all fun e => e.2.descs.all fun d => d.part != p || (d.readsOut == 0 && d.writesOut == 0 && e.2.cur != some d.id)) &&
  (f.eng.rt.all fun e => e.2.runs.all fun r => r.part != p || (r.readsOut == 0 && r.writesOut == 0 && r.xfersOut == 0 && e.2.cur != some r.id)) &&
  (f.eng.mx.all fun e => e.2.queue.all fun x => x.part != p || e.2.cur != some x.id) &&
  !(f.cores.loads.any fun l => l.2.part == p && l.2.pieces.any fun x => x.data.isNone) &&
  !(f.cores.sb.any fun b => b.2.any fun e => e.issued && !e.done && (findGroup f e.gid).any (·.part == p)) &&
  !(f.tab.queues.any fun q => q.2.part == p && (q.2.reading || q.2.tailRead)) &&
  !(f.mem.dir.any fun e => e.line.part == p && e.txn.isSome) && !(f.net.any fun m => msgOf f p m.2) &&
  !(f.jobs.any fun j => j.2.parts.any fun x => x.loc.part == p) &&
  !(f.link.upReq.any fun u => upOf f p u.2.what) && !(f.link.upWait.any fun u => upOf f p u.2.2) &&
  !(f.gln.ports.any fun x => (x.2.outst.any fun o => outOf f p o.2.what) || x.2.waitq.any fun w => outOf f p w.2.2)

/-- PARTITION_QUIESCED. -/
def runQuiesced (k : Keel) (f : Fab) (p : Nat) : Keel :=
  if k.sec.held.getLsbD p && partAtRest f p then modSec k fun s => { s with quiesced := bset s.quiesced p true } else k

/-! ### KEEL_DBG_CTRL -/

/-- A write of KEEL_DBG_CTRL. -/
def writeDbgCtrl (k : Keel) (f : Fab) (m : Mark) (v : Nat) : Keel × Fab :=
  if k.sec.busy then (modSec k fun s => { s with err := true }, f)
  else
    let p := fld v 8 4
    let k := modSec k fun s => { s with part := p, err := s.err && !bitAt v 30 }
    match fld v 0 3 with
    | 1 => let r := newNonce k f; (setResult r.1 1, r.2)
    | 2 => (beginOpen k, f)
    | 3 => if k.sec.psess.getLsbD p then let r := closePart k f p; (setResult r.1 1, r.2) else (setResult k 2, f)
    | 4 => if k.sec.device then let r := closeDev k f; (setResult r.1 1, r.2) else (setResult k 2, f)
    | 5 => (quiescePart k m p, f)
    | 6 => resumePart k f m p
    | _ => (k, f)

/-! ### Registers that are read -/

def bit (b : Bool) (i : Nat) : Nat := if b then 2 ^ i else 0

/-- KEEL_LIFECYCLE. -/
def lifecycleReg (k : Keel) : Nat :=
  let pend := match k.sec.pend with
    | none => 0
    | some (.takeOwnership _) => 2
    | some .releaseOwnership => 1
    | some .retire => 3
  k.fuse.dbgMin * 2 ^ 18 + k.fuse.slots.length * 2 ^ 12 + (if k.fuse.lifecycle = 2 then k.fuse.activeSlot * 2 ^ 10 else 0) +
    bit k.sec.pend.isSome 9 + pend * 2 ^ 7 + k.fuse.lifecycle

/-- The value that KEEL_MEAS_SEL selects. -/
def measured (k : Keel) : List Byte :=
  match k.sec.measDigest with
  | 0 => k.sec.mImage | 1 => k.sec.mTether | 2 => k.sec.mPtab | _ => ownerDigest k

/-- The certificate chain, readable in PROVISIONED and OWNED. -/
def certBytes (k : Keel) : List Byte := if keyed k then Config.certChain.take 4096 else []

/-- The security registers from 0x3000 to 0x3FFF, by offset in the keel region: width in bytes and value. -/
def secReg (k : Keel) (m : Mark) (a : Nat) : Option (Nat × Nat) :=
  if a = 0x3000 then some (4, lifecycleReg k)
  else if a = 0x3008 ∨ a = 0x3010 then some (8, numAt k.sec.deviceId (a - 0x3008) 8)
  else if a = 0x3020 then some (4, k.sec.measDigest * 16 + k.sec.measWord)
  else if a = 0x3028 then some (8, numAt (measured k) (8 * k.sec.measWord) 8)
  else if a = 0x3030 then some (4, (certBytes k).length)
  else if 0x3100 ≤ a ∧ a < 0x3120 ∧ a % 8 = 0 then some (8, numAt (k.sec.nonce.getD (zeros 32)) (a - 0x3100) 8)
  else if 0x3200 ≤ a ∧ a < 0x32C0 ∧ a % 8 = 0 then some (8, 0)
  else if a = 0x3300 then some (4, bit k.sec.busy 31 + bit k.sec.err 30 + k.sec.result * 2 ^ 20 + k.sec.part * 2 ^ 8)
  else if a = 0x3308 then
    some (8, bit k.sec.device 48 + k.sec.quiesced.toNat * 2 ^ 32 + k.sec.held.toNat * 2 ^ 16 + k.sec.psess.toNat)
  else if 0x3400 ≤ a ∧ a < 0x3420 ∧ a % 8 = 0 then
    some (8, ((bankOf k m).map fun p => numAt (attBank k p).nonce (a - 0x3400) 8).getD 0)
  else if a = 0x3420 then some (4, attCtrl k m)
  else if 0x3500 ≤ a ∧ a < 0x3700 ∧ a % 8 = 0 then
    some (8, ((bankOf k m).map fun p => if (attBank k p).done then numAt (attBank k p).report (a - 0x3500) 8 else 0).getD 0)
  else none

/-! ### The rows -/

/-- A row that is a write of KEEL_DBG_CTRL with one OP. -/
def dbgRow (s : State) (m : Mark) (op : Nat) (v : Word32) : Out :=
  regBoth s m fun k f => if fld v.toNat 0 3 = op then writeDbgCtrl k f m v.toNat else (k, f)

/-- DBG_CHALLENGE (19 R517). -/
def execDbgChallenge (mark : Mark) (v : Word32) (s : State) : Out := dbgRow s mark 1 v
/-- OPEN (19 R518). -/
def execDbgOpen (mark : Mark) (v : Word32) (s : State) : Out := dbgRow s mark 2 v
/-- OPEN_CHECKS_COMPLETE (19 R518). -/
def execOpenChecksComplete (s : State) : Out := onBoth s fun k f => runOpenChecks k f
/-- DEVICE_SESSION_SCRUB_COMPLETE (19 R520). -/
def execDeviceSessionScrubComplete (s : State) : Out := onBoth s fun k f => runDeviceScrub k f
/-- TETHER_ZERO_ACK (19 R520). -/
def execTetherZeroAck (part : Nat) (s : State) : Out := onBoth s fun k f => runZeroAck k f part
/-- TETHER_ZERO_TIMEOUT (19 R520). -/
def execTetherZeroTimeout (s : State) : Out := onBoth s fun k f => runZeroTimeout k f
/-- CLOSE (19 R521). -/
def execDbgClose (mark : Mark) (v : Word32) (s : State) : Out := dbgRow s mark 3 v
/-- CLOSE_DEVICE (19 R521). -/
def execCloseDevice (mark : Mark) (v : Word32) (s : State) : Out := dbgRow s mark 4 v
/-- DBG_QUIESCE (19 R522). -/
def execDbgQuiesce (mark : Mark) (v : Word32) (s : State) : Out := dbgRow s mark 5 v
/-- PARTITION_QUIESCED (19 R522). -/
def execPartitionQuiesced (part : Nat) (s : State) : Out := onKeel s fun k f => runQuiesced k f part
/-- DBG_RESUME (19 R522). -/
def execDbgResume (mark : Mark) (v : Word32) (s : State) : Out := dbgRow s mark 6 v
/-- ATT_GO (19 R513): a write of KEEL_ATT_CTRL with GO 1. -/
def execAttGo (mark : Mark) (v : Word32) (s : State) : Out :=
  regBoth s mark fun k f => (if v.getLsbD 0 then writeAttCtrl k mark v.toNat else k, f)
/-- ATT_REPORT_DONE (19 R514). -/
def execAttReportDone (part : Nat) (s : State) : Out := onKeel s fun k _ => runReportDone k part

end Sys2Proof.Machine
end

