-- ==== Sys2Proof/Machine/Start.lean ====
section
/-!
DEFINITION. Start.lean: what the ends of starts and the stops share: what is lost with the domains (17 R485), rails and domains
turned off, moored mode, the end of a start (18 R498, R502) and a stop (17 R484 to R488).
-/
namespace Sys2Proof.Machine

/-- The failures of autonomous programs stay recorded until the next start (18 R499); no program goes on. -/
def programFailures (f : Fab) : Table ProgState :=
  (f.tab.progs.filter (·.2.failed.isSome)).map fun e => (e.1, ProgState.start0 16 e.2.failed)

/-- Nothing outside the keel goes on: groups, engines, tables, caches and memories are gone; the tether link stays as it is. -/
def haltFab (f : Fab) : Fab :=
  let l := f.link
  { Fab.reset with
    free := f.free, nextId := f.nextId, sent := f.sent, tab := { Tables.reset with progs := programFailures f }
    link := { Link.reset with
      state := l.state, lossCause := l.lossCause, modUp := l.modUp, modRepaired := l.modRepaired, retrains := l.retrains
      downgrades := l.downgrades, protoErr := l.protoErr, timeouts := l.timeouts, att := l.att } }

/-- The tether boundary has turned off: a link that had trained is lost (15 R439). -/
def darkLink (l : Link) : Link := if l.state = 0 then l else { l with state := 3, lossCause := 1, modUp := 0, quiescing := false, quiesced := false }

/-- Every domain but the keel is off. -/
def darkFab (f : Fab) : Fab := onLink (haltFab f) darkLink

def sendOut (k : Keel) (os : List KeelOut) : Keel := { k with out := k.out ++ os }

/-- An in-band interrupt, while they are enabled and the target has its dynamic address (18 R503, 20 R537). -/
def ibi (k : Keel) (b : Byte) : Keel := if k.i3c.ibi && k.i3c.dyn.isSome then sendOut k [.ibi b] else k

def modPower (k : Keel) (g : Power → Power) : Keel := { k with power := g k.power }
def modBoot (k : Keel) (g : Boot → Boot) : Keel := { k with boot := g k.boot }
def modStart (k : Keel) (g : Start → Start) : Keel := { k with start := g k.start }

/-- What KEEL_READY and KEEL_READY_PART report, as a list (18 R503). -/
def readiness (k : Keel) (f : Fab) : List Nat :=
  let b := k.boot
  [if b.device then 1 else 0, if b.imageOk then 1 else 0, if f.link.state = 1 then 1 else 0, b.portDie.toNat, b.mem.toNat, b.compute.toNat,
   b.ready.toNat, b.failed.toNat]

/-- A change of readiness is told by an interrupt (18 R503). -/
def tellReady (k : Keel) (f : Fab) (r : Keel × Fab) : Keel × Fab := if readiness k f = readiness r.1 r.2 then r else (ibi r.1 0x01, r.2)

/-- Readiness ends; the records of failed partitions stay. -/
def unready (k : Keel) : Keel :=
  modBoot k fun b => { b with device := false, imageOk := false, portDie := 0, mem := 0, compute := 0, ready := 0 }

/-- Every domain but the keel is off. -/
def domainsOff (k : Keel) : Keel := unready (modPower k fun p => { p with on := 1, levels := [] })

/-- The rails requested on are requested off, in the order of 17 R485 step 4. -/
def railsOff (k : Keel) : Keel :=
  let on := (List.range 8).filter fun r => k.railReq.getLsbD r
  modPower { sendOut k (on.map .railOff) with railReq := 0 } fun p => { p with rails := [], vMinSince := none }

/-- Moored mode (18 R504). -/
def moor (k : Keel) : Keel := ibi (modPower (modBoot k fun b => { b with moored := true }) fun p => { p with state := 0 }) 0x02

/-- A start ends with a code: KEEL_BOOT_CAUSE is written, FAILS advances unless the code is 0x04 or 0x24 (18 R502), and every
measurement is zero (19 R511). No session stays open (19 R524). A new start is armed, or FAILS has reached 3. -/
def closeStart (k : Keel) (code sectionIx detail : Nat) : Keel :=
  let fails := if code = 0x04 ∨ code = 0x24 then k.boot.fails else min 3 (k.boot.fails + 1)
  let k := modBoot (dropSessions k) fun b => { b with fails := fails, code := code, sectionIx := sectionIx, detail := detail }
  let k := modSec k fun s => { s with mImage := zeros 64, mPtab := zeros 64, mTether := zeros 64, att := [] }
  let again := code != 0x04 && code != 0x24 && decide (fails < 3) && k.resetN
  { k with start := { Start.none with retryAt := if again then some k.time else none } }

/-- A start fails: every domain but the keel turns off, and the keel retries or moors (18 R502). -/
def failStart (k : Keel) (f : Fab) (code sectionIx detail : Nat) : Keel × Fab :=
  let k' := railsOff (domainsOff (closeStart k code sectionIx detail))
  tellReady k f (if code = 0x04 ∨ k'.boot.fails ≥ 3 then moor k' else k', darkFab f)

/-! ### Stops -/

def causeBits (cs : List Nat) : BitVec 6 := cs.foldl (fun w c => bset w (c - 1) true) 0

/-- The causes are latched: the lowest in CAUSE and every other in OTHERS; a further cause of a stop already latched goes to
OTHERS (17 R488). -/
def latchStop (k : Keel) (cs : List Nat) : Keel :=
  let low := cs.foldl min 255
  modPower k fun p =>
    if p.stopValid ∧ p.state = 3 then { p with stopOthers := p.stopOthers ||| causeBits (cs.filter (· != p.stopCause)) }
    else { p with stopValid := true, stopCause := low, stopOthers := causeBits (cs.filter (· != low)) }

/-- Steps 1 and 2 of 17 R485: issue halts at once, the cause is latched, and sessions close. A running start ends with 0x24. -/
def beginStop (k : Keel) (f : Fab) (cs : List Nat) : Keel × Fab :=
  let k' := ibi (latchStop k cs) 0x03
  let k' := if k.start.running then closeStart k' 0x24 0xFF k'.power.stopCause else modStart k' fun s => { s with retryAt := none }
  let k' := unready (dropSessions k')
  let k' := modPower k' fun p => { p with
    state := 3, stopping := true, retention := 0, levels := p.levels.map fun l => (l.1, { l.2 with level := 0, cut := false }) }
  tellReady k f (k', haltFab f)

/-- Steps 3 and 4: domains are off and rails are requested off. -/
def finishStop (k : Keel) (f : Fab) : Keel × Fab :=
  tellReady k f (railsOff (domainsOff (modPower k fun p => { p with stopping := false })), darkFab f)

end Sys2Proof.Machine
end

