-- ==== Sys2Proof/Machine/Power.lean ====
section
/-!
DEFINITION. Power.lean: the power manager: rails and samples (17 R468 to R472, R479, R480), targets, levels and droop cuts (R473 to
R478), temperature (R481, R482), stops (R484 to R486), retention (R487) and its registers.
-/
namespace Sys2Proof.Machine

/-! ### The parts of the power manager -/

/-- The power-limits section in force; the defaults of 18 R495 while no image is bound. -/
def powerCfg (k : Keel) : PowerCfg := (k.image.map (·.power)).getD (PowerCfg.default k.fuse.variant)
def railCfg (k : Keel) (s : Nat) : RailCfg := ((powerCfg k).rails[s]?).getD RailCfg.default
def railOf (k : Keel) (s : Nat) : Rail := tgetD k.power.rails s Rail.reset
def modRail (k : Keel) (s : Nat) (g : Rail → Rail) : Keel := modPower k fun p => { p with rails := tupd p.rails s Rail.reset g }
def modLevel (k : Keel) (d : Nat) (g : Level → Level) : Keel := modPower k fun p => { p with levels := tupd p.levels d Level.reset g }
def raiseEvent (k : Keel) (i : Nat) : Keel := modPower k fun p => { p with event := bset p.event i true }

/-- The core rails that are requested on. -/
def liveRails (k : Keel) : List Nat := (List.range k.sails).filter fun s => k.railReq.getLsbD s

/-- The target in force: the lowest that a rule has set (17 R488). -/
def Level.target (l : Level) : Nat := min l.tPower (min l.tSail l.tDram)

/-- The power domain of a compute domain numbered 3 × die + field. -/
def levelDom (d : Nat) : Nat := computeDom (d / 3) (d % 3)
def levelsOn (k : Keel) : List Nat := (List.range (3 * k.sails)).filter fun d => domainOn k (levelDom d)

/-- A domain with a matrix step ready or running (17 R473). -/
def domActive (k : Keel) (f : Fab) (d : Nat) : Bool :=
  domainOn k (levelDom d) && f.eng.mx.any fun a => decide (a.1 / 64 = d) && (a.2.cur.isSome || a.2.queue.any fun x => mxReady k f a.2.queue x)

def activeDoms (k : Keel) (f : Fab) : List Nat := (levelsOn k).filter (domActive k f)

/-- Every core rail has reached V_MIN: since when (17 R473). -/
def noteVMin (k : Keel) : Keel :=
  let rails := liveRails k
  let low := !rails.isEmpty && rails.all fun s => decide ((railOf k s).reqMv ≤ (railCfg k s).vMin)
  modPower k fun p => { p with vMinSince := if low then (match p.vMinSince with | some t => some t | none => some k.time) else none }

/-! ### Measured and tracked power -/

/-- A core rail's measured power, or its estimate × 1.2 (17 R480). -/
def railW (r : Rail) (est : Nat) : Nat := if r.est then est * 12 / 10 else r.voutMv * r.ioutA / 1000

def estOf (es : List Nat) (s : Nat) : Nat := (es[s]?).getD 0

/-- The value that 17 R480 takes for a fixed rail (20 R529): VDD_HBD, VDD_LPIO, VDD_PORT, VDD_TETH, VDD_KEEL, VDDIO_KEEL. -/
def fixedMax : List Nat := [165, 40, 100, 80, 8, 1]

/-- One AVSBus read of a rail. -/
def readRail (r : Rail) (v : Option (Nat × Nat)) : Rail :=
  match v with
  | some (mv, a) =>
    let good := r.goodReads + 1
    { r with
      voutMv := mv, ioutA := a, badReads := 0, goodReads := good, est := r.est && decide (good < 10)
      outOfRange := if mv < 580 ∨ mv > 870 then r.outOfRange + 1 else 0 }
  | none => { r with badReads := r.badReads + 1, goodReads := 0, outOfRange := 0, est := r.est || decide (r.badReads + 1 ≥ 3) }

/-- The sample's readings are taken; TELEM_LOST is set where a rail's reads have failed three times. -/
def readRails (k : Keel) (r : RailSample) : Keel :=
  (liveRails k).foldl (fun k s =>
    let k' := modRail k s fun x => readRail x (((r.rails)[s]?).getD none)
    if (railOf k' s).est && !(railOf k s).est then raiseEvent k' 1 else k') k

/-- Measured package power and what is kept of it: the time above PCAP_SUST in the last 10 ms, the mean over the last 100 ms. -/
def measure (k : Keel) : Keel :=
  let w := ((liveRails k).map fun s => railW (railOf k s) (estOf k.power.estNow s)).sum + k.power.fixedW.sum
  let h := (w :: k.power.history).take 5000
  modPower k fun p => { p with
    measW := w, trackW := w, history := h, meanW := h.sum / h.length, raised := false, estAtSample := p.estNow
    aboveUs := 20 * ((h.take 500).filter fun x => decide (x > (powerCfg k).pcapSust)).length }

/-- 17 R479 over the rails whose power is measured. -/
def diverge (k : Keel) : Keel :=
  let rails := (liveRails k).filter fun s => !(railOf k s).est
  let meas := (rails.map fun s => railW (railOf k s) 0).sum
  let est := (rails.map fun s => estOf k.power.estNow s).sum
  let gap := max meas est - min meas est
  if rails.isEmpty then k
  else
    let n := if gap * 4 > meas then k.power.diverge + 1 else 0
    let k := modPower k fun p => { p with diverge := n }
    let k := if n = 4 then raiseEvent (modPower k fun p => { p with doubled := true, agree := 0 }) 0 else k
    if !k.power.doubled then k
    else
      let a := if gap * 100 ≤ 15 * meas then k.power.agree + 1 else 0
      modPower k fun p => { p with agree := a, doubled := decide (a < 5000) }

/-- The excess of tracked power over the limit in force (17 R473): over PCAP_TRANS, or over PCAP_SUST once its time or its mean is
used up. -/
def excess (k : Keel) : Nat :=
  let c := powerCfg k
  let p := k.power
  if p.trackW > c.pcapTrans then p.trackW - c.pcapTrans
  else if p.aboveUs ≥ c.transTime ∨ p.meanW ≥ c.pcapSust then p.trackW - c.pcapSust
  else 0

/-- Every target with work is at 4. -/
def floored (k : Keel) (ds : List Nat) : Bool := ds.all fun d => (levelOf k d).target == 4

/-- A die's rail is held down by its temperatures: an active domain that they throttle stands at 4 (17 R482). -/
def heatHolds (k : Keel) (f : Fab) (s : Nat) : Bool :=
  let ds := (activeDoms k f).filter fun d => d / 3 == s
  let sail := k.power.sailHot.getLsbD s && !ds.isEmpty && floored k ds
  let dram := ds.any fun d => (k.power.dramHot.getLsbD (6 * s + 2 * (d % 3)) || k.power.dramHot.getLsbD (6 * s + 2 * (d % 3) + 1)) && floored k [d]
  sail || dram

/-- A voltage step becomes due. -/
def dueStep (k : Keel) (s : Nat) (up : Bool) : Keel := modRail k s fun r => { r with due := some up }

/-- The voltage decisions of a 20 µs sample (17 R470, R473). -/
def decideRails (k : Keel) (f : Fab) : Keel :=
  if k.power.retention ≠ 0 then k
  else (liveRails k).foldl (fun k s =>
    let r := railOf k s
    let c := railCfg k s
    if excess k > 0 && floored k (activeDoms k f) then (if r.reqMv > c.vMin then dueStep k s false else k)
    else if heatHolds k f s then k
    else if r.reqMv < c.vTarget then dueStep k s true
    else k) k

/-- AVSBUS_SAMPLE (17 R469): every rail is read, power is measured, and what follows from it is decided; a rail out of range on two
samples stops the device with cause 4. -/
def runAvsbus (k : Keel) (f : Fab) (r : RailSample) : Keel × Fab :=
  if (liveRails k).isEmpty || k.power.stopping then (k, f)
  else
    let k := decideRails (diverge (measure (readRails k r))) f
    if (liveRails k).any fun s => decide ((railOf k s).outOfRange ≥ 2) then beginStop k f [4] else (k, f)

/-- A core rail's reading beyond the absolute maximum of 20 R540. -/
def railBeyond (k : Keel) (r : RailSample) : Bool :=
  (liveRails k).any fun s => (((r.rails)[s]?).getD none).any fun v => decide (v.1 > 950)

/-- Whether a rail of the PMBus sample is on: the keel's own always. -/
def pmbusLive (k : Keel) (i : Nat) : Bool := decide (i ≥ 8) || k.railReq.getLsbD i

def pmbusAt (rs : List (Option PmbusRead)) (i : Nat) : Option PmbusRead := (rs[i]?).getD none

/-- PMBUS_SAMPLE (17 R469, R472, R480): every rail that is on is read; the power of the six fixed rails is that of their reading. -/
def runPmbus (k : Keel) (r : PmbusSample) : Keel :=
  let read := fun i => if pmbusLive k i then pmbusAt r.rails i else none
  let bad := (List.range 6).map fun i => if pmbusLive k (i + 4) && (read (i + 4)).isNone then estOf k.power.fixedBad i + 1 else 0
  let w := (List.range 6).map fun i =>
    if !pmbusLive k (i + 4) then 0
    else match read (i + 4) with
      | some x => x.mv * x.ma / 1000000
      | none => if estOf bad i ≥ 10 then estOf fixedMax i else estOf k.power.fixedW i
  modPower k fun p => { p with
    fixedW := w, fixedBad := bad, pmbus := (List.range 10).map fun i => (read i).orElse fun _ => pmbusAt p.pmbus i }

/-! ### Voltage steps -/

def dieCut (k : Keel) (s : Nat) : Bool := (List.range 3).any fun x => (levelOf k (3 * s + x)).cut

/-- The voltage towards which retention moves a rail (17 R487): V_MIN in it, V_TARGET on the way out. -/
def railGoal (k : Keel) (s : Nat) : Option Nat :=
  if k.power.retention = 2 then some (railCfg k s).vMin else if k.power.retention = 3 then some (railCfg k s).vTarget else none

/-- The step that a rail still has to take towards a voltage. -/
def stepTo (mv : Nat) (goal : Option Nat) : Option Bool :=
  goal.bind fun g => if mv < g then some true else if g < mv then some false else none

/-- Every live rail begins to move towards where retention wants it. -/
def moveRails (k : Keel) : Keel := (liveRails k).foldl (fun k s => modRail k s fun r => { r with due := stepTo r.reqMv (railGoal k s) }) k

/-- VOLTAGE_STEP (17 R470, R478): one step of 5 mV within V_MIN to V_MAX, 2 µs and more after the previous one, once no droop cut on the die is in
force. -/
def runVoltage (k : Keel) (s : Nat) (up : Bool) : Keel :=
  let r := railOf k s
  let c := railCfg k s
  if r.due ≠ some up || (r.stepAt.any fun t => decide (k.time < t + 2 * usec)) || dieCut k s || k.power.stopping then k
  else
    let mv := if up then min c.vTarget (r.reqMv + 5) else max c.vMin (r.reqMv - 5)
    let k := modRail (sendOut k [.setVoltage s mv]) s fun r => { r with
      reqMv := mv, due := stepTo mv (railGoal k s), stepAt := some k.time }
    noteVMin (if up || k.power.retention != 0 then k else raiseEvent k 7)

/-! ### Targets -/

/-- Active targets fall for power by a number of 64ths, never below 4. -/
def lowerPower (k : Keel) (ds : List Nat) (n : Nat) : Keel :=
  ds.foldl (fun k d =>
    let t := (levelOf k d).target
    if t ≤ 4 ∨ n = 0 then k else raiseEvent (modLevel k d fun l => { l with tPower := max 4 (t - n) }) 2) k

/-- Each target that power lowered rises by 1. -/
def raisePower (k : Keel) : Keel :=
  (levelsOn k).foldl (fun k d => modLevel k d fun l => { l with tPower := min 64 (l.tPower + 1) }) k

/-! ### The activity estimator (17 R472; log 20) -/

/-- What a table of counters, keyed by unit, holds for the units of a class from `first` on. -/
def workOf (f : Fab) (cls first count : Nat) : Nat :=
  ((f.work.filter fun e => decide (unitKey cls first ≤ e.1) && decide (e.1 < unitKey cls (first + count))).map (·.2)).sum

/-- The activity of compute domain `d`: array beats of each class and of ballast, vector issue, and traffic of its local memories. -/
def computeActivity (f : Fab) (d : Nat) : List Nat :=
  ((List.range 5).map fun c => ((f.classWork.filter fun e => decide (e.1 / 512 = d) && decide (e.1 % 8 = c)).map (·.2)).sum) ++
  [workOf f 0 (256 * d) 256, workOf f 2 (64 * d) 64]

/-- The activity of every domain: the compute domains of the sail dies, then their memory domains, whose traffic is that of the L2 slices. -/
def activity (k : Keel) (f : Fab) : List (List Nat) :=
  ((List.range (3 * k.sails)).map (computeActivity f)) ++ (List.range k.sails).map fun s => [0, 0, 0, 0, 0, 0, workOf f 4 (48 * s) 48]

def activityAt (as : List (List Nat)) (d i : Nat) : Nat := estOf ((as[d]?).getD []) i
def energyOf (k : Keel) (s i : Nat) : Nat := estOf ((k.fuse.energy[s]?).getD []) i

/-- Energy in pJ that a domain has spent since the last update, over some kinds of activity: at 1 µs an update, 1,000,000 pJ are 1 W. -/
def spentPj (k : Keel) (now : List (List Nat)) (d : Nat) (kinds : List Nat) : Nat :=
  let s := if d < 3 * k.sails then d / 3 else d - 3 * k.sails
  (kinds.map fun i => (activityAt now d i - activityAt k.power.seen d i) * energyOf k s i).sum

/-- The estimate of each core rail in W. -/
def railEstimates (k : Keel) (now : List (List Nat)) : List Nat :=
  (List.range k.sails).map fun s =>
    ([3 * s, 3 * s + 1, 3 * s + 2, 3 * k.sails + s].map fun d => spentPj k now d (List.range 7)).sum / 1000000

/-- The estimated power of one 64th over domains: what their arrays spend at their levels, a level at a time. -/
def stepWorth (k : Keel) (now : List (List Nat)) (ds : List Nat) : Nat :=
  (ds.map fun d => spentPj k now d (List.range 4) / max 1 (levelOf k d).level).sum / 1000000

/-- ESTIMATOR_UPDATE (17 R472, R473). A step worth of zero lowers to the floor. -/
def runEstimator (k : Keel) (f : Fab) : Keel :=
  if (liveRails k).isEmpty || k.power.stopping then k
  else
    let now := activity k f
    let est := railEstimates k now
    let worth := stepWorth k now (activeDoms k f)
    let k := modPower k fun p => { p with
      estNow := est, worth := worth, seen := now, trackW := p.measW + est.sum - p.estAtSample.sum }
    let c := powerCfg k
    if excess k > 0 then lowerPower k (activeDoms k f) (if worth = 0 then 64 else ceilDiv (excess k) worth)
    else if k.power.trackW * 100 ≤ 98 * c.pcapSust && !k.power.raised then raisePower (modPower k fun p => { p with raised := true })
    else k

/-- POWER_LIMIT_TIMEOUT (17 R473): 1 ms after every rail reached V_MIN, measured power still exceeds PCAP_TRANS. -/
def runLimitTimeout (k : Keel) (f : Fab) : Keel × Fab :=
  match k.power.vMinSince with
  | some t => if t + msec ≤ k.time ∧ k.power.measW > (powerCfg k).pcapTrans ∧ !k.power.stopping then beginStop k f [6] else (k, f)
  | none => (k, f)

/-- LEVEL_SLOPE_STEP (17 R475). -/
def runSlope (k : Keel) (d : Nat) : Keel :=
  let l := levelOf k d
  if !domainOn k (levelDom d) || l.cut || k.power.stopping then k
  else if l.level < l.target then modLevel k d fun l => { l with level := l.level + 1 }
  else if l.level > l.target then modLevel k d fun l => { l with level := l.level - 1 }
  else k

/-! ### Droop (17 R476, R477) -/

/-- The arrays of a compute domain. -/
def modDomArrays (f : Fab) (d : Nat) (g : MxArray → MxArray) : Fab :=
  onEng f fun e => { e with mx := e.mx.map fun a => if a.1 / 64 = d then (a.1, g a.2) else a }

/-- DROOP_TRIP. DESIGN CHOICE (log 66): ballast that a droop response stops (06 R188) does not go on in the same gap. -/
def runDroop (k : Keel) (f : Fab) (d : Nat) : Keel × Fab :=
  let l := levelOf k d
  if !domainOn k (levelDom d) || k.power.stopping then (k, f)
  else
    let k := raiseEvent (modLevel k d fun l => { l with droops := sat 255 (l.droops + 1) }) 6
    if l.cut then (k, f)
    else if l.lastCut.any fun t => decide (k.time < t + 8 * usec) then
      let v := max 4 (l.level / 2)
      (modLevel k d fun l => { l with level := v, tPower := v }, f)
    else
      (modLevel k d fun l => { l with level := 0, cut := true, lastCut := some k.time },
       modDomArrays f d fun a => { a with ballast := false, ramp := none })

/-- DROOP_CUT_END: the level restarts at 4. -/
def runCutEnd (k : Keel) (d : Nat) : Keel :=
  if (levelOf k d).cut then modLevel k d fun l => { l with cut := false, level := 4 } else k

/-! ### Temperature (17 R481, R482) -/

def sailsOn (k : Keel) : List Nat := (List.range k.sails).filter fun s => domainOn k (memDom s)
/-- The hottest of the sensors of a field or a DRAM die. -/
def hottest (ts : List Nat) : Nat := ts.foldl max 0
def fieldT (t : TempSample) (s i : Nat) : Nat := hottest ((((t.sail)[s]?.getD [])[i]?).getD [])
def hotT (t : TempSample) (s : Nat) : Nat := max (fieldT t s 0) (max (fieldT t s 1) (fieldT t s 2))
def dramT (t : TempSample) (j : Nat) : Nat := hottest ((((t.dram)[j / 6]?.getD [])[j % 6]?).getD [])
def dramsOn (k : Keel) : List Nat := (sailsOn k).flatMap fun s => (List.range 6).map (6 * s + ·)

/-- A latch with hysteresis: set at or above a limit, cleared 2 °C or more below it. -/
def latched (old : Bool) (t limit : Nat) : Bool := if t ≥ limit then true else if t + 2 ≤ limit then false else old

/-- One DRAM die's doubled refresh, throttle latch and over-temperature (10 R287). -/
def heatDram (t : TempSample) (k : Keel) (j : Nat) : Keel :=
  let x := dramT t j
  let p := k.power
  let double := if x > 85 then true else if x ≤ 83 then false else p.dramDouble.getLsbD j
  let hot := latched (p.dramHot.getLsbD j) x (powerCfg k).dramHot
  let k' := modPower k fun p => { p with
    dramT := tput p.dramT j x, dramDouble := bset p.dramDouble j double, dramHot := bset p.dramHot j hot
    dramOver := if x > 95 then tput p.dramOver j (tgetD p.dramOver j k.time) else p.dramOver.filter (·.1 != j) }
  let k' := if double && !p.dramDouble.getLsbD j then raiseEvent k' 5 else k'
  if hot then raiseEvent k' 4 else k'

/-- One sail die's readings and its throttle latch. -/
def heatSail (t : TempSample) (k : Keel) (s : Nat) : Keel :=
  let hot := latched (k.power.sailHot.getLsbD s) (hotT t s) (powerCfg k).tHot
  let k := modPower k fun p => { p with
    sailT := tput p.sailT s (fieldT t s 0, fieldT t s 1, fieldT t s 2), sailHot := bset p.sailHot s hot }
  if hot then raiseEvent k 3 else k

/-- A target lowered or raised by 1 for heat. -/
def heatTarget (hot active : Bool) (target own : Nat) : Nat :=
  if !hot then min 64 (own + 1) else if active then max 4 (target - 1) else own

/-- The targets of one compute domain move by one for the sample. -/
def heatDomain (f : Fab) (k : Keel) (d : Nat) : Keel :=
  let s := d / 3
  let j := 6 * s + 2 * (d % 3)
  let l := levelOf k d
  let act := domActive k f d
  let sail := heatTarget (k.power.sailHot.getLsbD s) act l.target l.tSail
  let dram := heatTarget (k.power.dramHot.getLsbD j || k.power.dramHot.getLsbD (j + 1)) act l.target l.tDram
  modLevel k d fun l => { l with tSail := sail, tDram := dram }

/-- TEMPERATURE_SAMPLE. -/
def runTemperature (k : Keel) (f : Fab) (t : TempSample) : Keel × Fab :=
  if (sailsOn k).isEmpty || k.power.stopping then (k, f)
  else
    let k := (dramsOn k).foldl (heatDram t) ((sailsOn k).foldl (heatSail t) k)
    let down := (liveRails k).filter fun s => heatHolds k f s && decide ((railOf k s).reqMv > (railCfg k s).vMin)
    let k := (levelsOn k).foldl (heatDomain f) k
    let k := down.foldl (fun k s => dueStep k s false) k
    let causes := (if (sailsOn k).any fun s => decide (hotT t s ≥ 105) then [2] else []) ++
      (if (dramsOn k).any fun j => decide (dramT t j ≥ 100) then [3] else [])
    if causes.isEmpty then (k, f) else beginStop k f causes

/-- A temperature beyond the absolute maximum of 20 R540. -/
def tempBeyond (k : Keel) (t : TempSample) : Bool :=
  (sailsOn k).any (fun s => decide (hotT t s > 115)) || (dramsOn k).any fun j => decide (dramT t j > 105)

/-- A DRAM die has read above 95 °C for 1 ms. -/
def overtempDue (k : Keel) (j : Nat) : Bool := (tfind k.power.dramOver j).any fun t => decide (t + msec ≤ k.time)

/-- DRAM_OVERTEMP_EXPIRY. -/
def runOvertemp (k : Keel) (f : Fab) (j : Nat) : Keel × Fab :=
  if overtempDue k j && !k.power.stopping && decide (j ∈ dramsOn k) then beginStop k f [3] else (k, f)

/-! ### Pins and rails -/

/-- RESET_N fell in the same µs as COOLANT_OK does now: the reset adds nothing (20 R536). The start that it ended has ended by the stop: FAILS and moored
mode are as they were. -/
def sameFall (k : Keel) : Option ResetFall := if k.resetN then none else k.resetFall.filter fun r => decide (k.time < r.time + usec)

def undoReset (k : Keel) (r : ResetFall) : Keel :=
  if r.running then modBoot k fun b => { b with fails := b.fails - 1, moored := false, code := 0x24, sectionIx := 0xFF, detail := 1 } else k

/-- COOLANT_OK_FALL: with no other domain on while RESET_N is low, there is no stop (20 R536). -/
def runCoolantFall (k : Keel) (f : Fab) : Keel × Fab :=
  if !k.coolantOk then (k, f)
  else
    let k := { k with coolantOk := false }
    match sameFall k with
    | some r => beginStop (undoReset k r) f [1]
    | none => if !k.resetN && k.power.on == 1 then (k, f) else beginStop k f [1]

/-- The next rail that the start requests (20 R531): VDD_TETH, VDD_PORT with port dies, VDD_LPIO, VDD_HBD, then every present core
rail; each follows the previous one's power-good. -/
def nextRails (k : Keel) : List Nat :=
  let order := [[7], if k.fuse.variant.ports then [6] else [], [5], [4], List.range k.sails]
  let up := fun (rs : List Nat) => rs.all fun r => k.railReq.getLsbD r && k.pg.getLsbD r
  ((order.find? fun rs => !up rs).getD []).filter fun r => !k.railReq.getLsbD r

/-- Rails are requested on, core rails at V_TARGET (17 R470). -/
def requestRails (k : Keel) : Keel :=
  (nextRails k).foldl (fun k r =>
    let k := modStart (sendOut { k with railReq := bset k.railReq r true } [.railOn r]) fun s => { s with asked := tput s.asked r k.time }
    if r < 4 then noteVMin (modRail k r fun _ => { Rail.reset with reqMv := (railCfg k r).vTarget }) else k) k

/-- Step 5 of 18 R501 goes on while its image is checked, the probe of step 4 has ended, and COOLANT_OK is high. -/
def tendRails (k : Keel) : Keel :=
  if k.start.running && k.start.imageDone && k.start.probeDone && k.coolantOk && !k.power.stopping then requestRails k else k

def railsUp (k : Keel) : Bool :=
  (List.range k.sails ++ [4, 5, 7] ++ (if k.fuse.variant.ports then [6] else [])).all fun r => k.railReq.getLsbD r && k.pg.getLsbD r

/-- POWER_GOOD_RISE. -/
def runPgRise (k : Keel) (r : Nat) : Keel := if r < 8 then tendRails { k with pg := bset k.pg r true } else k

/-- POWER_GOOD_FALL (20 R532). -/
def runPgFall (k : Keel) (f : Fab) (r : Nat) : Keel × Fab :=
  if !k.pg.getLsbD r then (k, f)
  else
    let k := { k with pg := bset k.pg r false }
    if k.railReq.getLsbD r then beginStop k f [5] else (k, f)

/-- The domain that a missing power-good names (20 R531). -/
def railDomain (r : Nat) : Nat := if r = 7 then 1 else if r = 6 then 2 else if r < 4 then 4 * r + 4 else memDom 0

/-- A rail was requested on 10 ms ago and its power-good input is low. -/
def pgOverdue (k : Keel) (r : Nat) : Bool :=
  k.railReq.getLsbD r && !k.pg.getLsbD r && (tfind k.start.asked r).any fun t => decide (t + 10 * msec ≤ k.time)

/-- POWER_GOOD_TIMEOUT. -/
def runPgTimeout (k : Keel) (f : Fab) (r : Nat) : Keel × Fab :=
  if k.start.running && pgOverdue k r then failStart k f 0x21 0xFF (railDomain r) else (k, f)

/-! ### Retention (17 R487) -/

/-- Every queue has HEAD = TAIL = RETIRED and no group is resident. -/
def idle (f : Fab) : Bool :=
  f.cores.groups.isEmpty && f.cores.blocks.isEmpty && f.cores.waiting.isEmpty &&
  f.tab.queues.all fun q => q.2.head == q.2.tail && q.2.retired == q.2.tail && q.2.cmds.isEmpty && !q.2.reading && !q.2.tailRead

def setCtrlErr (k : Keel) : Keel := modPower k fun p => { p with ctrlErr := true }

/-- A write of KEEL_PWR_CTRL with ACT 0 or 3, or over I3C. -/
def writePwrCtrl (k : Keel) (f : Fab) (m : Mark) (v : Nat) : Keel :=
  if !(systemMark m || m.i3c) then k
  else
    let k := if bitAt v 31 then modPower k fun p => { p with ctrlErr := false } else k
    let req := fld v 0 2
    if req = 0 ∨ req = 3 then k
    else if k.power.stopping then setCtrlErr k
    else if req = 1 then
      if k.power.state = 1 ∧ k.power.retention = 0 ∧ k.sec.devStep = 0 ∧ idle f then
        modPower (dropSessions k) fun p => { p with retention := 1 }
      else setCtrlErr k
    else if k.power.retention = 2 then moveRails (modPower k fun p => { p with retention := 3 })
    else k

/-- Nothing of the memories is in flight. -/
def memQuiet (f : Fab) : Bool :=
  (List.range 16).all (linesQuiet f) && f.jobs.isEmpty && !(f.net.any fun m => match m.2 with
    | .uncWrite _ | .farAt _ | .farRead .. | .memRead .. => true
    | _ => false)

/-- Lines that the tether die holds are asked back (11 R324). -/
def recallAll (k : Keel) (f : Fab) : Fab := (List.range 16).foldl (recallPart k) f

/-- The L2s and the L1s hold nothing any more: dirty lines are written back (10 R308), and one whose parity is bad is lost (10 R313). -/
def cleanAll (f : Fab) : Fab :=
  let out := fun (f : Fab) (die : Nat) (l : Line) (d : LineData) (good : Bool) => if good then onMem f fun m => writeBack m l d else loseLine f die l
  let f := (f.mem.l2.filter fun c => isDirty c.st c.d).foldl (fun f c => out f c.die c.line c.d (c.flaw == .ok)) f
  let f := (f.mem.evb.filter fun e => e.dirtyLine && !e.issued).foldl (fun f e => out f e.die e.line e.d (!e.flaw)) f
  onMem f fun m => { m with
    l2 := [], evb := [], dir := [], l1 := [], streams := [], resv := [], holds := [], failedLane := [], refetch := [] }

/-- The actuators of domains that go off or come on: DROOPS stays. -/
def restLevels (k : Keel) (ds : List Nat) (level : Nat) : Table Level :=
  ds.map fun d => (d, { Level.reset with level := level, droops := (levelOf k d).droops })

/-- RETENTION_ENTERED: steps 2 to 4, once the tether die has given up its lines and every write has reached its memory. The memory domains stay
on, and the core rails go down to V_MIN in steps (17 R470). -/
def runRetained (k : Keel) (f : Fab) : Keel × Fab :=
  if k.power.retention ≠ 1 then (k, f)
  else if !memQuiet f || (List.range 16).any fun p => !(tetherHeld f p).isEmpty then (k, recallAll k f)
  else
    let stay := (sailsOn k).foldl (fun (w : BitVec 20) s => bset w (memDom s) true) (k.power.on &&& 3)
    let k' := modPower k fun p => { p with retention := 2, state := 2, on := stay, levels := restLevels k (p.levels.map (·.1)) 0 }
    let k' := modBoot k' fun b => { b with compute := 0, portDie := 0 }
    let f' := onGln (cleanAll f) fun g => { g with ports := [] }
    tellReady k f (noteVMin (moveRails k'), { f' with eng := { f'.eng with mx := [], cp := [], rt := [] }, cores := { f'.cores with flags := [] } })

/-- A counter of a unit of a memory domain (02 R46): mesh routers and L2 slices. -/
def memUnit (e : Nat × Nat) : Bool := e.1 / 65536 == 3 || e.1 / 65536 == 4

/-- RETENTION_EXIT_COMPLETE: once the rails are back at V_TARGET, the domains that retention turned off are on again, and held rings are
handled. -/
def runUnretained (k : Keel) (f : Fab) : Keel × Fab :=
  if k.power.retention ≠ 3 || (liveRails k).any fun s => decide ((railOf k s).reqMv < (railCfg k s).vTarget) then (k, f)
  else
    let parked := (powerCfg k).parked
    let ds := (List.range (3 * k.sails)).filter fun d => !bitAt parked d
    let on := ds.foldl (fun (w : BitVec 20) d => bset w (levelDom d) true) k.power.on
    let on := if k.fuse.variant.ports then bset (bset on 2 true) 3 true else on
    let k := modPower k fun p => { p with retention := 0, state := 1, on := on, levels := restLevels k ds 4 }
    let k := modBoot k fun b => { b with
      compute := ds.foldl (fun (w : BitVec 12) d => bset w d true) 0, portDie := if k.fuse.variant.ports then 3 else 0 }
    let f := onGln f fun g => { g with
      ports := if k.fuse.variant.ports then (List.range 6).map fun n => (n, { Port.fresh with state := 1 }) else [] }
    let f := { f with elapsed := f.elapsed.filter memUnit, work := f.work.filter memUnit }
    (ibi (noteVMin k) 0x01, settle k (releaseHeld k f fun _ => true))

/-! ### Registers -/

/-- ALERT_N is driven low (20 R536). -/
def alertLow (k : Keel) : Bool :=
  (k.power.event &&& k.power.alertEn) != 0 || k.power.stopValid || k.boot.moored

/-- The power registers from 0x2000 to 0x2FFF: width in bytes and value. -/
def pwrReg (k : Keel) (a : Nat) : Option (Nat × Nat) :=
  let p := k.power
  if a = 0x2000 then some (4, p.state * 2 ^ 30 + p.on.toNat)
  else if a = 0x2008 then
    some (8, p.measW % 65536 * 2 ^ 48 + p.trackW % 65536 * 2 ^ 32 + p.aboveUs % 65536 * 2 ^ 16 + p.meanW % 65536)
  else if 0x2010 ≤ a ∧ a < 0x2030 ∧ a % 8 = 0 then
    let s := (a - 0x2010) / 8
    let r := railOf k s
    some (8, if s < k.sails then 2 ^ 63 + r.reqMv % 4096 * 2 ^ 51 + r.voutMv % 4096 * 2 ^ 39 + bit r.est 38 + r.ioutA % 65536 * 2 ^ 16 else 0)
  else if a = 0x2030 then
    let c := powerCfg k
    some (8, c.pcapSust * 2 ^ 48 + c.pcapTrans * 2 ^ 32 + c.transTime * 2 ^ 22 + c.slopeStep * 2 ^ 16 + c.tHot * 2 ^ 8 + c.dramHot)
  else if 0x2040 ≤ a ∧ a < 0x2070 ∧ a % 4 = 0 then
    let d := (a - 0x2040) / 4
    let l := levelOf k d
    some (4, if d < 3 * k.sails ∧ !bitAt (powerCfg k).parked d then
      2 ^ 31 + bit l.cut 30 + l.droops * 2 ^ 16 + l.target * 2 ^ 8 + l.level else 64 * 2 ^ 8)
  else if 0x2080 ≤ a ∧ a < 0x20A0 ∧ a % 8 = 0 then
    let s := (a - 0x2080) / 8
    let t := tgetD p.sailT s (0, 0, 0)
    some (8, if s ∈ sailsOn k then 2 ^ 63 + (max t.1 (max t.2.1 t.2.2)) % 256 * 2 ^ 24 + t.2.2 % 256 * 2 ^ 16 + t.2.1 % 256 * 2 ^ 8 + t.1 % 256 else 0)
  else if 0x20A0 ≤ a ∧ a < 0x20C0 ∧ a % 8 = 0 then
    let s := (a - 0x20A0) / 8
    some (8, if s ∈ sailsOn k then
      2 ^ 63 + fld p.dramDouble.toNat (6 * s) 6 * 2 ^ 48 + ((List.range 6).map fun d => tgetD p.dramT (6 * s + d) 0 % 256 * 2 ^ (8 * d)).sum else 0)
  else if a = 0x2100 then some (4, p.event.toNat)
  else if a = 0x2108 then some (4, p.alertEn.toNat)
  else if a = 0x2200 then some (4, if p.stopValid then 2 ^ 31 + p.stopOthers.toNat * 2 ^ 8 + p.stopCause else 0)
  else if a = 0x2300 then some (4, bit p.ctrlErr 31)
  else none

/-- A write of a power register, with ACT 0 or 3 or over I3C. -/
def writePwr (k : Keel) (f : Fab) (m : Mark) (a v : Nat) : Keel :=
  if !(systemMark m || m.i3c) then k
  else if a = 0x2100 then modPower k fun p => { p with event := p.event &&& ~~~(BitVec.ofNat 8 v) }
  else if a = 0x2108 then modPower k fun p => { p with alertEn := BitVec.ofNat 8 v }
  else if a = 0x2200 then (if bitAt v 31 then modPower k fun p => { p with stopValid := false, stopOthers := 0, stopCause := 0 } else k)
  else if a = 0x2300 then writePwrCtrl k f m v
  else k

/-! ### The rows -/

/-- AVSBUS_SAMPLE (17 R469). -/
def execAvsbusSample (r : RailSample) (s : State) : Out :=
  if railBeyond s.keel r then .fault .beyondAbsoluteMaximum else onBoth s fun k f => runAvsbus k f r
/-- PMBUS_SAMPLE (17 R469). -/
def execPmbusSample (r : PmbusSample) (s : State) : Out := onKeel s fun k _ => if k.on then runPmbus k r else k
/-- VOLTAGE_STEP (17 R470). -/
def execVoltageStep (rail : Nat) (up : Bool) (s : State) : Out := onKeel s fun k _ => runVoltage k rail up
/-- ESTIMATOR_UPDATE (17 R473). -/
def execEstimatorUpdate (_ : EstimatorSample) (s : State) : Out := onKeel s fun k f => runEstimator k f
/-- POWER_LIMIT_TIMEOUT (17 R473). -/
def execPowerLimitTimeout (s : State) : Out := onBoth s fun k f => runLimitTimeout k f
/-- LEVEL_SLOPE_STEP (17 R475). -/
def execLevelSlopeStep (die field : Nat) (s : State) : Out := onKeel s fun k _ => if field < 3 then runSlope k (3 * die + field) else k
/-- DROOP_TRIP (17 R476). -/
def execDroopTrip (die field : Nat) (s : State) : Out := onBoth s fun k f => if field < 3 then runDroop k f (3 * die + field) else (k, f)
/-- DROOP_CUT_END (17 R477). -/
def execDroopCutEnd (die field : Nat) (s : State) : Out := onKeel s fun k _ => if field < 3 then runCutEnd k (3 * die + field) else k
/-- TEMPERATURE_SAMPLE (17 R482). -/
def execTemperatureSample (t : TempSample) (s : State) : Out :=
  if tempBeyond s.keel t then .fault .beyondAbsoluteMaximum else onBoth s fun k f => runTemperature k f t
/-- DRAM_OVERTEMP_EXPIRY (17 R482). -/
def execDramOvertempExpiry (dram : Nat) (s : State) : Out := onBoth s fun k f => runOvertemp k f dram
/-- COOLANT_OK_FALL (17 R484). -/
def execCoolantOkFall (s : State) : Out := onBoth s fun k f => runCoolantFall k f
/-- STOP_COMPLETE (17 R485). -/
def execStopComplete (s : State) : Out := onBoth s fun k f => if k.power.stopping then finishStop k f else (k, f)
/-- COOLANT_OK_RISE (20 R531): a start that waits at step 5 proceeds. -/
def execCoolantOkRise (s : State) : Out := onKeel s fun k _ => if k.on then tendRails { k with coolantOk := true } else k
/-- POWER_GOOD_RISE (20 R531). -/
def execPowerGoodRise (pg : Nat) (s : State) : Out := onKeel s fun k _ => if k.on then runPgRise k pg else k
/-- POWER_GOOD_FALL (20 R532). -/
def execPowerGoodFall (pg : Nat) (s : State) : Out := onBoth s fun k f => runPgFall k f pg
/-- POWER_GOOD_TIMEOUT (20 R531). -/
def execPowerGoodTimeout (pg : Nat) (s : State) : Out := onBoth s fun k f => runPgTimeout k f pg
/-- VDD_KEEL_LOSS (20 R532): every content and every count is lost; fuses and the NVM keep theirs. -/
def execVddKeelLoss (s : State) : Out := onBoth s fun k f =>
  ({ Keel.powerUp k.fuse k.nvm with on := false, time := k.time, addrSel := k.addrSel, out := k.out, power := { Power.reset with on := 0 } },
   { Fab.reset with free := f.free, nextId := f.nextId, sent := f.sent })
/-- VDD_KEEL_BRING_UP (20 R531): the keel domain comes on with its registers at reset. -/
def execVddKeelBringUp (s : State) : Out := onKeel s fun k _ =>
  if k.on then k else { Keel.powerUp k.fuse k.nvm with time := k.time, addrSel := k.addrSel, out := k.out }
/-- RETENTION_ENTER (17 R487): a write of KEEL_PWR_CTRL with REQ 1. -/
def execRetentionEnter (mark : Mark) (v : Word32) (s : State) : Out :=
  regBoth s mark fun k f => (if fld v.toNat 0 2 = 1 then writePwrCtrl k f mark v.toNat else k, f)
/-- RETENTION_ENTERED (17 R487). -/
def execRetentionEntered (s : State) : Out := onBoth s fun k f => runRetained k f
/-- RETENTION_EXIT (17 R487): a write of KEEL_PWR_CTRL with REQ 2. -/
def execRetentionExit (mark : Mark) (v : Word32) (s : State) : Out :=
  regBoth s mark fun k f => (if fld v.toNat 0 2 = 2 then writePwrCtrl k f mark v.toNat else k, f)
/-- RETENTION_EXIT_COMPLETE (17 R487). -/
def execRetentionExitComplete (s : State) : Out := onBoth s fun k f => runUnretained k f

end Sys2Proof.Machine
end

