-- ==== Sys2Proof/Machine/Image.lean ====
section
/-!
DEFINITION. Image.lean: the configuration image: its slots in the NVM (18 R489, R490), its header, directory and signature (R491 to
R493), and the checks of every section (R494 to R496, R498) with what they bind.
-/
namespace Sys2Proof.Machine

/-- A failed check: the boot cause, the directory index of the section and the DETAIL (18 R498). -/
structure Bad where
  code : Nat
  sectionIx : Nat
  detail : Nat
  deriving DecidableEq, Repr

def Bad.before (a b : Bad) : Bool :=
  decide (a.code < b.code) || (a.code == b.code && (decide (a.sectionIx < b.sectionIx) ||
    (a.sectionIx == b.sectionIx && decide (a.detail < b.detail))))

/-- The failure that the keel reports: the lowest code, then the lowest directory index, then the lowest DETAIL. -/
def worst : List Bad → Option Bad
  | [] => none
  | b :: bs => match worst bs with
    | none => some b
    | some c => some (if c.before b then c else b)

def badIf (b : Bool) (code ix detail : Nat) : List Bad := if b then [{ code := code, sectionIx := ix, detail := detail }] else []

/-! ### The NVM -/

def nvmByte (n : Nvm) (a : Nat) : Byte := cread Nvm.erased n.cells a
def nvmBytes (n : Nvm) (a len : Nat) : List Byte := (List.range len).map fun i => nvmByte n (a + i)
def slotBase (n : Nvm) (slot : Nat) : Nat := slot * (n.size / 2)

/-- The header checks of 18 R492 on bytes 0 to 255. -/
def headerOk (half : Nat) (h : List Byte) : Bool :=
  numAt h 0 8 == 0x4746435241544F58 && numAt h 8 4 == 1 && numAt h 12 4 / 256 == 0 && numAt h 24 8 % 64 == 0 &&
  decide (512 ≤ numAt h 24 8 ∧ numAt h 24 8 ≤ half) && decide (1 ≤ numAt h 32 4 ∧ numAt h 32 4 ≤ 32) && (h.drop 36).all (· == 0)

def slotHeader (k : Keel) (slot : Nat) : List Byte := nvmBytes k.nvm (slotBase k.nvm slot) 256
def slotOk (k : Keel) (slot : Nat) : Bool := headerOk (k.nvm.size / 2) (slotHeader k slot)
def slotSeq (k : Keel) (slot : Nat) : Nat := numAt (slotHeader k slot) 16 8

/-- The bytes of a slot's image. -/
def imageBytes (k : Keel) (slot : Nat) : List Byte := nvmBytes k.nvm (slotBase k.nvm slot) (numAt (slotHeader k slot) 24 8)

/-- The slots to try, in order (18 R490): a valid header with the higher SEQ first, slot A where they are equal. -/
def slotOrder (k : Keel) : List Nat :=
  (if slotSeq k 1 > slotSeq k 0 then [1, 0] else [0, 1]).filter (slotOk k)

/-- The digest that the signature covers: bytes 0 to LENGTH - 65. -/
def imageDigest (img : List Byte) : List Byte := Crypto.sha512 (img.take (img.length - 64))
def imageSvn (img : List Byte) : Nat := numAt img 12 1

/-- The context string of an image's Ed25519ph signature (18 R492). -/
def imageContext : List Byte := ascii "XotarCfg"

/-- The signature and the security version. -/
def signBad (k : Keel) (img : List Byte) : List Bad :=
  if !((imageKey k).any fun key => Crypto.ed25519phVerify key imageContext (imageDigest img) (img.drop (img.length - 64))) then badIf true 0x02 0xFF 0
  else badIf (decide (imageSvn img < k.fuse.minSvn)) 0x03 0xFF (imageSvn img)

/-! ### The directory (18 R491, R493) -/

/-- A directory entry with its section's bytes. -/
structure Section where
  ix : Nat
  ty : Nat
  inst : Nat
  off : Nat
  len : Nat
  bytes : List Byte
  deriving DecidableEq, Repr

def sectionAt (img : List Byte) (i : Nat) : Section :=
  let e := slice img (256 + 16 * i) 16
  { ix := i, ty := numAt e 0 2, inst := numAt e 2 2, off := numAt e 8 4, len := numAt e 12 4, bytes := slice img (numAt e 8 4) (numAt e 12 4) }

def nsect (img : List Byte) : Nat := numAt img 32 4
def sections (img : List Byte) : List Section := (List.range (nsect img)).map (sectionAt img)

/-- Instances of each type. -/
def typeInst : Nat → Nat
  | 1 | 2 | 4 | 5 | 6 => 1
  | 3 => 8
  | 7 => 16
  | _ => 0

/-- The minimum SLEN of a section. -/
def minLen (s : Section) : Nat :=
  match s.ty with
  | 1 => 37952 | 2 => 1088 | 4 => 4160 | 5 => 48 | 6 => 128
  | 3 => if bitAt (numAt s.bytes 0 8) 5 then 4224 else 64
  | _ => 64

def overlaps (a alen b blen : Nat) : Bool := decide (a < b + blen) && decide (b < a + alen)

/-- One entry breaks 18 R493, against the entries before it. -/
def entryBad (img : List Byte) (before : List Section) (s : Section) : Bool :=
  numAt (slice img (256 + 16 * s.ix) 16) 4 4 != 0 || decide (s.inst ≥ typeInst s.ty) || s.off % 64 != 0 ||
  decide (s.off + s.len > img.length) || decide (s.len < minLen s) || overlaps s.off s.len 0 (256 + 16 * nsect img) ||
  overlaps s.off s.len (img.length - 64) 64 ||
  before.any fun t => (t.ty == s.ty && t.inst == s.inst) || overlaps s.off s.len t.off t.len

def directoryBad (img : List Byte) : List Bad :=
  let ss := sections img
  (ss.flatMap fun s => badIf (entryBad img (ss.take s.ix) s) 0x10 s.ix s.ix) ++
  badIf (!(ss.any (·.ty == 1))) 0x10 0xFF (nsect img)

def sectionOf (img : List Byte) (ty : Nat) : Option Section := (sections img).find? (·.ty == ty)

/-! ### The partition section (18 R494) -/

/-- Whether a partition's record, local memory and L1 masks lie in a section. -/
def partRecord (b : List Byte) (p : Nat) : List Byte := slice b (64 + 64 * p) 64
def localUnit (b : List Byte) (p core : Nat) : Nat := numAt b (1088 + 768 * p + core) 1
def l1Mask (b : List Byte) (p core : Nat) : Nat := numAt b (13376 + 1536 * p + 2 * core) 2

def readPart (b : List Byte) (p : Nat) : PartRec :=
  let r := partRecord b p
  { configured := bitAt (numAt r 2 1) 0, nmUnits := numAt r 0 2, depth := numAt r 3 1, lpdMask := numAt r 4 4, lpdUnits := numAt r 8 2
    l2Ways := numAt r 10 2, tetherBytes := numAt r 16 8, adminCtx := numAt r 24 2, adminQueue := numAt r 26 2, adminSlot := numAt r 28 2
    adminKind := numAt r 30 1, adminPrio := numAt r 31 1, adminOff := numAt r 32 8, adminVcount := numAt r 40 2 }

def readParts (b : List Byte) : List PartRec := (List.range 16).map (readPart b)

/-- Bytes of a partition's carve-out of a kind, by its record. -/
def PartRec.carve (r : PartRec) (sails kind : Nat) : Nat :=
  match kind with
  | 0 => r.nmUnits * sails * 2 ^ 28
  | 1 => r.lpdUnits * popcount 32 r.lpdMask * 2 ^ 28
  | 3 => r.tetherBytes
  | _ => 0

/-- A configured record breaks the fields' ranges, or an unconfigured one is not zero throughout. -/
def recordBad (sails : Nat) (b : List Byte) (p : Nat) : Bool :=
  let raw := partRecord b p
  let r := readPart b p
  if !r.configured then
    raw.any (· != 0) || (slice b (1088 + 768 * p) 768).any (· != 0) || (slice b (13376 + 1536 * p) 1536).any (· != 0)
  else
    numAt raw 2 1 != 1 || decide (r.depth > 16) || (slice raw 12 4).any (· != 0) || (raw.drop 42).any (· != 0) ||
    r.tetherBytes % 65536 != 0 || (r.lpdMask == 0) != (r.lpdUnits == 0) || decide (r.adminCtx ≥ 1024) || decide (r.adminQueue ≥ 4096) ||
    r.adminSlot == 0 || !(r.adminKind == 0 || r.adminKind == 1 || r.adminKind == 3) || decide (r.adminPrio > 3) || r.adminOff % 65536 != 0 ||
    decide (r.adminOff + 65536 > r.carve sails r.adminKind) || r.adminVcount % 16 != 0 || decide (r.adminVcount > 16384)

/-- Two configured records name the same admin context, queue or slot. -/
def sameAdmin (a b : PartRec) : Bool :=
  a.configured && b.configured && (a.adminCtx == b.adminCtx || a.adminQueue == b.adminQueue || a.adminSlot == b.adminSlot)

def sumParts (ps : List PartRec) (g : PartRec → Nat) : Nat := ((ps.filter (·.configured)).map g).sum

/-- Units that the section names and the part has not (18 R498 code 0x11). -/
def partAbsent (k : Keel) (b : List Byte) (ix : Nat) : List Bad :=
  (List.range 16).flatMap fun p =>
    ((List.range 4).flatMap fun die => badIf (decide (die ≥ k.sails) && (List.range 192).any fun c =>
      localUnit b p (192 * die + c) != 0 || l1Mask b p (192 * die + c) != 0) 0x11 ix die) ++
    ((setBits 32 (readPart b p).lpdMask).flatMap fun ch => badIf (decide (ch ≥ 8 * k.sails)) 0x11 ix (3 * 4096 + ch))

/-- L1 way masks of two partitions overlap on a core. -/
def waysOverlap : List Nat → Bool
  | [] => false
  | m :: ms => ms.any (fun n => m &&& n != 0) || waysOverlap ms

/-- Reserves of 14 R417: the first level at which the sums exceed it. -/
def reserveBad (rs : List (Nat × Nat)) (ix : Nat) : List Bad :=
  ((List.range 3).flatMap fun i =>
    badIf (decide (((rs.take (i + 1)).map (·.1)).sum > 12) || decide (((rs.take (i + 1)).map (·.2)).sum > 48)) 0x19 ix (i + 1)).take 1

def readReserves (b : List Byte) : List (Nat × Nat) :=
  (List.range 3).map fun i => (fld (numAt b (8 + 4 * i) 4) 0 4, fld (numAt b (8 + 4 * i) 4) 16 7)

def partBad (k : Keel) (s : Section) : List Bad :=
  let b := s.bytes
  let ps := readParts b
  let w0 := numAt b 0 8
  let reserved := (List.range 3).any fun i => fld (numAt b (8 + 4 * i) 4) 23 9 != 0 || fld (numAt b (8 + 4 * i) 4) 4 12 != 0
  badIf (w0 / 8 != 0 || !(decide (1 ≤ w0 ∧ w0 ≤ 4)) || reserved || (slice b 20 44).any (· != 0) || (b.drop 37952).any (· != 0)) 0x12 s.ix 16 ++
  ((List.range 16).flatMap fun p => badIf (recordBad k.sails b p) 0x12 s.ix p) ++
  ((List.range 16).flatMap fun p => badIf ((ps.take p).any fun r => sameAdmin r (readPart b p)) 0x12 s.ix p) ++
  ((List.range 16).flatMap fun p => badIf ((readPart b p).configured && decide (sumParts (ps.take (p + 1)) (·.adminVcount) > 65536)) 0x12 s.ix p) ++
  partAbsent k b s.ix ++
  badIf (decide (sumParts ps (fun r => ceilDiv (r.carve k.sails 0 / 128) (96 * k.sails)) > 6291456)) 0x13 s.ix 0 ++
  ((List.range 32).flatMap fun ch =>
    badIf (decide (sumParts ps (fun r => if bitAt r.lpdMask ch then r.lpdUnits else 0) > 96)) 0x14 s.ix ch) ++
  ((List.range 768).flatMap fun c =>
    badIf (decide (((List.range 16).map fun p => localUnit b p c).sum > 96) || waysOverlap ((List.range 16).map fun p => l1Mask b p c)) 0x15 s.ix c) ++
  ((List.range 16).flatMap fun p => badIf ((ps.take p).any fun r => r.l2Ways &&& (readPart b p).l2Ways != 0) 0x16 s.ix p) ++
  reserveBad (readReserves b) s.ix

/-- Whether a partition of the section is configured. -/
def partConfigured (ps : List PartRec) (p : Nat) : Bool := (ps[p]?).any (·.configured)

/-! ### The other sections -/

/-- The schedule (14 R411, R412). -/
def schedBad (k : Keel) (ps : List PartRec) (pb : List Byte) (s : Section) : List Bad :=
  let b := s.bytes
  let w0 := numAt b 0 8
  let slot := fun i => numAt b (64 + 4 * i) 4
  let holds := fun p => partConfigured ps p && (decide ((readPart pb p).nmUnits + (readPart pb p).lpdUnits + (readPart pb p).tetherBytes > 0) ||
    (slice pb (1088 + 768 * p) 768).any (· != 0))
  badIf (w0 / 32 != 0 || w0 % 4 == 0 || (slice b 8 56).any (· != 0) || (b.drop 1088).any (· != 0)) 0x18 s.ix 256 ++
  badIf (w0 % 4 == 3 && !(k.fuse.variant.ports && decide (fld w0 2 3 < 6))) 0x11 s.ix (2 * 4096 + fld w0 2 3) ++
  ((List.range 256).flatMap fun i => badIf (fld (slot i) 28 2 != 0 ||
    if bitAt (slot i) 30 then !holds (fld (slot i) 24 4) else fld (slot i) 24 4 != 0) 0x18 s.ix i) ++
  badIf (!(List.range 256).any fun i => bitAt (slot i) 31) 0x18 s.ix 0

/-- A special-function table section (09 R258 to R260, R267). -/
def sftBad (ps : List PartRec) (s : Section) : List Bad :=
  let b := s.bytes
  let w0 := numAt b 0 8
  let init := bitAt w0 5
  let image := slice b 64 4160
  let rest := if init then b.drop 4224 else b.drop 64
  badIf (w0 / 64 != 0 || (slice b 8 56).any (· != 0) || rest.any (· != 0) || (!bitAt w0 4 && (w0 % 16 != 0 || init)) ||
    (bitAt w0 4 && !partConfigured ps (w0 % 16)) ||
    (init && (!imageValid image || (bitAt (numAt image 0 8) 45 && !seamCheck image)))) 0x1A s.ix (8 + s.inst)

/-- One entry of a route table (16 R447): `t` is 6 for the origin table. -/
def routeEntryBad (t self : Nat) (before : List Nat) (e : Nat) : Bool :=
  let plen := fld e 56 3
  let low := 2 ^ (8 * (4 - plen))
  fld e 32 10 != 0 || (bitAt e 63 && (decide (fld e 59 3 > 5) || decide (plen > 4) || fld e 0 32 % low != 0 ||
    (if t = 6 then fld e 42 14 == 0 || decide (fld e 42 14 > 10000) || self / low == fld e 0 32 / low else fld e 42 14 != 0) ||
    before.any fun x => bitAt x 63 && fld x 56 3 == plen && fld x 0 32 == fld e 0 32))

def tableBase : Nat → Nat
  | 6 => 64
  | 7 => 3648
  | n => 576 + 512 * n

def readTable (b : List Byte) (t : Nat) : List Nat := (List.range 64).map fun i => numAt b (tableBase t + 8 * i) 8

/-- The route tables (16 R446, R447, R450, R464). -/
def routeBad (k : Keel) (sched : Option (List Byte)) (s : Section) : List Bad :=
  let b := s.bytes
  let w0 := numAt b 0 8
  let self := fld w0 0 32
  let fwd := fld w0 40 6
  let ports := k.fuse.variant.ports
  let sel := sched.any fun c => numAt c 0 8 % 4 == 3 && bitAt fwd (fld (numAt c 0 8) 2 3)
  badIf (w0 / 2 ^ 46 != 0 || self == 0 || self == 0xFFFFFFFF || fld w0 32 8 == 0 || sel || (slice b 8 56).any (· != 0) ||
    (b.drop 4160).any (· != 0)) 0x1B s.ix (8 * 256) ++
  ((setBits 6 fwd).flatMap fun n => badIf (!ports) 0x11 s.ix (2 * 4096 + n)) ++
  ((List.range 7).flatMap fun t =>
    let es := readTable b t
    ((List.range 64).flatMap fun i => badIf (routeEntryBad t self (es.take i) (es.getD i 0)) 0x1B s.ix (t * 256 + i)) ++
    (es.flatMap fun e => badIf (bitAt e 63 && !ports && decide (fld e 59 3 ≤ 5)) 0x11 s.ix (2 * 4096 + fld e 59 3)) ++
    badIf (decide (t < 6) && !ports && es.any (· != 0)) 0x11 s.ix (2 * 4096 + t)) ++
  ((List.range 64).flatMap fun i =>
    let e := (readTable b 7).getD i 0
    badIf (fld e 32 20 != 0 || (bitAt e 63 && decide (fld e 60 3 > 4))) 0x1B s.ix (7 * 256 + i))

/-- A field given as 0 takes its default. -/
def orDefault (v d : Nat) : Nat := if v = 0 then d else v

def readRailCfg (w : Nat) : RailCfg :=
  { vMin := orDefault (fld w 0 12) 600, vMax := orDefault (fld w 12 12) 850, vTarget := orDefault (fld w 24 12) 750, droopMv := orDefault (fld w 36 8) 60 }

/-- The power-limits section (18 R495). -/
def readPower (v : Variant) (b : List Byte) : PowerCfg :=
  let d := PowerCfg.default v
  let w0 := numAt b 0 8
  let w1 := numAt b 8 8
  { pcapSust := orDefault (fld w0 48 16) d.pcapSust, pcapTrans := orDefault (fld w0 32 16) d.pcapTrans
    transTime := orDefault (fld w0 22 10) 1000, slopeStep := orDefault (fld w0 16 6) 2, tHot := orDefault (fld w0 8 8) 95
    dramHot := orDefault (fld w0 0 8) 90, parked := fld w1 0 12
    gapLen := if bitAt w1 28 then 0 else orDefault (fld w1 16 12) 64
    fraction := if bitAt w1 39 then 0 else orDefault (fld w1 32 7) 48
    rails := (List.range 4).map fun s => readRailCfg (numAt b (16 + 8 * s) 8) }

/-- 17 R470, R471, R475, R476, R482. -/
def powerBad (k : Keel) (s : Section) : List Bad :=
  let b := s.bytes
  let c := readPower k.fuse.variant b
  let d := PowerCfg.default k.fuse.variant
  let w1 := numAt b 8 8
  let range := fun (lo hi x : Nat) => decide (lo ≤ x ∧ x ≤ hi)
  let railBad := fun (r : RailCfg) (w : Nat) => w / 2 ^ 44 != 0 || !(range 600 850 r.vMin && decide (r.vMin ≤ r.vTarget) && decide (r.vTarget ≤ r.vMax) &&
    decide (r.vMax ≤ 850) && range 30 120 r.droopMv)
  badIf (decide (c.pcapSust > d.pcapSust) || decide (c.pcapTrans > d.pcapTrans) || decide (c.transTime > 1000) || !range 1 32 c.slopeStep ||
    !range 70 95 c.tHot || !range 80 93 c.dramHot) 0x1C s.ix 0 ++
  badIf (fld w1 12 4 != 0 || fld w1 29 3 != 0 || w1 / 2 ^ 40 != 0 || decide (fld w1 32 7 > 64)) 0x1C s.ix 1 ++
  ((setBits 12 c.parked).flatMap fun x => badIf (decide (x / 3 ≥ k.sails)) 0x11 s.ix (x / 3)) ++
  ((List.range 4).flatMap fun r =>
    let w := numAt b (16 + 8 * r) 8
    if r < k.sails then badIf (railBad (readRailCfg w) w) 0x1C s.ix (2 + r) else badIf (w != 0) 0x11 s.ix r) ++
  ((List.range (b.length - 48)).flatMap fun i => badIf ((b.getD (48 + i) 0) != 0) 0x1C s.ix ((48 + i) / 8))

/-- Local memory or L1 ways on a core of a parked domain (17 R467). -/
def parkedBad (parked : Nat) (s : Section) : List Bad :=
  (List.range 768).flatMap fun c =>
    badIf (bitAt parked (c / 64) && (List.range 16).any fun p => localUnit s.bytes p c != 0 || l1Mask s.bytes p c != 0) 0x17 s.ix c

/-- The reserved-load section (11 R341, R342). -/
def resloadBad (s : Section) : List Bad :=
  ((List.range 16).flatMap fun p =>
    let w := numAt s.bytes (8 * p) 8
    badIf (w / 128 != 0 || fld w 1 3 != 0 || decide (fld w 4 3 > 5)) 0x1D s.ix p) ++
  ((List.range (s.bytes.length - 128)).flatMap fun i => badIf ((s.bytes.getD (128 + i) 0) != 0) 0x1D s.ix ((128 + i) / 8))

/-! ### Programs (18 R496) -/

/-- Whether a run of bytes lies within a section. -/
def within (b : List Byte) (off n : Nat) : Bool := decide (off + n ≤ b.length)

def nblob (b : List Byte) : Nat := numAt b 32 2
def ncmd (b : List Byte) : Nat := numAt b 34 2
def nstart (b : List Byte) : Nat := numAt b 36 2
def blobEntry (b : List Byte) (i : Nat) : List Byte := slice b (numAt b 8 8 + 24 * i) 24
def startEntry (b : List Byte) (i : Nat) : List Byte := slice b (numAt b 24 8 + 16 * i) 16

def programBad (ps : List PartRec) (s : Section) : List Bad :=
  let b := s.bytes
  let lists := within b (numAt b 8 8) (24 * nblob b) && within b (numAt b 16 8) (64 * ncmd b) && within b (numAt b 24 8) (16 * nstart b)
  let blobs := (List.range (nblob b)).all fun i => within b (numAt (blobEntry b i) 16 8) (numAt (blobEntry b i) 8 8)
  let starts := (List.range (nstart b)).all fun i => within b (numAt (startEntry b i) 8 8) (64 * fld (numAt (startEntry b i) 0 8) 32 16)
  badIf (numAt b 0 1 / 16 != 0 || (slice b 1 7).any (· != 0) || numAt b 38 2 != 0 || (slice b 40 24).any (· != 0) ||
    !partConfigured ps (numAt b 0 1 % 16) || !lists || !blobs || !starts) 0x1E s.ix s.inst

def readProgram (s : Section) : Program :=
  let b := s.bytes
  { number := s.inst, part := numAt b 0 1 % 16
    blobs := (List.range (nblob b)).map fun i =>
      let e := blobEntry b i
      { kind := fld (numAt e 0 8) 48 4, off := fld (numAt e 0 8) 0 48, bytes := slice b (numAt e 16 8) (numAt e 8 8) }
    cmds := (List.range (ncmd b)).map fun i => slice b (numAt b 16 8 + 64 * i) 64
    starts := (List.range (nstart b)).map fun i =>
      let e := startEntry b i
      let n := fld (numAt e 0 8) 32 16
      (fld (numAt e 0 8) 0 12, (List.range n).map fun j => slice b (numAt e 8 8 + 64 * j) 64) }

/-! ### The whole image -/

/-- Every failed check of an image whose header has passed: signature and SVN, directory, sections. -/
def imageBad (k : Keel) (img : List Byte) : List Bad :=
  match signBad k img with
  | b :: bs => b :: bs
  | [] => match directoryBad img with
    | b :: bs => b :: bs
    | [] =>
      let ss := sections img
      let pb := ((sectionOf img 1).map (·.bytes)).getD []
      let ps := readParts pb
      let sched := (sectionOf img 2).map (·.bytes)
      let parked := ((sectionOf img 5).map fun s => (readPower k.fuse.variant s.bytes).parked).getD 0
      (ss.flatMap fun s => match s.ty with
        | 1 => partBad k s ++ parkedBad parked s
        | 2 => schedBad k ps pb s
        | 3 => sftBad ps s
        | 4 => routeBad k sched s
        | 5 => powerBad k s
        | 6 => resloadBad s
        | _ => programBad ps s)

/-- The code that 18 R498 gives a slot, 0x01 to 0x1E, or none where every check passes. -/
def slotBad (k : Keel) (slot : Nat) : Option Bad :=
  if slotOk k slot then worst (imageBad k (imageBytes k slot)) else some { code := 0x01, sectionIx := 0xFF, detail := 0 }

def words (b : List Byte) (at_ n w : Nat) : List Nat := (List.range n).map fun i => numAt b (at_ + w * i) w

/-- The entries of a per-core table that are not zero, by core × 16 + partition. -/
def perCore (g : (p core : Nat) → Nat) : Table Nat :=
  (List.range 768).flatMap fun c => (List.range 16).filterMap fun p => if g p c = 0 then none else some (c * 16 + p, g p c)

def readSched (b : List Byte) : SchedCfg :=
  { src := numAt b 0 8 % 4, port := fld (numAt b 0 8) 2 3, slots := (words b 64 256 4).map (BitVec.ofNat 32) }

def readSft (s : Section) : SftCfg :=
  let w := numAt s.bytes 0 8
  { table := 8 + s.inst, owner := w % 16, owned := bitAt w 4, image := if bitAt w 5 then some (slice s.bytes 64 4160) else none }

def readRoutes (b : List Byte) : RouteCfg :=
  let w := numAt b 0 8
  let tab := fun t => (readTable b t).map (BitVec.ofNat 64)
  { self := fld w 0 32, hopLimit := fld w 32 8, frameFwd := fld w 40 6, origin := tab 6, inputs := (List.range 6).map tab, pairs := tab 7 }

/-- What a checked image binds (18 R500). -/
def bindImage (k : Keel) (slot : Nat) (img : List Byte) : Image :=
  let pb := ((sectionOf img 1).map (·.bytes)).getD []
  let ss := sections img
  { slot := slot, seq := numAt img 16 8, svn := imageSvn img, mImage := imageDigest img, mPtab := Crypto.sha512 pb
    lpdRate := numAt pb 0 8 % 8, partIx := ((sectionOf img 1).map (·.ix)).getD 0xFF, reserves := readReserves pb, parts := readParts pb
    localUnits := perCore (localUnit pb), l1Ways := perCore (l1Mask pb)
    sched := (sectionOf img 2).map fun s => readSched s.bytes
    sft := (ss.filter (·.ty == 3)).map readSft
    routes := (sectionOf img 4).map fun s => readRoutes s.bytes
    power := ((sectionOf img 5).map fun s => readPower k.fuse.variant s.bytes).getD (PowerCfg.default k.fuse.variant)
    resload := ((sectionOf img 6).map fun s => (words s.bytes 0 16 8).map (BitVec.ofNat 64)).getD []
    programs := (List.range 16).flatMap fun n => (ss.filter fun s => s.ty == 7 && s.inst == n).map readProgram }

end Sys2Proof.Machine
end

