-- ==== Sys2Proof/Machine/Boot.lean ====
section
/-!
DEFINITION. Boot.lean: the start sequence (18 R501): how a start begins, each of its steps, its end and its failure (R502), RESET_N
(20 R534), and the registers of boot and readiness.
-/
namespace Sys2Proof.Machine

/-! ### The beginning of a start -/

/-- An operation of 19 R507 takes effect at the next start. -/
def applyPending (k : Keel) : Keel :=
  let fuse := match k.sec.pend with
    | none => k.fuse
    | some (.takeOwnership s) => { k.fuse with slots := k.fuse.slots ++ [s], lifecycle := 2, activeSlot := k.fuse.slots.length }
    | some .releaseOwnership => { k.fuse with lifecycle := 1 }
    | some .retire => { k.fuse with lifecycle := 3 }
  modSec { k with fuse := fuse } fun s => { s with pend := none }

/-- The keel's registers at the beginning of a start: those that a start does not keep are at reset. -/
def clearForStart (k : Keel) : Keel :=
  let p := k.power
  { k with
    boot := { Boot.reset with fails := k.boot.fails }
    start := { Start.none with running := true, began := k.time }
    image := none, lpddrDone := false, tetherDone := false, tetherKind := 0, chan := 0
    power := { Power.reset with stopValid := p.stopValid, stopOthers := p.stopOthers, stopCause := p.stopCause, fixedW := p.fixedW, fixedBad := p.fixedBad }
    sec := { k.sec with mImage := zeros 64, mPtab := zeros 64, mTether := zeros 64, att := [], pdebug := 0, ddebug := false, deviceId := deriveId k }
    frameSlot := 0, accepted := 0, merged := 0, unselected := 0, lastFrame := none }

/-- Everything outside the keel at the beginning of a start. -/
def emptyFab (f : Fab) : Fab := { Fab.reset with free := f.free, nextId := f.nextId, sent := f.sent }

/-- A start begins (18 R501): with FAILS at 3, or in BLANK or RETIRED, it moors (R502); else the NVM is read. -/
def beginStart (k : Keel) (f : Fab) : Keel × Fab :=
  let k := clearForStart (applyPending k)
  let f := emptyFab f
  if k.boot.fails ≥ 3 then (moor { k with start := Start.none }, f)
  else if !keyed k then failStart k f 0x04 0xFF k.fuse.lifecycle
  else (sendOut k [.nvmReset], f)

/-! ### What has ended -/

def memsOn (k : Keel) : Bool := (List.range k.sails).all fun s => domainOn k (memDom s)
def unparked (k : Keel) : List Nat := (List.range (3 * k.sails)).filter fun d => !bitAt (powerCfg k).parked d
def allOn (k : Keel) : Bool :=
  memsOn k && ((unparked k).all fun d => domainOn k (levelDom d)) && (!k.fuse.variant.ports || (domainOn k 2 && domainOn k 3))

def trainedOrFailed (f : Fab) (ch : Nat) : Bool := (chanOf f ch).trained || (chanOf f ch).failed
def lpdEnded (k : Keel) (f : Fab) : Bool := k.lpddrDone && (setBits 32 k.chan.toNat).all (trainedOrFailed f)
def partsEnded (k : Keel) : Bool := (configured k).all fun p => k.boot.ready.getLsbD p || k.boot.failed.getLsbD p

/-- The lowest step of 18 R501 that has not ended; the link's training, which runs beside steps 5 to 8, comes last. -/
def openStep (k : Keel) (f : Fab) : Nat :=
  if !k.start.imageDone then 2
  else if !k.start.probeDone then 4
  else if !railsUp k || !memsOn k || !k.start.bridgesDone then 5
  else if !lpdEnded k f then 6
  else if !allOn k then 7
  else if !partsEnded k then 8
  else 4

/-- Step 9: every step has ended. -/
def checkDone (k : Keel) (f : Fab) : Keel :=
  let s := k.start
  if s.running && s.imageDone && s.probeDone && s.linkDone && s.bridgesDone && lpdEnded k f && allOn k && partsEnded k then
    let k := modBoot { k with start := Start.none } fun b => { b with code := 0, sectionIx := 0xFF, detail := 0, device := true, fails := 0 }
    ibi (modPower k fun p => { p with state := 1 }) 0x01
  else k

/-- A partition fails with a cause of 18 R499; the others go on. -/
def failPart (k : Keel) (p code detail : Nat) : Keel :=
  if k.boot.ready.getLsbD p || k.boot.failed.getLsbD p then k
  else ibi (modBoot k fun b => { b with failed := bset b.failed p true, partCause := tput b.partCause p (code, detail) }) 0x01

/-! ### Steps 2 and 3 -/

/-- An image is bound (18 R500); PROBE is sent (15 R433). -/
def bindSlot (k : Keel) (f : Fab) (slot : Nat) : Keel × Fab :=
  let img := bindImage k slot (imageBytes k slot)
  let nonce := (List.range 4).flatMap fun i => bytesLE 8 (Config.freeWord (f.free + i)).toNat
  let k := modBoot k fun b => { b with
    slot := slot, slotValid := true, fallback := k.start.firstFail.isSome, altCode := k.start.firstFail.getD 0, seq := img.seq, svn := img.svn
    imageOk := true }
  let k := modSec { k with image := some img } fun s => { s with mImage := img.mImage, mPtab := img.mPtab, probeNonce := nonce }
  let k := modStart { k with frameSlot := lastStart (schedSlots k) } fun s => { s with imageDone := true, probedAt := k.time }
  (ibi (sendOut k [.probe nonce]) 0x01, spend f 4)

/-- NVM_IMAGE_READ (18 R490): the next slot in order has been read and checked. -/
def runImageRead (k : Keel) (f : Fab) (slot : Nat) : Keel × Fab :=
  if !k.start.running || k.start.imageDone then (k, f)
  else if !k.nvm.answers then failStart k f 0x05 0xFF 0
  else match (slotOrder k).filter fun s => !k.start.tried.contains s with
    | [] => failStart k f 0x01 0xFF 0
    | s :: rest =>
      if slot ≠ s then (k, f)
      else match slotBad k s with
        | none => bindSlot k f s
        | some b =>
          let k := modBoot k fun x => { x with slot := s, slotValid := decide (b.code ≥ 0x10) }
          if rest.isEmpty then failStart k f b.code b.sectionIx b.detail
          else (sendOut (modStart k fun x => { x with tried := x.tried ++ [s], firstFail := some b.code }) [.nvmReset], f)

/-! ### Step 4 -/

/-- The answer of 19 R512: the record's form and its signature over the nonce and the record. -/
def probeOk (k : Keel) (record sig : List Byte) : Bool :=
  record.length == 128 && sig.length == 64 && numAt record 0 4 == 1 && (record.drop 104).all (· == 0) &&
  Crypto.ed25519Verify (slice record 8 32) (k.sec.probeNonce ++ record) sig

def probing (k : Keel) : Bool := k.start.running && k.start.imageDone && !k.start.probeDone

/-- PROBE_ANSWER: the kind is the one that the package's site has (01 R29); an answer that does not verify is none. -/
def runProbeAnswer (k : Keel) (record sig : List Byte) : Keel :=
  if !probing k || !probeOk k record sig then k
  else
    let k := modSec { k with tetherDone := true, tetherKind := if k.fuse.variant = .kx7240O then 2 else 1 } fun s => { s with mTether := Crypto.sha512 record }
    tendRails (modStart k fun s => { s with probeDone := true })

/-- A partition that needs the tether die (18 R499 code 0x84). -/
def needsTether (k : Keel) (p : Nat) : Bool := (partRec k p).any fun r => r.tetherBytes != 0 || r.adminKind == 3

/-- PROBE_TIMEOUT, 50 ms after PROBE: no tether die; the mainband is never trained. -/
def runProbeTimeout (k : Keel) : Keel :=
  if !probing k || decide (k.time < k.start.probedAt + 50 * msec) then k
  else
    let k := modStart { k with tetherDone := true, tetherKind := 0 } fun s => { s with probeDone := true, linkDone := true }
    tendRails (((configured k).filter (needsTether k)).foldl (fun k p => failPart k p 0x84 0) k)

def attUp (up : BitVec 8) (att : Nat) : Bool := decide (popcount 4 (fld up.toNat (4 * att) 4) ≥ 2)

/-- LINK_TRAINING_COMPLETE (15 R436): at the start, or after a loss. -/
def runLinkTrained (k : Keel) (f : Fab) (up repaired : BitVec 8) : Keel × Fab :=
  let first := k.start.running && k.start.probeDone && !k.start.linkDone
  if !domainOn k 1 || k.power.stopping || !(first || f.link.state == 3) then (k, f)
  else if first && !attUp up 0 then failStart k f 0x23 0xFF 0
  else if first && !attUp up 1 then failStart k f 0x23 0xFF 1
  else if !attUp up 0 || !attUp up 1 then (k, f)
  else
    let f := onLink f fun l => { l with state := 1, lossCause := 0, modUp := up, modRepaired := repaired &&& up, quiescing := false, quiesced := false }
    let k := ibi (modStart k fun s => { s with linkDone := true }) 0x01
    let f := settle k (linkIsUp k f)
    (checkDone k f, f)

/-! ### Steps 5 to 7 -/

/-- Whether a domain may report on (17 R466, R467; 18 R501). -/
def mayTurnOn (k : Keel) (d : Nat) : Bool :=
  k.start.running && k.start.imageDone && k.start.probeDone && k.coolantOk && !k.power.stopping && !domainOn k d &&
  if d = 1 then k.tetherKind != 0 && k.railReq.getLsbD 7 && k.pg.getLsbD 7
  else if d = 2 then k.fuse.variant.ports && railsUp k && domainOn k (memDom 2)
  else if d = 3 then k.fuse.variant.ports && railsUp k && domainOn k (memDom 3)
  else if 4 ≤ d ∧ d < 4 + 4 * k.sails then
    let s := (d - 4) / 4
    if (d - 4) % 4 = 3 then railsUp k
    else railsUp k && domainOn k (memDom s) && !bitAt (powerCfg k).parked (3 * s + (d - 4) % 4)
  else false

/-- The tables that the image loads on a die (09 R270). -/
def loadTables (k : Keel) (f : Fab) (die : Nat) : Fab :=
  ((k.image.map (·.sft)).getD []).foldl (fun f c => match c.image with
    | some b => onEng f fun e => { e with sft := tput e.sft (sftKey die c.table) { SftTable.none with bank0 := b, loaded := true, promise0 := seamCheck b } }
    | none => f) f

/-- DOMAIN_ON. -/
def runDomainOn (k : Keel) (f : Fab) (d : Nat) : Keel × Fab :=
  if !mayTurnOn k d then (k, f)
  else
    let k := modPower k fun p => { p with on := bset p.on d true }
    let s := (d - 4) / 4
    let x := (d - 4) % 4
    let (k, f) :=
      if d = 1 then (k, f)
      else if d < 4 then
        (ibi (modBoot k fun b => { b with portDie := bset b.portDie (d - 2) true }) 0x01,
         (List.range 3).foldl (fun f n => modPort f (3 * (d - 2) + n) fun _ => { Port.fresh with state := 1 }) f)
      else if x = 3 then (ibi (modBoot k fun b => { b with mem := bset b.mem s true }) 0x01, loadTables k f s)
      else
        let k := modPower k fun p => { p with levels := tput p.levels (3 * s + x) { Level.reset with level := 4 } }
        (ibi (modBoot k fun b => { b with compute := bset b.compute (3 * s + x) true }) 0x01, f)
    (checkDone k f, f)

/-- The bridged pairs, in the order of BRIDGE_PAIR (01 R29). -/
def bridgePairs : List (Nat × Nat) := [(0, 1), (1, 3), (3, 2), (2, 0)]
def bridgeThere (k : Keel) (i : Nat) : Bool := ((bridgePairs)[i]?).any fun p => decide (p.1 < k.sails ∧ p.2 < k.sails)

/-- BRIDGE_TEST_COMPLETE (01 R26). DESIGN CHOICE (log 55): of several pairs that fail, DETAIL names the lowest. -/
def runBridges (k : Keel) (f : Fab) (failed : BitVec 4) : Keel × Fab :=
  if !k.start.running || !memsOn k || k.start.bridgesDone then (k, f)
  else match (setBits 4 failed.toNat).filter (bridgeThere k) with
    | i :: _ => failStart k f 0x20 0xFF i
    | [] =>
      let k := modStart k fun s => { s with bridgesDone := true }
      (checkDone k f, f)

/-- CAP as 256 MiB units (10 LPD_CH_STATUS). -/
def capUnits : Nat → Nat
  | 1 => 24 | 2 => 32 | 3 => 48 | 4 => 64 | 5 => 96 | _ => 0

/-- Channels that break 10 R291 or refuse the rate. -/
def populationBad (as : List ChannelAnswer) : List Nat :=
  let there := (as.zipIdx).filter (·.1.answers)
  let first := (there.head?).map (·.1)
  (as.zipIdx).filterMap fun a =>
    let pack := (as.zipIdx).filter fun b => b.2 / 4 == a.2 / 4
    let bad := if a.1.answers then
        capUnits a.1.cap == 0 || !(a.1.ranks == 1 || a.1.ranks == 2) || !a.1.rateOk || first.any fun x => x.cap != a.1.cap || x.ranks != a.1.ranks
      else pack.any (·.1.answers)
    if bad then some a.2 else none

/-- Channels whose reservations exceed the capacity found (10 R298). -/
def overCapacity (k : Keel) (as : List ChannelAnswer) : List Nat :=
  let ps := (k.image.map (·.parts)).getD []
  (as.zipIdx).filterMap fun a =>
    if a.1.answers ∧ sumParts ps (fun r => if bitAt r.lpdMask a.2 then r.lpdUnits else 0) > capUnits a.1.cap then some a.2 else none

/-- The channels that answered, as CHAN shows them (01 R29). -/
def chanWord (as : List ChannelAnswer) : Word32 :=
  (as.zipIdx).foldl (fun w a => if a.1.answers then bset w a.2 true else w) 0

/-- LPDDR_PROBE_COMPLETE (01 R31, R32, 10 R291, R298). Only channels of present sail dies answer; every channel has been decided,
whether or not the start then fails. DESIGN CHOICE (log 55): of several missing channels of a partition, DETAIL names the lowest. -/
def runLpddrProbe (k : Keel) (f : Fab) (as : List ChannelAnswer) : Keel × Fab :=
  if !k.start.running || !memsOn k || k.lpddrDone then (k, f)
  else
    let as := as.take (8 * k.sails)
    let chan := chanWord as
    let k := { k with lpddrDone := true, chan := chan }
    match overCapacity k as, populationBad as with
    | ch :: _, _ => failStart k f 0x14 ((k.image.map (·.partIx)).getD 0xFF) ch
    | [], ch :: _ => failStart k f 0x22 0xFF ch
    | [], [] =>
      let f := (as.zipIdx).foldl (fun f a => if a.1.answers then modChan f a.2 fun c => { c with cap := a.1.cap, ranks := a.1.ranks } else f) f
      let miss := fun p => ((partRec k p).map fun r => (setBits 32 r.lpdMask).filter fun c => !chan.getLsbD c).getD []
      let k := (configured k).foldl (fun k p => match miss p with
        | c :: _ => failPart k p 0x82 c
        | [] => k) k
      (checkDone k f, f)

/-- LPDDR_TRAINING_COMPLETE (10 R292). -/
def runLpddrTrained (k : Keel) (f : Fab) (ch : Nat) (ok : Bool) : Keel × Fab :=
  if !k.start.running || !k.lpddrDone || !k.chan.getLsbD ch || trainedOrFailed f ch then (k, f)
  else
    let rate := (k.image.map (·.lpdRate)).getD 0
    let f := modChan f ch fun c => if ok then { c with trained := true, rate := rate } else { c with failed := true }
    let k := if ok then k else (partsOnChan k ch).foldl (fun k p => failPart k p 0x81 ch) k
    (checkDone k f, f)

/-! ### Step 8 -/

/-- What a partition's scrub needs: its channels are trained, the compute domains of its local memory are on, the tether die is
there where it needs one. -/
def scrubbed (k : Keel) (f : Fab) (p : Nat) : Bool :=
  memsOn k && k.start.bridgesDone && k.start.probeDone &&
  ((setBits 32 (((partRec k p).map (·.lpdMask)).getD 0)).all fun c => k.lpddrDone && (chanOf f c).trained) &&
  ((unparked k).all fun d => domainOn k (levelDom d) || !((List.range 64).any fun c => localUnitsOf k (64 * d + c) p != 0)) &&
  !(needsTether k p && k.tetherKind == 0)

/-- The admin slot, context and queue of a partition (18 R501 step 8): the area is readable and writable and not cached, the queue
ring lies at offset 0, the event ring at 32 KiB. -/
def createAdmin (k : Keel) (f : Fab) (p : Nat) (r : PartRec) : Fab :=
  let ring := BitVec.ofNat 64 (r.adminSlot * 2 ^ 48)
  let events := BitVec.ofNat 64 (r.adminSlot * 2 ^ 48 + 32768)
  let o : MemObj := { part := p, kind := r.adminKind, base := r.adminOff, len := 65536, c := false, a := false, x := false, w := true, r := true,
                      kdata := 0, owner := r.adminCtx, ref := { newRef with dev := 2 } }
  let c := { newCtx p r.adminVcount true false events 512 [] with holds := [(.memory, r.adminSlot), (.queue, r.adminQueue)] }
  let q := { newQueue k r.adminCtx p 4 true r.adminPrio 0 ring 256 with die := 0 }
  onTab f fun t => { t with
    objs := tput t.objs r.adminSlot o, ctxs := tput t.ctxs r.adminCtx c, queues := tput t.queues r.adminQueue q }

/-- Whether every channel on which a partition holds a reservation is one of another's. -/
def channelsOf (k : Keel) (q p : Nat) : Bool :=
  match partRec k q, partRec k p with
  | some a, some b => (a.nmUnits == 0 || b.nmUnits != 0) && (setBits 32 a.lpdMask).all fun c => a.lpdUnits == 0 || (bitAt b.lpdMask c && b.lpdUnits != 0)
  | _, _ => false

/-- On each channel the reservations are scrubbed in ascending partition order (10 R302): an earlier partition waits for nothing else and all its
channels are this one's, so that its scrub ends first. -/
def scrubsFirst (k : Keel) (f : Fab) (q p : Nat) : Bool :=
  decide (q < p) && !k.boot.ready.getLsbD q && !k.boot.failed.getLsbD q && scrubbed k f q && channelsOf k q p &&
  !((List.range (192 * k.sails)).any fun c => localUnitsOf k c q != 0)

/-- PARTITION_SCRUB_COMPLETE. -/
def runScrubbed (k : Keel) (f : Fab) (p : Nat) : Keel × Fab :=
  match partRec k p with
  | none => (k, f)
  | some r =>
    if !k.start.running || k.boot.ready.getLsbD p || k.boot.failed.getLsbD p || !scrubbed k f p || (configured k).any (scrubsFirst k f · p) then (k, f)
    else
      let k := ibi (modBoot k fun b => { b with ready := bset b.ready p true }) 0x01
      let f := settle k (beginPrograms k (createAdmin k f p r) p)
      (checkDone k f, f)

/-! ### Failure, retry, RESET_N -/

/-- START_TIMEOUT, 2 s after the start began. -/
def runStartTimeout (k : Keel) (f : Fab) : Keel × Fab :=
  if k.start.running && decide (k.start.began + 2000 * msec ≤ k.time) then failStart k f 0x26 0xFF (openStep k f) else (k, f)

/-- START_RETRY_TIMER, 100 ms after a start failed. -/
def runRetry (k : Keel) (f : Fab) : Keel × Fab :=
  if (k.start.retryAt.any fun t => decide (t + 100 * msec ≤ k.time)) && k.resetN && !k.start.running then beginStart k f else (k, f)

/-- RESET_N_RISE: a start begins, or moored mode is entered again without reading the NVM (18 R504). -/
def runResetRise (k : Keel) (f : Fab) : Keel × Fab :=
  if !k.on || k.resetN then (k, f)
  else
    let (k, f) := if k.power.stopping then finishStop k f else (k, f)
    let k := sendOut { k with resetN := true, resetFall := none } [.nvmRst true]
    if k.boot.moored then (moor k, f) else beginStart k f

/-- RESET_N_FALL: with any domain on, steps 1, 3 and 4 of a stop run without a cause; a running start ends with 0x25. -/
def runResetFall (k : Keel) (f : Fab) : Keel × Fab :=
  if !k.on || !k.resetN then (k, f)
  else
    let step := openStep k f
    let was := k.start.running
    let fall : ResetFall := { time := k.time, running := was && !k.power.stopping }
    let k' := modStart (dropSessions { k with resetN := false, resetFall := some fall }) fun s => { s with retryAt := none }
    let k' := sendOut k' [.nvmRst false]
    if k'.power.stopping then (k', f)
    else
      let k' := if was then closeStart k' 0x25 0xFF step else k'
      let k' := unready (if was && decide (k'.boot.fails ≥ 3) then moor k' else k')
      if k'.power.on = 1 then tellReady k f (railsOff k', f)
      else
        let k' := modPower k' fun p => { p with
          state := if p.state = 3 then 3 else 0, stopping := true, retention := 0
          levels := p.levels.map fun l => (l.1, { l.2 with level := 0, cut := false }) }
        tellReady k f (k', haltFab f)

/-! ### Registers -/

/-- KEEL_BOOT_CAUSE. -/
def bootCause (k : Keel) : Nat :=
  let b := k.boot
  b.fails * 2 ^ 56 + bit b.moored 55 + b.slot * 2 ^ 54 + bit b.slotValid 53 + bit b.fallback 52 + b.code * 2 ^ 40 + b.sectionIx * 2 ^ 32 +
    b.detail % 65536 * 2 ^ 16 + b.altCode * 2 ^ 8

/-- KEEL_READY. -/
def readyReg (k : Keel) (f : Fab) : Nat :=
  let b := k.boot
  bit b.device 31 + bit b.imageOk 30 + bit (f.link.state == 1) 29 + b.portDie.toNat * 2 ^ 26 + b.mem.toNat * 2 ^ 20 + b.compute.toNat * 2 ^ 8

/-- KEEL_PART_CAUSE; an autonomous program's failure is its own record (18 R497, R499). -/
def partCauseReg (k : Keel) (f : Fab) (p : Nat) : Nat :=
  match tfind k.boot.partCause p, (tfind f.tab.progs p).bind (·.failed) with
  | some c, _ => c.1 * 2 ^ 24 + c.2 % 65536
  | none, some e => 0x83 * 2 ^ 24 + e.1 % 16 * 2 ^ 12 + e.2 % 4096
  | none, none => 0

/-- KEEL_CAP_PRESENT. -/
def capPresent (k : Keel) : Nat :=
  let pairs := ((List.range 4).filter (bridgeThere k)).map fun i => 2 ^ (24 + i)
  bit k.lpddrDone 31 + bit k.tetherDone 30 + pairs.sum + (if k.fuse.variant.ports then 3 * 2 ^ 18 + 0x3F * 2 ^ 8 else 0) + k.tetherKind * 2 ^ 16 +
    (2 ^ k.sails - 1)

/-- The boot, capability, readiness and link registers below 0x1000: width in bytes and value. -/
def bootReg (k : Keel) (f : Fab) (a : Nat) : Option (Nat × Nat) :=
  let l := f.link
  if a = 0 then some (8, bootCause k)
  else if a = 8 then some (8, k.boot.seq)
  else if a = 0x10 then some (4, k.boot.svn * 256 + k.fuse.minSvn)
  else if a = 0x100 then some (4, capPresent k)
  else if a = 0x104 then some (4, k.chan.toNat)
  else if a = 0x200 then some (4, readyReg k f)
  else if a = 0x208 then some (4, k.boot.failed.toNat * 2 ^ 16 + k.boot.ready.toNat)
  else if 0x210 ≤ a ∧ a < 0x250 ∧ a % 4 = 0 then some (4, partCauseReg k f ((a - 0x210) / 4))
  else if a = 0x400 then some (4, l.state * 2 ^ 30 + l.lossCause * 2 ^ 28 + l.modUp.toNat * 2 ^ 8 + l.modRepaired.toNat)
  else if a = 0x408 then some (8, sat 65535 l.retrains * 2 ^ 48 + sat 65535 l.downgrades * 2 ^ 32 + sat 65535 l.protoErr * 2 ^ 16 + sat 65535 l.timeouts)
  else if a = 0x410 then some (4, l.att * 2)
  else none

/-! ### The rows -/

/-- LPDDR_PROBE_COMPLETE (01 R31). -/
def execLpddrProbeComplete (answers : List ChannelAnswer) (s : State) : Out := onBoth s fun k f => runLpddrProbe k f answers
/-- LPDDR_TRAINING_COMPLETE (10 R292). -/
def execLpddrTrainingComplete (ch : Nat) (ok : Bool) (s : State) : Out := onBoth s fun k f => runLpddrTrained k f ch ok
/-- PROBE_ANSWER (19 R512). -/
def execProbeAnswer (record sig : List Byte) (s : State) : Out := onBoth s fun k f =>
  let k := runProbeAnswer k record sig
  (checkDone k f, f)
/-- PROBE_TIMEOUT (15 R433). -/
def execProbeTimeout (s : State) : Out := onBoth s fun k f =>
  let k := runProbeTimeout k
  (checkDone k f, f)
/-- LINK_TRAINING_COMPLETE (15 R436). -/
def execLinkTrainingComplete (up repaired : BitVec 8) (s : State) : Out := onBoth s fun k f => runLinkTrained k f up repaired
/-- RESET_N_RISE (18 R501). -/
def execResetNRise (s : State) : Out := onBoth s fun k f => runResetRise k f
/-- RESET_N_FALL (20 R534). -/
def execResetNFall (s : State) : Out := onBoth s fun k f => runResetFall k f
/-- NVM_IMAGE_READ (18 R490). -/
def execNvmImageRead (slot : Nat) (s : State) : Out := onBoth s fun k f => runImageRead k f slot
/-- BRIDGE_TEST_COMPLETE (01 R26). -/
def execBridgeTestComplete (failed : BitVec 4) (s : State) : Out := onBoth s fun k f => runBridges k f failed
/-- DOMAIN_ON (17 R466). -/
def execDomainOn (d : Nat) (s : State) : Out := onBoth s fun k f => runDomainOn k f d
/-- PARTITION_SCRUB_COMPLETE (18 R501). -/
def execPartitionScrubComplete (part : Nat) (s : State) : Out := onBoth s fun k f => runScrubbed k f part
/-- START_RETRY_TIMER (18 R502). -/
def execStartRetryTimer (s : State) : Out := onBoth s fun k f => runRetry k f
/-- START_TIMEOUT (18 R498). -/
def execStartTimeout (s : State) : Out := onBoth s fun k f => runStartTimeout k f

end Sys2Proof.Machine
end

