-- ==== Sys2Proof/Machine/Control.lean ====
section
/-!
DEFINITION. Control.lean: the control space (00 R12 to R15): which register lies at an address, what a read returns and what a write
does, with the registers that no other file holds: the sync-counter debug window (12 R368), the park registers (03 R82, R83), the
LPDDR6 windows (10) and the registers of the tether link (15).
-/
namespace Sys2Proof.Machine

/-! ### The sync-counter debug window (12 R368, R369) -/

/-- Whether the window shows the selected counter to a request, and the counter if it is allocated. -/
def syncShown (k : Keel) (f : Fab) (m : Mark) : Option (Option Counter) :=
  let c := tfind f.tab.ctrs f.syncSel.2
  if m.i3c then none
  else if m.act = 3 ∧ k.sec.device then some c
  else if debugsFor k m f.syncSel.1 && c.any (·.owner == f.syncSel.1) then some c
  else none

def syncInfo (c : Counter) : Nat :=
  2 ^ 62 + bit c.paired 61 + bit (c.paired && c.consumer) 60 + c.owner * 2 ^ 56 + c.errCount * 2 ^ 48 +
    (if c.paired then c.bound * 2 ^ 32 + c.partner * 2 ^ 16 else 0)

def syncLast (l : LastOp) : Nat := l.ctx * 2 ^ 54 + l.kind * 2 ^ 50 + (if l.kind ≤ 5 then l.unit else 0) * 2 ^ 40 + l.sub * 2 ^ 38 + l.slot * 2 ^ 34 + l.source

def syncWaiter (f : Fab) (c : Counter) : Nat :=
  match (if f.syncWsel.1 = 1 then c.owait else c.cwait)[f.syncWsel.2]? with
  | none => 0
  | some w => 2 ^ 63 + bit w.isQueue 62 + w.ctx * 2 ^ 50 + w.wslot * 2 ^ 32 + w.n

/-- The registers of the window, by offset: width in bytes and value. -/
def syncReg (k : Keel) (f : Fab) (m : Mark) (off : Nat) : Option (Nat × Nat) :=
  let shown := syncShown k f m
  let view := fun (g : Counter → Nat) => some (8, ((shown.bind id).map g).getD 0)
  match off with
  | 0x00 => some (4, f.syncSel.1 * 2 ^ 16 + f.syncSel.2)
  | 0x08 => view fun c => c.err * 2 ^ 32 + c.value
  | 0x10 => some (8, bit shown.isSome 63 + ((shown.bind id).map syncInfo).getD 0)
  | 0x18 => view fun c => syncLast c.last
  | 0x20 => view fun c => c.owait.length * 2 ^ 32 + c.cwait.length
  | 0x28 => some (4, f.syncWsel.1 * 2 ^ 18 + f.syncWsel.2)
  | 0x30 => view (syncWaiter f)
  | _ => none

/-! ### The park registers (03 R82, R83) -/

/-- SAIL_PARK_INFO. DESIGN CHOICE (log 56): with CORE 192 to 255 STATE reads BAD_SEL to every request, whatever its mark, for no
group slot is selected that R82 could hide. -/
def parkInfo (k : Keel) (f : Fab) (m : Mark) (die : Nat) : Nat :=
  if (dieRegs f die).parkCore ≥ 192 then 4
  else match parkGroup k f m die with
    | none => 0
    | some (_, g) =>
      let st := match g.park with | .running => 1 | .parking => 2 | .parked => 3
      (if g.park == .parked then g.faultLanes.toNat * 2 ^ 32 else 0) + g.parkCount * 2 ^ 24 + g.part * 2 ^ 20 + g.ctx * 2 ^ 8 + bit g.cmdErr 7 + st

/-- The state of a table entry as word 2 shows it. -/
def entryCode : PathState → Nat
  | .running | .ready => 1
  | .arrived => 3
  | _ => 2

/-- Whether SAIL_PARK_REG_IDX names a register of the group. -/
def parkRegOk (g : Group) (d : DieRegs) : Bool :=
  match d.parkClass with
  | 0 => decide (d.parkIndex < g.nregs)
  | 1 => decide (d.parkIndex < 64)
  | 2 => decide (d.parkIndex < 8)
  | _ => decide (d.parkIndex < 32) && decide (d.parkLane < 3)

/-- A word of a convergence-table entry: next address, join address, lane mask and state. -/
def entryWord (g : Group) (i w : Nat) : Nat :=
  match tfind g.paths i with
  | none => 0
  | some p => match w with
    | 0 => p.pc.toNat
    | 1 => (p.joins.headD 0).toNat
    | _ => entryCode p.st * 2 ^ 32 + p.mask.toNat

/-- SAIL_PARK_REG_DATA of a group. -/
def parkData (g : Group) (d : DieRegs) : Nat :=
  if !parkRegOk g d then 0
  else match d.parkClass with
    | 0 => (vget g d.parkIndex d.parkLane).toNat
    | 1 => (uget g d.parkIndex).toNat
    | 2 => (pword g d.parkIndex).toNat
    | _ => entryWord g d.parkIndex d.parkLane

/-- The park registers of a die, by offset from 0x3000. -/
def parkReg (k : Keel) (f : Fab) (m : Mark) (die off : Nat) : Option (Nat × Nat) :=
  let d := dieRegs f die
  let view := fun (g : Group → Nat) => ((parkGroup k f m die).map fun x => g x.2).getD 0
  match off with
  | 0x00 => some (4, d.parkSlot * 2 ^ 10 + d.parkSub * 2 ^ 8 + d.parkCore)
  | 0x08 => some (8, parkInfo k f m die)
  | 0x10 => some (4, view fun g => if g.park == .parked then g.faultCode else 0)
  | 0x18 => some (8, view fun g => g.faultPc.toNat)
  | 0x20 => some (8, view fun g => g.faultAddr.toNat)
  | 0x28 => some (4, view fun _ => d.parkClass * 2 ^ 14 + d.parkIndex * 2 ^ 5 + d.parkLane)
  | 0x30 => some (8, view fun g => parkData g d)
  | 0x38 => some (4, 0)
  | _ => none

/-- A write of SAIL_PARK_INFO: CMD_ERR is W1C. -/
def writeParkInfo (k : Keel) (f : Fab) (m : Mark) (die v : Nat) : Fab :=
  match parkGroup k f m die with
  | none => f
  | some (gid, _) => if bitAt v 7 then modGroup f gid fun g => { g with cmdErr := false } else f

/-- A write of SAIL_PARK_PC. -/
def writeParkPc (k : Keel) (f : Fab) (m : Mark) (die v : Nat) : Fab :=
  match parkGroup k f m die with
  | none => f
  | some (gid, g) => if g.park != .parked then setCmdErr f gid else modGroup f gid fun g => { g with faultPc := BitVec.ofNat 64 v }

/-- A write of SAIL_PARK_REG_IDX. -/
def writeParkIdx (k : Keel) (f : Fab) (m : Mark) (die v : Nat) : Fab :=
  match parkGroup k f m die with
  | none => f
  | some _ => modDie f die fun d => { d with parkClass := fld v 14 2, parkIndex := fld v 5 9, parkLane := fld v 0 5 }

/-- A write of SAIL_PARK_REG_DATA. -/
def writeParkData (k : Keel) (f : Fab) (m : Mark) (die v : Nat) : Fab :=
  let d := dieRegs f die
  match parkGroup k f m die with
  | none => f
  | some (gid, g) =>
    let w := BitVec.ofNat 32 v
    if g.park != .parked || d.parkClass == 3 || !parkRegOk g d then setCmdErr f gid
    else modGroup f gid fun g => match d.parkClass with
      | 0 => vput g d.parkIndex d.parkLane w
      | 1 => uput g d.parkIndex w
      | _ => pputWord g d.parkIndex w

/-! ### The registers of a sail die -/

def ifFor (k : Keel) (m : Mark) (p v : Nat) : Nat := if actsFor k m p then v else 0

/-- The matrix registers of a die, by offset from 0x4000. -/
def mxReg (k : Keel) (f : Fab) (die off : Nat) : Option (Nat × Nat) :=
  let n := (dieRegs f die).mxSel
  match off with
  | 0x00 => some (4, n)
  | 0x04 => some (4, if n < 192 ∧ coreOn k (192 * die + n) then 2 ^ 31 + (tgetD k.fuse.spares (192 * die + n) 0).toNat else 0)
  | 0x10 => some (4, (powerCfg k).gapLen * 2 ^ 16 + (powerCfg k).fraction)
  | _ => none

/-- The cache and error registers of a die, by offset from 0x7000. -/
def l2Reg (k : Keel) (f : Fab) (m : Mark) (die off : Nat) : Option (Nat × Nat) :=
  let d := dieRegs f die
  let e := memErrOf f die d.memerrPart
  match off with
  | 0x00 => some (8, ifFor k m (mcmdPart d) d.maddr.toNat)
  | 0x08 => some (8, ifFor k m (mcmdPart d) d.mlen.toNat)
  | 0x10 => some (4, ifFor k m (mcmdPart d) d.mcmd.toNat)
  | 0x18 => some (4, ifFor k m (mcmdPart d) (mstatus d))
  | 0x20 => some (4, ifFor k m d.lockPart (lockReg f die))
  | 0x30 => some (4, ifFor k m d.memerrPart (d.memerrPart * 2 ^ 16))
  | 0x38 => some (8, ifFor k m d.memerrPart (memerrCnt e))
  | 0x40 => some (8, ifFor k m d.memerrPart (memerrAddr e))
  | _ => none

/-- The registers of a die's window, by offset. -/
def sailReg (k : Keel) (f : Fab) (m : Mark) (die off : Nat) : Option (Nat × Nat) :=
  let d := dieRegs f die
  match off / 4096 with
  | 2 => match off % 4096 with
    | 0x00 => some (4, d.beatClass * 2 ^ 24 + d.beatIndex)
    | 0x04 => some (4, beatStatus d)
    | 0x08 => some (8, d.beatElapsed)
    | 0x10 => some (8, d.beatWork)
    | _ => none
  | 3 => parkReg k f m die (off % 4096)
  | 4 => mxReg k f die (off % 4096)
  | 5 => match off % 4096 with
    | 0x00 => some (4, ifFor k m d.nfPart (d.nfClass * 2 ^ 24 + d.nfPart * 2 ^ 16 + d.nfIndex))
    | 0x08 => some (4, nflagSet k f m die)
    | 0x10 => some (4, nflagScan k f m die)
    | 0x18 => some (4, 0)
    | _ => none
  | 6 => match off % 4096 with
    | 0x00 => some (4, ifFor k m d.sftPart (d.sftPart * 2 ^ 16 + d.sftTable))
    | 0x08 => some (8, ifFor k m d.sftPart d.sftSrc.toNat)
    | 0x10 => some (4, 0)
    | 0x18 => some (4, sftStatus k f m die)
    | _ => none
  | 7 => l2Reg k f m die (off % 4096)
  | 8 => match off % 4096 with
    | 0x00 => some (4, ifFor k m d.rolePart d.rolePart)
    | 0x08 =>
      let r := tgetD f.roleDrops (die * 16 + d.rolePart) (0, 0)
      some (8, ifFor k m d.rolePart (r.1 * 2 ^ 60 + r.2))
    | _ => none
  | _ => none

/-- A write of a 32-bit register of a die. -/
def writeSail32 (k : Keel) (f : Fab) (m : Mark) (die off v : Nat) : Fab :=
  match off with
  | 0x2000 => writeBeatSel f die v
  | 0x3000 => modDie f die fun d => { d with parkSlot := fld v 10 4, parkSub := fld v 8 2, parkCore := fld v 0 8 }
  | 0x3028 => writeParkIdx k f m die v
  | 0x3038 => parkCmd k f m die (fld v 0 2)
  | 0x4000 => modDie f die fun d => { d with mxSel := fld v 0 8 }
  | 0x5000 => writeNflagSel k f m die v
  | 0x5008 => writeNflagSet k f m die v
  | 0x5010 => writeNflagScan k f m die v
  | 0x5018 => writeNflagClr k f m die v
  | 0x6000 => writeSftSel k f m die v
  | 0x6010 => writeSftCmd k f m die v
  | 0x6018 => writeSftStatus k f m die v
  | 0x7010 => writeMcmd k f m die v
  | 0x7018 => if bitAt v 30 && actsFor k m (mcmdPart (dieRegs f die)) then modDie f die fun d => { d with moverrun := false } else f
  | 0x7020 => writeLock k f m die v
  | 0x7030 => writeMemerrSel k f m die v
  | 0x8000 => if actsFor k m (fld v 0 4) then modDie f die fun d => { d with rolePart := fld v 0 4 } else f
  | _ => f

/-- A 64-bit register with the written halves in place. -/
def merged (old : Nat) (lo hi : Option Nat) : Nat := lo.getD (old % 2 ^ 32) + 2 ^ 32 * hi.getD (old / 2 ^ 32)

/-- A write of one or both halves of a 64-bit register of a die. -/
def writeSail64 (k : Keel) (f : Fab) (m : Mark) (die off : Nat) (lo hi : Option Nat) : Fab :=
  let d := dieRegs f die
  let ones := lo.getD 0 + 2 ^ 32 * hi.getD 0
  match off with
  | 0x3008 => writeParkInfo k f m die ones
  | 0x3018 => match parkGroup k f m die with
    | none => f
    | some (_, g) => writeParkPc k f m die (merged g.faultPc.toNat lo hi)
  | 0x3030 => match lo with
    | none => f
    | some v => writeParkData k f m die v
  | 0x6008 => writeSftSrc k f m die (BitVec.ofNat 64 (merged d.sftSrc.toNat lo hi))
  | 0x7000 => if actsFor k m (mcmdPart d) then modDie f die fun d => { d with maddr := BitVec.ofNat 64 (merged d.maddr.toNat lo hi) } else f
  | 0x7008 => if actsFor k m (mcmdPart d) then modDie f die fun d => { d with mlen := BitVec.ofNat 64 (merged d.mlen.toNat lo hi) } else f
  | 0x7040 =>
    if bitAt ones 63 && actsFor k m d.memerrPart then countErr f die d.memerrPart fun e => { e with valid := false } else f
  | 0x8008 =>
    if actsFor k m d.rolePart then
      { f with roleDrops := tmod f.roleDrops (die * 16 + d.rolePart) fun r => (r.1, ((BitVec.ofNat 32 r.2) &&& ~~~(BitVec.ofNat 32 ones)).toNat) }
    else f
  | _ => f

/-! ### The registers of the keel -/

/-- The registers of the keel region: width in bytes and value. -/
def keelReg (k : Keel) (f : Fab) (m : Mark) (a : Nat) : Option (Nat × Nat) :=
  if a < 0x1000 then bootReg k f a
  else if a < 0x3000 then pwrReg k a
  else if a < 0x4000 then secReg k m a
  else if a < 0x5000 ∧ a % 8 = 0 then some (8, numAt (certBytes k) (a - 0x4000) 8)
  else none

/-- A retrain of an attachment begins (15 R438). -/
def retrainAtt (k : Keel) (f : Fab) (att : Nat) : Keel × Fab :=
  if linkUp f && decide (att < 2) && !f.link.retraining.contains att then
    (if f.link.state = 1 then ibi k 0x01 else k,
     onLink f fun l => { l with state := 2, retraining := l.retraining ++ [att], retrains := sat 65535 (l.retrains + 1) })
  else (k, f)

/-- A write of KEEL_TL_CTRL, with ACT 0 or 3. -/
def writeTlCtrl (k : Keel) (f : Fab) (m : Mark) (v : Nat) : Keel × Fab :=
  if !systemMark m then (k, f)
  else
    let f := onLink f fun l => { l with att := fld v 1 1 }
    if bitAt v 0 then retrainAtt k f (fld v 1 1) else (k, f)

/-- A write of a 32-bit register of the keel. -/
def writeKeel32 (k : Keel) (f : Fab) (m : Mark) (a v : Nat) : Keel × Fab :=
  if a = 0x410 then writeTlCtrl k f m v
  else if 0x2000 ≤ a ∧ a < 0x3000 then (writePwr k f m a v, f)
  else if a = 0x3020 then (modSec k fun s => { s with measDigest := fld v 4 2, measWord := fld v 0 3 }, f)
  else if a = 0x3300 then writeDbgCtrl k f m v
  else if a = 0x3420 then (writeAttCtrl k m v, f)
  else (k, f)

/-- A write of one or both halves of a 64-bit register of the keel. -/
def writeKeel64 (k : Keel) (m : Mark) (a : Nat) (lo hi : Option Nat) : Keel :=
  if 0x3200 ≤ a ∧ a < 0x32C0 then
    let i := (a - 0x3200) / 8
    modSec k fun s => { s with resp := tput s.resp i (BitVec.ofNat 64 (merged (tgetD s.resp i 0).toNat lo hi)) }
  else if 0x3400 ≤ a ∧ a < 0x3420 then
    match bankOf k m with
    | none => k
    | some p => writeAttNonce k m ((a - 0x3400) / 8) (merged (numAt (attBank k p).nonce (a - 0x3400) 8) lo hi)
  else k

/-! ### The map of the control space (00 R11, R12) -/

/-- What an address belongs to. -/
inductive Region where
  | keel (off : Nat)
  | sched (off : Nat)
  | sync (off : Nat)
  | bell (page off : Nat)
  | sail (die off : Nat)
  | portDie (n off : Nat)
  | lpddr (ch off : Nat)
  | nothing
  deriving DecidableEq, Repr

def regionOf (a : Nat) : Region :=
  if a < 0x10_0000 then .keel a
  else if a < 0x20_0000 then .sched (a - 0x10_0000)
  else if a < 0x30_0000 then .sync (a - 0x20_0000)
  else if 0x40_0000 ≤ a ∧ a < 0x50_0000 then .bell ((a - 0x40_0000) / 65536) (a % 65536)
  else if 0x100_0000 ≤ a ∧ a < 0x500_0000 then .sail (a / 0x100_0000 - 1) (a % 0x100_0000)
  else if 0x800_0000 ≤ a ∧ a < 0xA00_0000 then .portDie (a / 0x100_0000 - 8) (a % 0x100_0000)
  else if 0x1000_0000 ≤ a ∧ a < 0x1020_0000 then .lpddr ((a - 0x1000_0000) / 65536) (a % 65536)
  else .nothing

/-- The attachment that must carry a request (15 R422); none where either may. -/
def attOf (a : Nat) : Option Nat :=
  match regionOf a with
  | .keel _ => some 0
  | .sail die _ => some (die % 2)
  | .portDie n _ => some n
  | .lpddr ch _ => some (ch / 8 % 2)
  | _ => none

/-- Whether a channel's window answers (01 R33): the channel is fabricated and, once probing has ended, populated. -/
def lpddrThere (k : Keel) (ch : Nat) : Bool := decide (ch < 8 * k.sails) && (!k.lpddrDone || k.chan.getLsbD ch)

/-- LPD_CH_STATUS and LPD_CH_ERR. -/
def lpddrReg (k : Keel) (f : Fab) (ch off : Nat) : Option (Nat × Nat) :=
  let c := chanOf f ch
  if !lpddrThere k ch then none
  else if off = 0 then some (4, bit (k.chan.getLsbD ch) 31 + bit c.trained 30 + bit c.failed 29 + bit c.retraining 28 + c.ranks * 2 ^ 24 +
    c.cap * 2 ^ 20 + (if c.trained then c.rate else 0) * 2 ^ 17 + bit c.derated 16)
  else if off = 8 then some (8, c.linkCe * 2 ^ 32 + c.linkUe * 2 ^ 16 + c.poisoned * 2 ^ 8 + c.retrains)
  else none

/-- PART_DB_Q and PART_DB_STATUS. -/
def bellReg (k : Keel) (f : Fab) (m : Mark) (page off : Nat) : Option (Nat × Nat) :=
  if off < 0x8000 ∧ off % 8 = 0 then some (4, 0)
  else if off = 0x8000 then some (4, ifFor k m page (tgetD f.tab.foreign page 0 * 2 ^ 16 + tgetD f.tab.stale page 0))
  else none

/-- The register at an address: its width in bytes and its value to a request. -/
def regAt (k : Keel) (f : Fab) (m : Mark) (a : Nat) : Option (Nat × Nat) :=
  match regionOf a with
  | .keel off => keelReg k f m off
  | .sched off => (schedReg k f off).map fun v => (if off = 8 then 8 else 4, v)
  | .sync off => syncReg k f m off
  | .bell page off => bellReg k f m page off
  | .sail die off => if die < k.sails then sailReg k f m die off else none
  | .portDie n off =>
    if !k.fuse.variant.ports then none
    else if off < 0x3_0000 then (portReg f (3 * n + off / 65536) (off % 65536)).map fun v => (if off % 65536 = 8 then 8 else 4, v)
    else if 0x8_0000 ≤ off then (routeReg k f n (off - 0x8_0000)).map fun v => (if off % 32 = 0x10 ∨ off % 32 = 0x18 then 8 else 4, v)
    else none
  | .lpddr ch off => lpddrReg k f ch off
  | .nothing => none

/-- What 01 R33 and 00 R12 have an address return where no register lies. -/
def absent : Nat := 0xAB5EAB5E

/-- One 32-bit word of the control space; a half of a 64-bit register is read like any word. -/
def readWord (k : Keel) (f : Fab) (m : Mark) (a : Nat) : Nat :=
  match regAt k f m a with
  | some (_, v) => v % 2 ^ 32
  | none =>
    if a % 8 = 4 then match regAt k f m (a - 4) with
      | some (8, v) => v / 2 ^ 32 % 2 ^ 32
      | _ => absent
    else absent

/-- A read of 4 or 8 bytes. -/
def csRead (k : Keel) (f : Fab) (m : Mark) (a size : Nat) : Nat :=
  if size = 8 then readWord k f m a + 2 ^ 32 * readWord k f m (a + 4) else readWord k f m a

/-- A write of a 32-bit register. -/
def write32 (k : Keel) (f : Fab) (m : Mark) (a v : Nat) : Keel × Fab :=
  match regionOf a with
  | .keel off => writeKeel32 k f m off v
  | .sched off => (k, if off = 0x800 ∧ bitAt v 0 then frameFrom f .doorbell else f)
  | .sync off =>
    (k, if off = 0 then { f with syncSel := (fld v 16 4, fld v 0 14) }
        else if off = 0x28 then { f with syncWsel := (fld v 18 1, fld v 0 18) } else f)
  | .bell page off => (k, if off < 0x8000 ∧ off % 8 = 0 then doorbell k f m page (off / 8) v else f)
  | .sail die off => (k, if die < k.sails then writeSail32 k f m die off v else f)
  | .portDie n off =>
    (k, if !k.fuse.variant.ports then f
        else if off < 0x3_0000 ∧ off % 65536 = 0x10 then writePortCtrl k f m (3 * n + off / 65536) v
        else if off = 0x8_0008 then writeRouteSel f n v
        else if off = 0x8_0020 then writeRouteCtrl k f m n v
        else f)
  | _ => (k, f)

/-- A write of a 64-bit register. -/
def write64 (k : Keel) (f : Fab) (m : Mark) (a : Nat) (lo hi : Option Nat) : Keel × Fab :=
  match regionOf a with
  | .keel off => (writeKeel64 k m off lo hi, f)
  | .sail die off => (k, if die < k.sails then writeSail64 k f m die off lo hi else f)
  | _ => (k, f)

/-- A write of one aligned word. -/
def writeWord (k : Keel) (f : Fab) (m : Mark) (a v : Nat) : Keel × Fab :=
  match regAt k f m a with
  | some (8, _) => write64 k f m a (some v) none
  | some _ => write32 k f m a v
  | none =>
    if a % 8 = 4 then match regAt k f m (a - 4) with
      | some (8, _) => write64 k f m (a - 4) none (some v)
      | _ => (k, f)
    else (k, f)

/-- Whether an access has a size and an alignment of 00 R15. -/
def csAligned (a size : Nat) : Bool := (size == 4 || size == 8) && a % size == 0

/-- A write of 4 or 8 bytes, aligned. -/
def csWrite (k : Keel) (f : Fab) (m : Mark) (a size : Nat) (v : Nat) : Keel × Fab :=
  let r :=
    if size = 8 then match regAt k f m a with
      | some (8, _) => write64 k f m a (some (v % 2 ^ 32)) (some (v / 2 ^ 32))
      | _ =>
        let x := writeWord k f m a (v % 2 ^ 32)
        writeWord x.1 x.2 m (a + 4) (v / 2 ^ 32)
    else writeWord k f m a (v % 2 ^ 32)
  (r.1, settle r.1 r.2)

/-! ### The rows -/

/-- REGISTER_WRITE (00 R13): a write of 4 or 8 bytes; over I3C it reaches the keel region only. -/
def execRegisterWrite (mark : Mark) (addr size : Nat) (v : Word64) (s : State) : Out :=
  regBoth s mark fun k f =>
    if csAligned addr size && !(mark.i3c && decide (addr ≥ 0x10_0000)) then csWrite k f mark (addr % 2 ^ 32) size v.toNat else (k, f)
/-- RETRAIN (15 R438): a write of KEEL_TL_CTRL with RETRAIN 1. -/
def execLinkRetrain (mark : Mark) (v : Word32) (s : State) : Out :=
  regBoth s mark fun k f => if v.getLsbD 0 then writeTlCtrl k f mark v.toNat else (k, f)

end Sys2Proof.Machine
end

