-- ==== Sys2Proof/Machine/Tether.lean ====
section
/-!
DEFINITION. Tether.lean: what arrives over the tether link (15): the form of flits and their tags (R423 to R425), control-space and DMA
accesses in their order (R426, R427), the tether die's coherent requests (R424, 11 R318 to R325), responses, quiescing, retraining
and the loss of the link (R435 to R439).
-/
namespace Sys2Proof.Machine

/-! ### The form of a flit (15 R423 to R425) -/

def downTypes : List Nat := [0x01, 0x02, 0x03, 0x04, 0x05, 0x06, 0x10, 0x11, 0x12, 0x13, 0x18, 0x20, 0x21]

/-- LEN as 15 R424 gives it for the type. -/
def lenOk (fl : Flit) : Bool :=
  match fl.ty with
  | 0x04 => decide (1 ≤ fl.len ∧ fl.len ≤ 8)
  | 0x05 => fl.len == 1
  | 0x06 => fl.len == (if fld fl.sub 0 5 = 0x11 then 1 else 0)
  | 0x12 => fl.len == 4
  | 0x18 => fl.len == 0 || fl.len == 4
  | 0x20 => decide (1 ≤ fl.len ∧ fl.len ≤ 4)
  | _ => fl.len == 0

def isResponse (ty : Nat) : Bool := ty == 0x18 || ty == 0x20 || ty == 0x21

/-- TYPE, LEN and the bits that must be zero: reserved ones, and in a request STATUS and CODE. -/
def flitOk (fl : Flit) : Bool :=
  downTypes.contains fl.ty && lenOk fl && fl.data.length == 32 * fl.len && fld fl.w0.toNat 0 18 == 0 && fld fl.w3.toNat 8 24 == 0 &&
  (isResponse fl.ty || (fl.status == 0 && fl.code == 0))

def protoErr (f : Fab) : Fab := onLink f fun l => { l with protoErr := sat 65535 (l.protoErr + 1) }

/-- A request's tag is in use, or 2,048 requests of the attachment are outstanding. -/
def tagBad (f : Fab) (att : Nat) (fl : Flit) : Bool :=
  f.link.downTags.contains (att, fl.tag) || decide ((f.link.downTags.filter (·.1 == att)).length ≥ 2048)

def takeTag (f : Fab) (att : Nat) (fl : Flit) : Fab := onLink f fun l => { l with downTags := l.downTags ++ [(att, fl.tag)] }

/-- The acting mark of a flit. -/
def markOf (fl : Flit) : Mark := { act := fl.act, part := fl.part, i3c := false }

/-! ### Control-space accesses (15 R422, R426) -/

/-- A control-space access is performed and answered. -/
def performCs (k : Keel) (f : Fab) (att : Nat) (fl : Flit) : Keel × Fab :=
  let a := fl.w1.toNat % 2 ^ 32
  let size := if fl.sub = 2 then 4 else if fl.sub = 3 then 8 else 0
  let f := noteMark k f (markOf fl)
  if !csAligned a size || (attOf a).any (· != att) then (k, respond f att fl 0x81 1 0 0 0 [])
  else if fl.ty = 0x01 then
    let v := csRead k f (markOf fl) a size
    (k, respond (spend f 1) att fl 0x81 0 (BitVec.ofNat 64 v) 0 0 [])
  else
    let r := csWrite k f (markOf fl) a size (fl.w2.toNat % 2 ^ (8 * size))
    (r.1, respond r.2 att fl 0x81 0 0 0 0 [])

/-- The tags of DMA writes and atomics of an attachment that are not performed. -/
def dmaWrites (f : Fab) (att : Nat) : List Nat :=
  (f.link.dma.filter fun e => e.1 / 4096 == att && e.2.f.ty != 0x03).map fun e => e.1 % 4096

/-- The first waiting access of an attachment is performed, once the DMA writes before it are. -/
def tendCsOf (st : Keel × Fab) (att : Nat) : Keel × Fab :=
  let f := onLink st.2 fun l => { l with csWait := l.csWait.map fun w =>
    if w.1 = att then (w.1, w.2.1.filter (dmaWrites st.2 att).contains, w.2.2) else w }
  match f.link.csWait.find? (·.1 == att) with
  | some (a, [], fl) => performCs st.1 (onLink f fun l => { l with csWait := l.csWait.erase (a, [], fl) }) att fl
  | _ => (st.1, f)

/-- Every waiting access whose turn has come is performed, in arrival order on each attachment. -/
def tendCs (k : Keel) (f : Fab) : Keel × Fab :=
  f.link.csWait.foldl (fun st w => tendCsOf st w.1) (k, f)

/-- A CS_RD or CS_WR arrives: behind the accesses and the DMA writes of its attachment. -/
def runCs (k : Keel) (f : Fab) (att : Nat) (fl : Flit) : Keel × Fab :=
  let f := takeTag f att fl
  tendCs k (onLink f fun l => { l with csWait := l.csWait ++ [(att, dmaWrites f att, fl)] })

/-! ### DMA (15 R424, R427, 19 R515) -/

/-- What a mark lets a DMA or coherent access do: nothing, an access under 05 R130, or one with step 4 of it skipped. -/
inductive Reach where
  | none
  | checked
  | debug
  deriving DecidableEq, Repr

def reachOf (k : Keel) (fl : Flit) : Reach :=
  match fl.act with
  | 1 => .checked
  | 2 => if k.sec.psess.getLsbD fl.part then .debug else .checked
  | 3 => if k.sec.device then .debug else .none
  | _ => .none

/-- The object check of an access of the tether die; an address of the local-memory kind reaches no local memory (05 R544). -/
def tetherCheck (k : Keel) (f : Fab) (fl : Flit) (u : Use) (align size : Nat) : Except Nat Loc :=
  match findObj f fl.part (slotOf fl.w1) with
  | .error e => .error e
  | .ok o =>
    let o := if reachOf k fl = .debug then { o with r := true, w := true, a := true } else o
    checkIn f o none u (offOf fl.w1) align size

/-- A DMA access that its mark and its operands allow, or its answer. In retention near memory and LPDDR6 are not reached
(17 R487). -/
def dmaAccess (k : Keel) (f : Fab) (att : Nat) (fl : Flit) (ty : Nat) (okOps : Bool) (u : Use) (align size : Nat) (run : Fab → Loc → Fab) : Fab :=
  let f := noteMark k (takeTag f att fl) (markOf fl)
  if reachOf k fl = .none || !okOps then refuseReq f att fl ty 1 0
  else match tetherCheck k f fl u align size with
    | .error c => refuseReq f att fl ty 2 c
    | .ok loc => if k.power.retention ≠ 0 ∧ loc.kind ≤ 1 then refuseReq f att fl ty 1 0 else run f loc

def openDma (f : Fab) (att : Nat) (fl : Flit) (n : Nat) : Fab :=
  onLink f fun l => { l with dma := tput l.dma (att * 4096 + fl.tag) { f := fl, left := n, fault := 0 } }

/-- DMA_RD. -/
def runDmaRd (k : Keel) (f : Fab) (att : Nat) (fl : Flit) : Fab :=
  dmaAccess k f att fl 0x83 (decide (1 ≤ fl.sub ∧ fl.sub ≤ 8)) .load 32 (32 * fl.sub) fun f loc =>
    startRead k (openDma f att fl 1) (.dma att fl.tag) (partsOf loc (32 * fl.sub)) att

/-- The writes of a DMA_WR or DMA_WRP; a hint that names nothing present is ignored. -/
def dmaWriteOut (k : Keel) (f : Fab) (att : Nat) (fl : Flit) (loc : Loc) (bs : List (Option Byte)) : Fab :=
  let there := (fl.hint == 1 && decide (fl.target < 48 * k.sails)) || (fl.hint == 2 && corePresent k fl.target)
  let ws := writesOf (.dma att fl.tag) (if there then fl.hint else 0) fl.target loc bs
  ws.foldl (fun f w => agentWrite k f w att) (openDma f att fl ws.length)

/-- DMA_WR. -/
def runDmaWr (k : Keel) (f : Fab) (att : Nat) (fl : Flit) : Fab :=
  dmaAccess k f att fl 0x84 (fl.hint != 3) .store 32 (32 * fl.len) fun f loc => dmaWriteOut k f att fl loc (fl.data.map some)

/-- DMA_WRP. -/
def runDmaWrp (k : Keel) (f : Fab) (att : Nat) (fl : Flit) : Fab :=
  dmaAccess k f att fl 0x84 (fl.hint != 3) .store 32 32 fun f loc =>
    dmaWriteOut k f att fl loc (fl.data.mapIdx fun i b => if fl.w2.getLsbD i then some b else none)

/-- DMA_ATOM. -/
def runDmaAtom (k : Keel) (f : Fab) (att : Nat) (fl : Flit) : Fab :=
  let op := fld fl.sub 0 5
  let size := if bitAt fl.sub 7 then 8 else 4
  dmaAccess k f att fl 0x83 (fld fl.sub 5 2 == 0 && decide (0x08 ≤ op ∧ op ≤ 0x11)) .both size size fun f loc =>
    let a := if op = 0x11 then BitVec.ofNat 64 (numAt fl.data 0 8) else fl.w2
    startAtomic k (openDma f att fl 1) att
      { loc := loc, op := op, size := size, a := a.zeroExtend 128, b := BitVec.ofNat 128 (numAt fl.data 8 8), who := none, sink := .dma att fl.tag } false

/-! ### Coherent requests (15 R424, 11 R321) -/

/-- The line that a coherent request names, and its checks: a line that no agent may cache is refused with "object permission". -/
def coCheck (k : Keel) (f : Fab) (fl : Flit) (u : Use) : Except Nat Line :=
  match tetherCheck k f fl u 128 128 with
  | .error c => .error c
  | .ok loc => if cached k loc then .ok (lineOf loc) else .error 0x0203

def openCo (f : Fab) (att : Nat) (fl : Flit) (l : Line) : Fab := onLink f fun k => { k with coPend := k.coPend ++ [(l, att, fl)] }

/-- The line that the tether die gives back, by the address that it asked for it with. -/
def heldLine (f : Fab) (fl : Flit) : Option Line := (f.link.coAddr.find? fun e => e.2 == fl.w1 && e.1.part == fl.part).map (·.1)

/-- The type that answers a coherent request which is refused: CO_DATA, but CO_CMP for a CO_OWN of a line that the tether die holds in S. -/
def coType (f : Fab) (fl : Flit) (own : Bool) : Nat :=
  if own && (heldLine f fl).any fun l => (findDir f.mem l).any (·.present.getLsbD 4) then 0x91 else 0x90

/-- CO_RDS and CO_OWN: the line is asked of its home for agent 4. -/
def runCoAsk (k : Keel) (f : Fab) (att : Nat) (fl : Flit) (own : Bool) : Fab :=
  let f := noteMark k (takeTag f att fl) (markOf fl)
  if reachOf k fl = .none || k.power.retention != 0 then refuseReq f att fl (coType f fl own) 1 0
  else match coCheck k f fl (if own then .store else .load) with
    | .error c => refuseReq f att fl (coType f fl own) 2 c
    | .ok l =>
      let f := onLink (openCo f att fl l) fun x => { x with coAddr := x.coAddr.filter (·.1 != l) ++ [(l, fl.w1)] }
      send f (.home l (if own then .own 4 true else .read 4))

/-- CO_WB: the dirty sectors are on their way to the home, and the copy with them; a line that the tether die does not own keeps its
contents. -/
def runCoWb (k : Keel) (f : Fab) (att : Nat) (fl : Flit) : Fab :=
  let f := noteMark k (takeTag f att fl) (markOf fl)
  match heldLine f fl with
  | none => respond f att fl 0x91 0 0 0 0 []
  | some l =>
    if (findDir f.mem l).any (·.owner == some 4) then
      let d : LineData := { bytes := fl.data, valid := 0xF, dirty := fl.w2.truncate 4, poison := 0 }
      send (openCo f att fl l) (.wb l 4 (homeOf k l).slice d)
    else respond f att fl 0x91 0 0 0 0 []

/-- CO_EVICT. -/
def runCoEvict (k : Keel) (f : Fab) (att : Nat) (fl : Flit) : Fab :=
  let f := noteMark k (takeTag f att fl) (markOf fl)
  match heldLine f fl with
  | none => respond f att fl 0x91 0 0 0 0 []
  | some l => send (openCo f att fl l) (.evict l 4)

/-! ### Responses (15 R424) -/

/-- A response completes the upstream request that its tag names, if it is of the kind that answers it. -/
def takeUp (f : Fab) (att : Nat) (fl : Flit) (mine : UpWhat → Bool) : Option (Fab × UpWhat) :=
  match tfind f.link.upReq (att * 4096 + fl.tag) with
  | some w => if mine w.what then some (onLink f fun l => { l with upReq := tdel l.upReq (att * 4096 + fl.tag) }, w.what) else none
  | none => none

/-- The place that a read of kind 3, or of a line that the tether die owns, was made for. -/
def upLoc (f : Fab) : UpWhat → Option (Loc × Nat)
  | .job j p => ((tfind f.jobs j).bind fun x => x.parts[p]?).map fun x => (x.loc, x.len)
  | .piece l p => ((tfind f.cores.loads l).bind fun x => x.pieces[p]?).map fun x => (x.loc, x.size)
  | _ => none

/-- Whether a request is a snoop: of an agent's copy, or a read-once of a device line. -/
def isSnoop (f : Fab) (w : UpWhat) : Bool :=
  match w with
  | .snoopInv _ | .snoopFwd _ _ => true
  | .job _ _ => (upLoc f w).any fun x => decide (x.1.kind ≤ 1)
  | _ => false

/-- The fault that a response reports; an access error counts as "object permission". -/
def respFault (fl : Flit) : Nat := if fl.status = 0 then 0 else if fl.status = 2 ∧ fl.code ≠ 0 then fl.code else 0x0203

/-- MEM_RDATA: the data units begin at the 32-byte unit that holds the first byte asked for. -/
def runMemRdata (k : Keel) (f : Fab) (att : Nat) (fl : Flit) : Fab :=
  let mine := fun w => !isSnoop f w && match w with | .job _ _ | .piece _ _ | .merge _ _ | .atomic _ => true | _ => false
  match takeUp f att fl mine with
  | none => f
  | some (f, w) =>
    let data := match upLoc f w with
      | some (loc, n) => slice fl.data (loc.off % 32) n
      | none => match w with
        | .atomic (.load l p) => fl.data.take (((upLoc f (.piece l p)).map (·.2)).getD 8)
        | .atomic (.dma a t) => fl.data.take (if (tfind f.link.dma (a * 4096 + t)).any fun d => bitAt d.f.sub 7 then 8 else 4)
        | .atomic (.glinen _ req) => fl.data.take (if req.a64 then 8 else 4)
        | _ => fl.data
    pumpUp (endUp k f w data (respFault fl))

/-- MEM_WCMP. -/
def runMemWcmp (k : Keel) (f : Fab) (att : Nat) (fl : Flit) : Fab :=
  match takeUp f att fl fun w => match w with | .write _ | .merged _ => true | _ => false with
  | none => f
  | some (f, w) => pumpUp (endUp k f w [] (respFault fl))

/-- A read for a requester goes on from memory: the tether die has no copy of the line. -/
def fromMemory (f : Fab) (l : Line) (requester : Nat) : Fab :=
  let f := modDir f l fun e => { e with owner := none, txn := e.txn.map fun t => { t with fwd := false, mem := true } }
  askMemory f l (.fill requester .S)

/-- A read-once of a line goes on from memory, which closes its transaction. -/
def onceFromMemory (f : Fab) (j p : Nat) (loc : Loc) (n : Nat) : Fab :=
  send (modDir f (lineOf loc) fun e => { e with txn := e.txn.map fun t => { t with fwd := false, mem := true } }) (.memRead loc n (.job j p))

/-- SNP_RSP: an invalidated copy gives its dirty sectors, a forwarded line goes to its requester and the home is told, a line read
once serves its read. The owner keeps a dirty line in O and a clean one in S (11 R321). -/
def runSnpRsp (_k : Keel) (f : Fab) (att : Nat) (fl : Flit) : Fab :=
  match takeUp f att fl (isSnoop f) with
  | none => f
  | some (f, w) =>
    let mask : BitVec 4 := fl.w2.truncate 4
    let has := fl.len == 4
    let d : LineData := { bytes := fl.data, valid := 0xF, dirty := mask, poison := 0 }
    let f := match w with
      | .snoopInv l => send f (.invAck l 4 (if has then some d else none))
      | .snoopFwd l requester =>
        if !has then fromMemory f l requester
        else
          let f := grant f (tetherEntry requester) requester l .S { d with dirty := 0 }
          let f := modDir f l fun e => { e with
            owner := if mask = 0 then none else e.owner, present := if fl.sub = 0 then e.present &&& ~~~(bit5 4) else e.present }
          send f (.fwdNotify l 4)
      | .job j p => match upLoc f w with
        | none => f
        | some (loc, n) => if has then servePart (closeTxn f (lineOf loc)) j p d else onceFromMemory f j p loc n
      | _ => f
    pumpUp f

/-! ### Losing the link (15 R439) -/

/-- The directory removes the tether die's copies. A line that it held in M or O is a fatal dirty-line loss of its partition (10 R312),
recorded on its home die; a write-back that has arrived still has its effect. -/
def dropTethered (k : Keel) (f : Fab) : Fab :=
  let f := f.net.foldl (fun f m => match m.2 with
    | .wb l 4 _ d => freeEntryIf (forget (homeWrite f l d) 4 l) l
    | _ => f) f
  let f := { f with net := f.net.filter fun m => match m.2 with
    | .wb _ 4 _ _ | .evict _ 4 | .home _ (.read 4) | .home _ (.own 4 _) => false
    | _ => true }
  (f.mem.dir.filter fun e => e.present.getLsbD 4 || e.owner == some 4).foldl (fun f e =>
    let f := freeEntryIf (forget f 4 e.line) e.line
    if e.owner = some 4 then recordLoss f (homeOf k e.line).die e.line else f) f

/-- A transaction that the tether die asked for ends with no requester; its line is held by none of its copies. -/
def endTetherTxns (f : Fab) : Fab :=
  (f.mem.dir.filter fun e => e.txn.any fun t => t.req == .read 4 || t.req == .own 4 true || t.req == .own 4 false).foldl (fun f e =>
    let f := { f with net := f.net.filter fun m => match m.2 with
      | .fwd l _ 4 => l != e.line
      | .memRead loc _ (.fill 4 _) => lineOf loc != e.line
      | _ => true }
    if e.txn.any fun t => !t.acks.isEmpty then modDir f e.line fun x => { x with txn := x.txn.map fun t => { t with req := .evict } }
    else freeEntryIf (closeTxn f e.line) e.line) f

/-- An upstream request that no response will answer. -/
def failUp (k : Keel) (f : Fab) (w : UpWhat) : Fab :=
  match w with
  | .snoopInv l => send f (.invAck l 4 none)
  | .snoopFwd l requester => fromMemory f l requester
  | .job j p => match upLoc f w with
    | some (loc, n) => if loc.kind ≤ 1 then onceFromMemory f j p loc n else endUp k f w [] 0x0501
    | none => f
  | _ => endUp k f w [] 0x0501

/-- Accesses of the tether die that are on their way are discarded with their requests; one that its home has begun goes on for nobody. -/
def dropDma (f : Fab) : Fab :=
  let ours := fun (s : AckSink) => match s with | .dma _ _ => true | _ => false
  let oursA := fun (s : AtomicSink) => match s with | .dma _ _ => true | _ => false
  let f := { f with net := f.net.filter fun m => match m.2 with
    | .home _ (.write w) | .uncWrite w => !ours w.sink
    | .home _ (.atomic a) | .home _ (.far a) | .farAt a => !oursA a.sink
    | _ => true }
  onMem f fun m => { m with dir := m.dir.map fun e => { e with txn := e.txn.map fun t => match t.req with
    | .write w => if ours w.sink then { t with req := .write { w with sink := .none } } else t
    | _ => t } }

/-- The link is lost, on both attachments at once. -/
def loseLink (k : Keel) (f : Fab) (cause : Nat) : Keel × Fab :=
  let ws := (f.link.upReq.map (·.2.what)) ++ (f.link.upWait.map (·.2.2))
  let k := if f.link.state = 1 then ibi k 0x01 else k
  let f := onLink f fun l => { l with
    state := 3, lossCause := cause, modUp := 0, retraining := [], downTags := [], csWait := [], dma := [], upReq := [], upWait := []
    outWait := [], coPend := [], notes := [], quiescing := false, quiesced := false }
  let f := loseRecords (ws.foldl (failUp k) (endTetherTxns (dropTethered k (dropDma f))))
  (k, settle k (onLink f fun l => { l with coAddr := [] }))

/-- TETHER_RESPONSE_TIMEOUT: a device request has had no response for 1 ms of keel time; the timer does not run in a retrain. -/
def runTimeout (k : Keel) (f : Fab) : Keel × Fab :=
  if f.link.state = 1 && f.link.upReq.any fun r => decide (r.2.sent + 1000 * usec ≤ f.link.upTime) then
    loseLink k (onLink f fun l => { l with timeouts := sat 65535 (l.timeouts + 1) }) 2
  else (k, f)

/-- Modules leave the link: it is lost where an attachment falls below two of them, and after QUIESCE_DONE. -/
def dropModules (k : Keel) (f : Fab) (mask : BitVec 8) : Keel × Fab :=
  let up := f.link.modUp &&& ~~~mask
  let f' := onLink f fun l => { l with modUp := up, modRepaired := l.modRepaired &&& up }
  if f.link.quiesced && up != f.link.modUp then loseLink k f' 3
  else if !attUp up 0 || !attUp up 1 then loseLink k f' 1
  else (k, f')

/-- MODULES_DOWN. -/
def runModulesDown (k : Keel) (f : Fab) (mask : BitVec 8) : Keel × Fab := if linkUp f then dropModules k f mask else (k, f)

/-! ### Quiescing (15 R435) -/

/-- QUIESCE over the sideband. -/
def runQuiesce (f : Fab) : Fab := if linkUp f then onLink f fun l => { l with quiescing := true } else f

/-- No line is owned by the tether die, and no upstream request is outstanding. -/
def tetherIdle (f : Fab) : Bool :=
  !(f.mem.dir.any fun e => e.owner == some 4) && f.link.upReq.isEmpty && f.link.upWait.isEmpty &&
  !(f.net.any fun m => match m.2 with
    | .wb _ 4 _ _ => true
    | _ => false)

/-- QUIESCE_DONE. -/
def runQuiesceDone (k : Keel) (f : Fab) : Keel × Fab :=
  if f.link.quiescing && !f.link.quiesced && tetherIdle f then
    (sendOut k [.quiesceDone], onLink f fun l => { l with quiesced := true, lossCause := 3 })
  else (k, f)

/-! ### Retraining (15 R438) -/

/-- ADAPTER_RETRY_THRESHOLD: more than 64 retries of a module within 1 ms. -/
def runRetryThreshold (k : Keel) (f : Fab) (module : Nat) : Keel × Fab :=
  if module < 8 && f.link.modUp.getLsbD module then retrainAtt k f (module / 4) else (k, f)

/-- The responses of an attachment that waited are sent, in order. -/
def sendRsps (f : Fab) (att : Nat) : Fab :=
  let mine := f.link.outWait.filter (·.1 == att)
  let f := onLink f fun l => { l with outWait := l.outWait.filter (·.1 != att) }
  mine.foldl (fun f r => sendRsp f att r.2) f

/-- The notes of an attachment that waited are sent. -/
def sendNotes (f : Fab) (att : Nat) : Fab :=
  let mine := f.link.notes.filter (·.1 == att)
  let f := onLink f fun l => { l with notes := l.notes.filter (·.1 != att) }
  mine.foldl (fun f n => sendNote f n.1 n.2.1 n.2.2) f

/-- RETRAIN_COMPLETE: modules that failed drop out, and what waited goes on. -/
def runRetrainComplete (k : Keel) (f : Fab) (att : Nat) (failed repaired : BitVec 8) : Keel × Fab :=
  if !linkUp f || !f.link.retraining.contains att then (k, f)
  else
    let mine : BitVec 8 := if att = 0 then 0x0F else 0xF0
    let f := onLink f fun l => { l with retraining := l.retraining.erase att, modRepaired := (l.modRepaired &&& ~~~mine) ||| (repaired &&& mine) }
    let f := onLink f fun l => { l with state := if l.retraining.isEmpty then 1 else 2 }
    let k := if f.link.state = 1 then ibi k 0x01 else k
    let r := dropModules k f (failed &&& mine)
    if linkUp r.2 then (r.1, sendNotes (pumpUp (sendRsps r.2 att)) att) else r

/-! ### The rows -/

/-- A flit of one type arrives on an attachment. One of a broken form, with a tag in use or beyond the allowance is discarded and counted
(15 R425); while the link is quiescing no request but CO_WB and CO_EVICT is taken (R435). -/
def flitRow (s : State) (ty att : Nat) (fl : Flit) (run : Keel → Fab → Keel × Fab) : Out := onBoth s fun k f =>
  if !k.on || !linkUp f || decide (att ≥ 2) || f.link.retraining.contains att then (k, f)
  else
    let (k, f) := tendCs k f
    if fl.ty ≠ ty then (k, if downTypes.contains fl.ty then f else protoErr f)
    else if !flitOk fl then (k, protoErr f)
    else if isResponse ty then run k f
    else if f.link.quiescing && ty != 0x12 && ty != 0x13 then (k, f)
    else if tagBad f att fl then (k, protoErr f)
    else run k f

/-- A row whose flit acts on the fabric only. -/
def flitFab (s : State) (ty att : Nat) (fl : Flit) (run : Keel → Fab → Fab) : Out :=
  flitRow s ty att fl fun k f => tendCs k (settle k (run k f))

/-- CS_RD (15 R426). -/
def execCsRd (att : Nat) (fl : Flit) (s : State) : Out := flitRow s 0x01 att fl fun k f => runCs k f att fl
/-- CS_WR (15 R426). -/
def execCsWr (att : Nat) (fl : Flit) (s : State) : Out := flitRow s 0x02 att fl fun k f => runCs k f att fl
/-- DMA_RD (15 R427). -/
def execDmaRd (att : Nat) (fl : Flit) (s : State) : Out := flitFab s 0x03 att fl fun k f => runDmaRd k f att fl
/-- DMA_WR (15 R426). -/
def execDmaWr (att : Nat) (fl : Flit) (s : State) : Out := flitFab s 0x04 att fl fun k f => runDmaWr k f att fl
/-- DMA_WRP (15 R426). -/
def execDmaWrp (att : Nat) (fl : Flit) (s : State) : Out := flitFab s 0x05 att fl fun k f => runDmaWrp k f att fl
/-- DMA_ATOM (15 R424). -/
def execDmaAtom (att : Nat) (fl : Flit) (s : State) : Out := flitFab s 0x06 att fl fun k f => runDmaAtom k f att fl
/-- CO_RDS (15 R424). -/
def execCoRds (att : Nat) (fl : Flit) (s : State) : Out := flitFab s 0x10 att fl fun k f => runCoAsk k f att fl false
/-- CO_OWN (15 R424). -/
def execCoOwn (att : Nat) (fl : Flit) (s : State) : Out := flitFab s 0x11 att fl fun k f => runCoAsk k f att fl true
/-- CO_WB (15 R424). -/
def execCoWb (att : Nat) (fl : Flit) (s : State) : Out := flitFab s 0x12 att fl fun k f => runCoWb k f att fl
/-- CO_EVICT (15 R424). -/
def execCoEvict (att : Nat) (fl : Flit) (s : State) : Out := flitFab s 0x13 att fl fun k f => runCoEvict k f att fl
/-- SNP_RSP (15 R424). -/
def execSnpRsp (att : Nat) (fl : Flit) (s : State) : Out := flitFab s 0x18 att fl fun k f => runSnpRsp k f att fl
/-- MEM_RDATA (15 R424). -/
def execMemRdata (att : Nat) (fl : Flit) (s : State) : Out := flitFab s 0x20 att fl fun k f => runMemRdata k f att fl
/-- MEM_WCMP (15 R424). -/
def execMemWcmp (att : Nat) (fl : Flit) (s : State) : Out := flitFab s 0x21 att fl fun k f => runMemWcmp k f att fl
/-- TETHER_RESPONSE_TIMEOUT (15 R439). -/
def execTetherResponseTimeout (s : State) : Out := onBoth s fun k f => runTimeout k f
/-- QUIESCE (15 R435). -/
def execQuiesce (s : State) : Out := onFab s fun _ f => runQuiesce f
/-- QUIESCE_DONE (15 R435). -/
def execQuiesceDone (s : State) : Out := onBoth s fun k f => runQuiesceDone k f
/-- MODULES_DOWN (15 R439). -/
def execModulesDown (mask : BitVec 8) (s : State) : Out := onBoth s fun k f => runModulesDown k f mask
/-- ADAPTER_RETRY_THRESHOLD (15 R438). -/
def execAdapterRetryThreshold (module : Nat) (s : State) : Out := onBoth s fun k f => runRetryThreshold k f module
/-- SIDEBAND_RETRAIN_REQUEST (15 R438). -/
def execSidebandRetrainRequest (att : Nat) (s : State) : Out := onBoth s fun k f => retrainAtt k f att
/-- RETRAIN_COMPLETE (15 R438). -/
def execRetrainComplete (att : Nat) (failed repaired : BitVec 8) (s : State) : Out :=
  onBoth s fun k f => runRetrainComplete k f att failed repaired

end Sys2Proof.Machine
end

