-- ==== Sys2Proof/Machine/Mailbox.lean ====
section
/-!
DEFINITION. Mailbox.lean: the requests of the mailbox and of I3C private writes (15 R434, 18 R504, 19 R506, R507, R510, R517, R523),
and the I3C target (20 R537, 18 R503).
-/
namespace Sys2Proof.Machine

/-! ### Messages (15 R434, 18 R504) -/

/-- A message is 8 to 64 bytes, in multiples of 8. -/
def msgForm (msg : List Byte) : Bool := decide (8 ≤ msg.length ∧ msg.length ≤ 64) && msg.length % 8 == 0

/-- The answer to a request: its OP and ID, a STATUS, and a body from byte 8. -/
def answerBytes (msg : List Byte) (status : Nat) (body : List Byte) : List Byte :=
  let r := slice msg 0 2 ++ bytesLE 6 status ++ body
  r ++ zeros (ceilDiv r.length 8 * 8 - r.length)

/-- An answer leaves by the path that its request came by. -/
def sendAnswer (k : Keel) (i3c : Bool) (bytes : List Byte) : Keel :=
  if i3c then sendOut k [.i3c bytes] else mboxSend k (.mbox bytes)

/-- What a request does: the keel and the fabric after it, its STATUS and the body of its answer. -/
structure Answered where
  k : Keel
  f : Fab
  status : Nat
  body : List Byte
  deriving DecidableEq, Repr

def refuse (k : Keel) (f : Fab) (status : Nat) : Answered := { k := k, f := f, status := status, body := [] }
def done (k : Keel) (f : Fab) (body : List Byte) : Answered := { k := k, f := f, status := 0, body := body }

/-- A request that finds the keel reading the NVM for a start is answered busy. -/
def readingNvm (k : Keel) : Bool := k.start.running && !k.start.imageDone

/-! ### The NVM (18 R504) -/

/-- Slot, slot offset and the 8 bits above it. -/
def nvmSlot (msg : List Byte) : Nat := fld (numAt msg 8 8) 63 1
def nvmOff (msg : List Byte) : Nat := fld (numAt msg 8 8) 0 48

/-- The slot of the running image, or of the image of a start that runs. -/
def slotRuns (k : Keel) (slot : Nat) : Bool :=
  (k.start.running || k.power.state == 1 || k.power.state == 2) && k.image.any (·.slot == slot)

def modNvm (k : Keel) (g : Nvm → Nvm) : Keel := { k with nvm := g k.nvm }

/-- An erase or a write: what the slot admits is done, and its answer waits for the NVM. -/
def nvmChange (k : Keel) (f : Fab) (msg : List Byte) (i3c ok : Bool) (len : Nat) (g : Nvm → Nvm) : Keel × Fab :=
  let say := fun (status : Nat) => (sendAnswer k i3c (answerBytes msg status []), f)
  if readingNvm k || k.nvmReply.isSome then say 2
  else if !ok || decide (nvmOff msg + len > k.nvm.size / 2) then say 4
  else if !k.nvm.answers || slotRuns k (nvmSlot msg) then say 1
  else ({ modNvm k g with nvmReply := some (i3c, answerBytes msg 0 []) }, f)

/-- NVM_ERASE: the extent reads as erased. -/
def opErase (k : Keel) (f : Fab) (msg : List Byte) (i3c : Bool) : Keel × Fab :=
  let a := slotBase k.nvm (nvmSlot msg) + nvmOff msg
  let len := numAt msg 16 8
  nvmChange k f msg i3c (decide (msg.length ≥ 24) && nvmOff msg % 65536 == 0 && len % 65536 == 0) len fun n =>
    { n with cells := n.cells.filter fun c => !(decide (a ≤ c.1) && decide (c.1 < a + len)) }

/-- NVM_WRITE: programming a NOR byte clears bits of it (log 9). -/
def opWrite (k : Keel) (f : Fab) (msg : List Byte) (i3c : Bool) : Keel × Fab :=
  let a := slotBase k.nvm (nvmSlot msg) + nvmOff msg
  let data := msg.drop 16
  nvmChange k f msg i3c (decide (msg.length ≥ 24)) data.length fun n =>
    (data.zipIdx).foldl (fun n b => { n with cells := cwrite Nvm.erased n.cells (a + b.2) (nvmByte n (a + b.2) &&& b.1) }) n

/-- A request that is answered at once. -/
def atOnce (k : Keel) (f : Fab) (msg : List Byte) (i3c : Bool) (run : Keel → Fab → Answered) : Keel × Fab :=
  if readingNvm k then (sendAnswer k i3c (answerBytes msg 2 []), f)
  else
    let r := run k f
    (sendAnswer r.k i3c (answerBytes msg r.status r.body), r.f)

/-- NVM_READ: the data start at byte 16 of the answer. -/
def opRead (msg : List Byte) (k : Keel) (f : Fab) : Answered :=
  let len := fld (numAt msg 8 8) 48 8
  if k.nvmReply.isSome then refuse k f 2
  else if msg.length < 16 ∨ len = 0 ∨ len > 48 ∨ nvmOff msg + len > k.nvm.size / 2 then refuse k f 4
  else if !k.nvm.answers then refuse k f 1
  else done k f (zeros 8 ++ nvmBytes k.nvm (slotBase k.nvm (nvmSlot msg) + nvmOff msg) len)

/-- NVM_VERIFY: the code that 18 R498 would give the slot at a start. -/
def opVerify (msg : List Byte) (k : Keel) (f : Fab) : Answered :=
  let slot := numAt msg 8 1
  if k.nvmReply.isSome then refuse k f 2
  else if msg.length < 16 ∨ slot > 1 then refuse k f 4
  else
    let code := if !keyed k then 0x04 else if !k.nvm.answers then 0x05 else ((slotBad k slot).map (·.code)).getD 0
    done k f (bytesLE 8 code)

/-- GET_STATUS. -/
def opStatus (k : Keel) (f : Fab) : Answered := done k f (bytesLE 8 (bootCause k) ++ bytesLE 4 (readyReg k f))

/-- COMMIT_SVN. -/
def opCommit (k : Keel) (f : Fab) : Answered :=
  if k.boot.device then done { k with fuse := { k.fuse with minSvn := max k.fuse.minSvn k.boot.svn } } f [] else refuse k f 1

/-- RESTART: in moored mode FAILS is set to 2 and a start begins, when RESET_N is high. -/
def opRestart (k : Keel) (f : Fab) (msg : List Byte) (i3c : Bool) : Keel × Fab :=
  if readingNvm k then (sendAnswer k i3c (answerBytes msg 2 []), f)
  else if !k.boot.moored then (sendAnswer k i3c (answerBytes msg 1 []), f)
  else
    let k := modBoot (sendAnswer k i3c (answerBytes msg 0 [])) fun b => { b with moored := false, fails := 2 }
    if k.resetN then beginStart k f else (k, f)

/-! ### Lifecycle and certificates (19 R505 to R510, R517, R523) -/

/-- CHALLENGE. -/
def opChallenge (k : Keel) (f : Fab) : Answered :=
  let r := newNonce k f
  done r.1 r.2 (r.1.sec.nonce.getD [])

/-- STAGE. -/
def opStage (msg : List Byte) (k : Keel) (f : Fab) : Answered :=
  let off := numAt msg 8 2
  let data := msg.drop 16
  if msg.length < 24 ∨ off % 8 ≠ 0 ∨ off + data.length > 512 then refuse k f 4
  else done (modSec k fun s => { s with staging := splice s.staging off data }) f []

/-- A signature-checking operation: the nonce is consumed and the staging buffer cleared, whether it succeeds or fails. -/
def signedOp (k : Keel) (f : Fab) (key : Option (List Byte)) (text sig : List Byte) (accept : Keel → Fab → Keel × Fab) : Answered :=
  let ok := k.sec.nonce.any fun n => key.any fun x => Crypto.ed25519Verify x (n ++ k.sec.deviceId ++ text) sig
  let k := modSec k fun s => { s with nonce := none, staging := zeros 512 }
  if ok then
    let r := accept k f
    done r.1 r.2 []
  else refuse k f 3

def setPending (p : PendOp) (k : Keel) (f : Fab) : Keel × Fab := (modSec k fun s => { s with pend := some p }, f)

/-- TAKE_OWNERSHIP, at the next start. -/
def opTake (k : Keel) (f : Fab) : Answered :=
  let st := k.sec.staging
  if k.fuse.lifecycle ≠ 1 ∨ k.fuse.slots.length ≥ 4 then refuse k f 1
  else signedOp k f (some Config.provisioningDebugKey) (slice st 0 64) (slice st 64 64)
    (setPending (.takeOwnership { imageKey := slice st 0 32, debugKey := slice st 32 32 }))

/-- RELEASE_OWNERSHIP, at the next start. -/
def opRelease (k : Keel) (f : Fab) : Answered :=
  if k.fuse.lifecycle ≠ 2 then refuse k f 1
  else signedOp k f (debugKey k) [0x13] (slice k.sec.staging 0 64) (setPending .releaseOwnership)

/-- RETIRE, at the next start. -/
def opRetire (k : Keel) (f : Fab) : Answered :=
  if !keyed k then refuse k f 1 else signedOp k f (debugKey k) [0x14] (slice k.sec.staging 0 64) (setPending .retire)

/-- DBG_MIN rises, and the sessions whose token lies below it close (19 R521). -/
def raiseMin (v : Nat) (k : Keel) (f : Fab) : Keel × Fab :=
  let k := { k with fuse := { k.fuse with dbgMin := v } }
  let r := ((List.range 16).filter fun p => k.sec.psess.getLsbD p && decide (tgetD k.sec.pTsvn p 0 < v)).foldl
    (fun (st : Keel × Fab) p => closePart st.1 st.2 p) (k, f)
  if r.1.sec.device && decide (r.1.sec.dTsvn < v) then closeDev r.1 r.2 else r

/-- RAISE_DBG_SVN. -/
def opRaise (msg : List Byte) (k : Keel) (f : Fab) : Answered :=
  let v := numAt msg 8 1
  if !keyed k then refuse k f 1
  else if msg.length < 16 ∨ v ≤ k.fuse.dbgMin ∨ v > 63 then refuse k f 4
  else signedOp k f (debugKey k) [0x15, BitVec.ofNat 8 v] (slice k.sec.staging 0 64) (raiseMin v)

/-- GET_CERT: 48 bytes of the chain, zero beyond it. -/
def opCert (msg : List Byte) (k : Keel) (f : Fab) : Answered :=
  if msg.length < 16 then refuse k f 4
  else
    let b := slice (certBytes k) (numAt msg 8 4) 48
    done k f (zeros 8 ++ b ++ zeros (48 - b.length))

/-! ### Dispatch by OP -/

/-- The request that a message carries; one with no known OP is not valid. -/
def request (k : Keel) (f : Fab) (msg : List Byte) (i3c : Bool) : Keel × Fab :=
  match numAt msg 0 1 with
  | 0x01 => atOnce k f msg i3c opStatus
  | 0x02 => opErase k f msg i3c
  | 0x03 => opWrite k f msg i3c
  | 0x04 => atOnce k f msg i3c (opRead msg)
  | 0x05 => atOnce k f msg i3c (opVerify msg)
  | 0x06 => opRestart k f msg i3c
  | 0x07 => atOnce k f msg i3c opCommit
  | 0x10 => atOnce k f msg i3c opChallenge
  | 0x11 => atOnce k f msg i3c (opStage msg)
  | 0x12 => atOnce k f msg i3c opTake
  | 0x13 => atOnce k f msg i3c opRelease
  | 0x14 => atOnce k f msg i3c opRetire
  | 0x15 => atOnce k f msg i3c (opRaise msg)
  | 0x16 => atOnce k f msg i3c (opCert msg)
  | _ => atOnce k f msg i3c fun k f => refuse k f 4

def knownOp (op : Nat) : Bool := decide (1 ≤ op ∧ op ≤ 7) || decide (0x10 ≤ op ∧ op ≤ 0x16)

/-- An MBOX message arrives and is acknowledged (15 R434). A row takes the messages with its OP and those with no known one. -/
def mboxRow (s : State) (op : Nat) (msg : List Byte) : Out := onBoth s fun k f =>
  if !k.on || !msgForm msg || (numAt msg 0 1 != op && knownOp (numAt msg 0 1)) then (k, f)
  else request (sendOut k [.mboxAck]) f msg false

/-- MBOX_ACK: the next message of the keel's leaves. -/
def runMboxAck (k : Keel) : Keel :=
  if !k.mboxOut then k
  else match k.mboxWait with
    | [] => { k with mboxOut := false }
    | o :: rest => sendOut { k with mboxWait := rest } [o]

/-- NVM_OPERATION_COMPLETE: the answer that waited leaves. -/
def runNvmDone (k : Keel) : Keel :=
  match k.nvmReply with
  | none => k
  | some (i3c, bytes) => sendAnswer { k with nvmReply := none } i3c bytes

/-! ### The I3C target (20 R537, 18 R503) -/

def modI3c (k : Keel) (g : I3c → I3c) : Keel := { k with i3c := g k.i3c }

/-- The static address: 0x30 + 2 × ADDR_SEL1 + ADDR_SEL0. -/
def staticAddr (k : Keel) : BitVec 7 := BitVec.ofNat 7 (0x30 + k.addrSel % 4)

/-- The provisional ID: bit 32 set, bits 31:0 the fused serial number. -/
def provisionalId : Nat := 2 ^ 32 + Config.serial.toNat

/-- An access over I3C. -/
def i3cMark : Mark := { act := 0, part := 0, i3c := true }

/-- What a private read returns after a private write of an address: 8 bytes where the address is a multiple of 8, else 4. -/
def i3cRead (k : Keel) (f : Fab) (a : Nat) : List Byte :=
  let size := if a % 8 = 0 then 8 else 4
  if a % 4 = 0 ∧ a < 0x10_0000 then bytesLE size (csRead k f i3cMark a size) else bytesLE size (absent * (2 ^ 32 + 1))

/-- A private write to the dynamic address: a control-space address of 4 bytes, or a request. -/
def runPrivateWrite (k : Keel) (f : Fab) (bytes : List Byte) : Keel × Fab :=
  if k.i3c.dyn.isNone then (k, f)
  else if bytes.length = 4 then
    let a := leNat bytes
    (sendOut (modI3c k fun i => { i with addr := a }) [.i3c (i3cRead k f a)], f)
  else if msgForm bytes then request k f bytes true
  else (k, f)

/-- A common command to the dynamic address, which the target answers with bytes, the highest first. -/
def i3cAnswer (s : State) (n v : Nat) : Out :=
  onKeel s fun k _ => if k.on && k.i3c.dyn.isSome then sendOut k [.i3c (bytesLE n v).reverse] else k

/-! ### The rows -/

/-- MBOX_ACK (15 R434). -/
def execMboxAck (s : State) : Out := onKeel s fun k _ => runMboxAck k
/-- GET_STATUS (18 R504). -/
def execGetStatus (msg : List Byte) (s : State) : Out := mboxRow s 0x01 msg
/-- NVM_ERASE (18 R504). -/
def execNvmErase (msg : List Byte) (s : State) : Out := mboxRow s 0x02 msg
/-- NVM_WRITE (18 R504). -/
def execNvmWrite (msg : List Byte) (s : State) : Out := mboxRow s 0x03 msg
/-- NVM_READ (18 R504). -/
def execNvmRead (msg : List Byte) (s : State) : Out := mboxRow s 0x04 msg
/-- NVM_VERIFY (18 R504). -/
def execNvmVerify (msg : List Byte) (s : State) : Out := mboxRow s 0x05 msg
/-- NVM_OPERATION_COMPLETE (18 R504). -/
def execNvmOperationComplete (s : State) : Out := onKeel s fun k _ => runNvmDone k
/-- RESTART (18 R504). -/
def execRestart (msg : List Byte) (s : State) : Out := mboxRow s 0x06 msg
/-- COMMIT_SVN (18 R504). -/
def execCommitSvn (msg : List Byte) (s : State) : Out := mboxRow s 0x07 msg
/-- CHALLENGE (19 R517). -/
def execChallenge (msg : List Byte) (s : State) : Out := mboxRow s 0x10 msg
/-- STAGE (19 R523). -/
def execStage (msg : List Byte) (s : State) : Out := mboxRow s 0x11 msg
/-- TAKE_OWNERSHIP (19 R506). -/
def execTakeOwnership (msg : List Byte) (s : State) : Out := mboxRow s 0x12 msg
/-- RELEASE_OWNERSHIP (19 R506). -/
def execReleaseOwnership (msg : List Byte) (s : State) : Out := mboxRow s 0x13 msg
/-- RETIRE (19 R507). -/
def execRetire (msg : List Byte) (s : State) : Out := mboxRow s 0x14 msg
/-- RAISE_DBG_SVN (19 R523). -/
def execRaiseDbgSvn (msg : List Byte) (s : State) : Out := mboxRow s 0x15 msg
/-- GET_CERT (19 R510). -/
def execGetCert (msg : List Byte) (s : State) : Out := mboxRow s 0x16 msg
/-- ENTDAA (20 R537): the target takes the dynamic address if it has none. -/
def execEntdaa (addr : BitVec 7) (s : State) : Out := onKeel s fun k _ =>
  if k.on && k.i3c.dyn.isNone then modI3c (sendOut k [.i3c (bytesLE 6 provisionalId).reverse]) fun i => { i with dyn := some addr } else k
/-- SETDASA (20 R537): a target without a dynamic address acknowledges its static address and takes the dynamic one. -/
def execSetdasa (addr : BitVec 7) (s : State) : Out := onKeel s fun k _ =>
  if k.on && k.i3c.dyn.isNone then modI3c (sendOut k [.i3cAck (staticAddr k)]) fun i => { i with dyn := some addr } else k
/-- SETNEWDA (20 R537): a new address for a target that has one. -/
def execSetnewda (addr : BitVec 7) (s : State) : Out := onKeel s fun k _ =>
  if k.on && k.i3c.dyn.isSome then modI3c k fun i => { i with dyn := some addr } else k
/-- RSTDAA (20 R537). -/
def execRstdaa (s : State) : Out := onKeel s fun k _ => if k.on then modI3c k fun i => { i with dyn := none } else k
/-- ENEC (20 R537): bit 0 enables in-band interrupts. -/
def execEnec (events : BitVec 8) (s : State) : Out := onKeel s fun k _ =>
  if k.on && events.getLsbD 0 then modI3c k fun i => { i with ibi := true } else k
/-- DISEC (20 R537): bit 0 disables in-band interrupts. -/
def execDisec (events : BitVec 8) (s : State) : Out := onKeel s fun k _ =>
  if k.on && events.getLsbD 0 then modI3c k fun i => { i with ibi := false } else k
/-- GETPID (20 R537). -/
def execGetpid (s : State) : Out := i3cAnswer s 6 provisionalId
/-- GETBCR (20 R537). -/
def execGetbcr (s : State) : Out := i3cAnswer s 1 (Config.i3cCharacteristic 0).toNat
/-- GETDCR (20 R537). -/
def execGetdcr (s : State) : Out := i3cAnswer s 1 (Config.i3cCharacteristic 1).toNat
/-- GETSTATUS (20 R537). -/
def execGetstatus (s : State) : Out := i3cAnswer s 2 (Config.i3cCharacteristic 2).toNat
/-- GETMWL (20 R537): 64 bytes. -/
def execGetmwl (s : State) : Out := i3cAnswer s 2 64
/-- GETMRL (20 R537): 64 bytes. -/
def execGetmrl (s : State) : Out := i3cAnswer s 2 64
/-- I3C_PRIVATE_WRITE (18 R503). -/
def execI3cPrivateWrite (bytes : List Byte) (s : State) : Out := onBoth s fun k f => if k.on then runPrivateWrite k f bytes else (k, f)

end Sys2Proof.Machine
end

