-- ==== Sys2Proof/Machine/Dispatch.lean ====
section
/-!
DEFINITION. Dispatch.lean: one arm per command of the opcode table, each a direct call of the command's meaning.
-/
namespace Sys2Proof.Machine

def exec (i : Instr) (s : State) : Host.Outcome State Fault Refusal :=
  match i with
  | .integerArithmetic g => Sys2Proof.Machine.execIntegerArithmetic g s
  | .cmp g => Sys2Proof.Machine.execCmp g s
  | .predicateLogic g => Sys2Proof.Machine.execPredicateLogic g s
  | .mov g => Sys2Proof.Machine.execMov g s
  | .movI32 g => Sys2Proof.Machine.execMovI32 g s
  | .sel g => Sys2Proof.Machine.execSel g s
  | .cvt g => Sys2Proof.Machine.execCvt g s
  | .xlane g => Sys2Proof.Machine.execXlane g s
  | .floatArithmetic g => Sys2Proof.Machine.execFloatArithmetic g s
  | .sfLookup g => Sys2Proof.Machine.execSfLookup g s
  | .sfAccumulate g => Sys2Proof.Machine.execSfAccumulate g s
  | .sfNormalise g => Sys2Proof.Machine.execSfNormalise g s
  | .sfRowRead g => Sys2Proof.Machine.execSfRowRead g s
  | .sfStatsAccumulate g => Sys2Proof.Machine.execSfStatsAccumulate g s
  | .sfMean g => Sys2Proof.Machine.execSfMean g s
  | .sfVariance g => Sys2Proof.Machine.execSfVariance g s
  | .sfRms g => Sys2Proof.Machine.execSfRms g s
  | .ld g => Sys2Proof.Machine.execLd g s
  | .loadComplete m => Sys2Proof.Machine.execLoadComplete m s
  | .st g => Sys2Proof.Machine.execSt g s
  | .ldTr g => Sys2Proof.Machine.execLdTr g s
  | .atomic g => Sys2Proof.Machine.execAtomic g s
  | .ldRes g => Sys2Proof.Machine.execLdRes g s
  | .stCond g => Sys2Proof.Machine.execStCond g s
  | .fragLd g => Sys2Proof.Machine.execFragLd g s
  | .fragSt g => Sys2Proof.Machine.execFragSt g s
  | .lockAcq g => Sys2Proof.Machine.execLockAcq g s
  | .lockRetryTimeout g path => Sys2Proof.Machine.execLockRetryTimeout g path s
  | .lockRel g => Sys2Proof.Machine.execLockRel g s
  | .mxIssue g => Sys2Proof.Machine.execMxIssue g s
  | .cpIssue g => Sys2Proof.Machine.execCpIssue g s
  | .rtIssue g => Sys2Proof.Machine.execRtIssue g s
  | .descriptorCaptureComplete m => Sys2Proof.Machine.execDescriptorCaptureComplete m s
  | .fence g => Sys2Proof.Machine.execFence g s
  | .cntSig g => Sys2Proof.Machine.execCntSig g s
  | .cntCwait g => Sys2Proof.Machine.execCntCwait g s
  | .cntOwait g => Sys2Proof.Machine.execCntOwait g s
  | .cntSet g => Sys2Proof.Machine.execCntSet g s
  | .cntRd g => Sys2Proof.Machine.execCntRd g s
  | .barBlk g => Sys2Proof.Machine.execBarBlk g s
  | .nop g => Sys2Proof.Machine.execNop g s
  | .br g => Sys2Proof.Machine.execBr g s
  | .brJoin g => Sys2Proof.Machine.execBrJoin g s
  | .brInd g => Sys2Proof.Machine.execBrInd g s
  | .call g => Sys2Proof.Machine.execCall g s
  | .exit g => Sys2Proof.Machine.execExit g s
  | .rdSrc g => Sys2Proof.Machine.execRdSrc g s
  | .blockResident core => Sys2Proof.Machine.execBlockResident core s
  | .storeBufferEntryTimeout core sub entry => Sys2Proof.Machine.execStoreBufferEntryTimeout core sub entry s
  | .storeAck m => Sys2Proof.Machine.execStoreAck m s
  | .parkDrainComplete g => Sys2Proof.Machine.execParkDrainComplete g s
  | .replay mark die v => Sys2Proof.Machine.execReplay mark die v s
  | .kill mark die v => Sys2Proof.Machine.execKill mark die v s
  | .blockKillComplete core block => Sys2Proof.Machine.execBlockKillComplete core block s
  | .snap mark die v => Sys2Proof.Machine.execSnap mark die v s
  | .snapshotComplete die => Sys2Proof.Machine.execSnapshotComplete die s
  | .matrixDescriptorAccept core => Sys2Proof.Machine.execMatrixDescriptorAccept core s
  | .tileDecodeComplete core => Sys2Proof.Machine.execTileDecodeComplete core s
  | .foldStepEnd core => Sys2Proof.Machine.execFoldStepEnd core s
  | .gapLenExpiry core => Sys2Proof.Machine.execGapLenExpiry core s
  | .ballastRampStep core => Sys2Proof.Machine.execBallastRampStep core s
  | .shapeChangeBubbleEnd core => Sys2Proof.Machine.execShapeChangeBubbleEnd core s
  | .matrixComplete core => Sys2Proof.Machine.execMatrixComplete core s
  | .copyDescriptorAccept cluster => Sys2Proof.Machine.execCopyDescriptorAccept cluster s
  | .copyStepEnd cluster => Sys2Proof.Machine.execCopyStepEnd cluster s
  | .copyWriteAck m => Sys2Proof.Machine.execCopyWriteAck m s
  | .routeDescriptorAccept cluster => Sys2Proof.Machine.execRouteDescriptorAccept cluster s
  | .routingStepEnd cluster => Sys2Proof.Machine.execRoutingStepEnd cluster s
  | .gatherComplete cluster expert => Sys2Proof.Machine.execGatherComplete cluster expert s
  | .routingComplete cluster => Sys2Proof.Machine.execRoutingComplete cluster s
  | .counterOpArrival m => Sys2Proof.Machine.execCounterOpArrival m s
  | .waitRequestArrival m => Sys2Proof.Machine.execWaitRequestArrival m s
  | .waitReleaseArrival m => Sys2Proof.Machine.execWaitReleaseArrival m s
  | .pairPartnerReport m => Sys2Proof.Machine.execPairPartnerReport m s
  | .homeReadRequest m parity => Sys2Proof.Machine.execHomeReadRequest m parity s
  | .homeOwnershipRequest m parity => Sys2Proof.Machine.execHomeOwnershipRequest m parity s
  | .homeWriteBack m => Sys2Proof.Machine.execHomeWriteBack m s
  | .homeCleanEviction m => Sys2Proof.Machine.execHomeCleanEviction m s
  | .forwardedRequest m => Sys2Proof.Machine.execForwardedRequest m s
  | .forwardNotify m => Sys2Proof.Machine.execForwardNotify m s
  | .invalidation m => Sys2Proof.Machine.execInvalidation m s
  | .invalidationAck m => Sys2Proof.Machine.execInvalidationAck m s
  | .uncachedAgentRead m parity => Sys2Proof.Machine.execUncachedAgentRead m parity s
  | .uncachedAgentWrite m => Sys2Proof.Machine.execUncachedAgentWrite m s
  | .homeAtomic m => Sys2Proof.Machine.execHomeAtomic m s
  | .farAtomic m => Sys2Proof.Machine.execFarAtomic m s
  | .l2Fill m parity => Sys2Proof.Machine.execL2Fill m parity s
  | .writeBackAck m => Sys2Proof.Machine.execWriteBackAck m s
  | .reservationHoldExpiry die hold => Sys2Proof.Machine.execReservationHoldExpiry die hold s
  | .memoryRead m o => Sys2Proof.Machine.execMemoryRead m o s
  | .patrolScrub sector o => Sys2Proof.Machine.execPatrolScrub sector o s
  | .lpddrDriftCompensation ch => Sys2Proof.Machine.execLpddrDriftCompensation ch s
  | .lpddrOnlineRetrain ch => Sys2Proof.Machine.execLpddrOnlineRetrain ch s
  | .lpddrRetrainComplete ch ok => Sys2Proof.Machine.execLpddrRetrainComplete ch ok s
  | .lpddrTemperatureRead ch derated => Sys2Proof.Machine.execLpddrTemperatureRead ch derated s
  | .lpddrProbeComplete answers => Sys2Proof.Machine.execLpddrProbeComplete answers s
  | .lpddrTrainingComplete ch ok => Sys2Proof.Machine.execLpddrTrainingComplete ch ok s
  | .doorbellRing mark page q v => Sys2Proof.Machine.execDoorbellRing mark page q v s
  | .tailReadData m => Sys2Proof.Machine.execTailReadData m s
  | .commandReadData m => Sys2Proof.Machine.execCommandReadData m s
  | .commandStart q j => Sys2Proof.Machine.execCommandStart q j s
  | .commandRetire q j => Sys2Proof.Machine.execCommandRetire q j s
  | .eventRecordAck m => Sys2Proof.Machine.execEventRecordAck m s
  | .launch q j => Sys2Proof.Machine.execLaunch q j s
  | .copy q j => Sys2Proof.Machine.execCopy q j s
  | .matrix q j => Sys2Proof.Machine.execMatrix q j s
  | .route q j => Sys2Proof.Machine.execRoute q j s
  | .counterSignal q j => Sys2Proof.Machine.execCounterSignal q j s
  | .counterDecrement q j => Sys2Proof.Machine.execCounterDecrement q j s
  | .counterSet q j => Sys2Proof.Machine.execCounterSet q j s
  | .counterReset q j => Sys2Proof.Machine.execCounterReset q j s
  | .counterRead q j => Sys2Proof.Machine.execCounterRead q j s
  | .markCmd q j => Sys2Proof.Machine.execMarkCmd q j s
  | .objCreate q j => Sys2Proof.Machine.execObjCreate q j s
  | .objChange q j => Sys2Proof.Machine.execObjChange q j s
  | .objRetain q j => Sys2Proof.Machine.execObjRetain q j s
  | .objRelease q j => Sys2Proof.Machine.execObjRelease q j s
  | .cntAlloc q j => Sys2Proof.Machine.execCntAlloc q j s
  | .cntMap q j => Sys2Proof.Machine.execCntMap q j s
  | .cntPair q j => Sys2Proof.Machine.execCntPair q j s
  | .cntRelease q j => Sys2Proof.Machine.execCntRelease q j s
  | .fenceCreate q j => Sys2Proof.Machine.execFenceCreate q j s
  | .fenceFail q j => Sys2Proof.Machine.execFenceFail q j s
  | .fenceRelease q j => Sys2Proof.Machine.execFenceRelease q j s
  | .ctxCreate q j => Sys2Proof.Machine.execCtxCreate q j s
  | .ctxDestroy q j => Sys2Proof.Machine.execCtxDestroy q j s
  | .contextTeardownComplete ctx => Sys2Proof.Machine.execContextTeardownComplete ctx s
  | .queueCreate q j => Sys2Proof.Machine.execQueueCreate q j s
  | .queueDestroy q j => Sys2Proof.Machine.execQueueDestroy q j s
  | .partReset q j => Sys2Proof.Machine.execPartReset q j s
  | .partitionResetComplete part => Sys2Proof.Machine.execPartitionResetComplete part s
  | .epochAdvance unit => Sys2Proof.Machine.execEpochAdvance unit s
  | .sftGo mark die v => Sys2Proof.Machine.execSftGo mark die v s
  | .sftImageChecked die => Sys2Proof.Machine.execSftImageChecked die s
  | .sftPinsCleared die => Sys2Proof.Machine.execSftPinsCleared die s
  | .flagScanStart mark die v => Sys2Proof.Machine.execFlagScanStart mark die v s
  | .flagScanComplete die => Sys2Proof.Machine.execFlagScanComplete die s
  | .flagSetClear mark die v => Sys2Proof.Machine.execFlagSetClear mark die v s
  | .flagClearAll mark die v => Sys2Proof.Machine.execFlagClearAll mark die v s
  | .l2LockApply mark die v => Sys2Proof.Machine.execL2LockApply mark die v s
  | .l2CleanRange mark die v => Sys2Proof.Machine.execL2CleanRange mark die v s
  | .l2InvalidateRange mark die v => Sys2Proof.Machine.execL2InvalidateRange mark die v s
  | .l2CleanInvalidateRange mark die v => Sys2Proof.Machine.execL2CleanInvalidateRange mark die v s
  | .l2CleanSetWay mark die v => Sys2Proof.Machine.execL2CleanSetWay mark die v s
  | .l2InvalidateSetWay mark die v => Sys2Proof.Machine.execL2InvalidateSetWay mark die v s
  | .l2CleanInvalidateSetWay mark die v => Sys2Proof.Machine.execL2CleanInvalidateSetWay mark die v s
  | .l2MaintenanceComplete die parityLost => Sys2Proof.Machine.execL2MaintenanceComplete die parityLost s
  | .frameInEdge => Sys2Proof.Machine.execFrameInEdge s
  | .frameDoorbell mark v => Sys2Proof.Machine.execFrameDoorbell mark v s
  | .frameEvent m => Sys2Proof.Machine.execFrameEvent m s
  | .slotFrameStart die => Sys2Proof.Machine.execSlotFrameStart die s
  | .slotBudgetExpiry die => Sys2Proof.Machine.execSlotBudgetExpiry die s
  | .csRd att f => Sys2Proof.Machine.execCsRd att f s
  | .csWr att f => Sys2Proof.Machine.execCsWr att f s
  | .dmaRd att f => Sys2Proof.Machine.execDmaRd att f s
  | .dmaWr att f => Sys2Proof.Machine.execDmaWr att f s
  | .dmaWrp att f => Sys2Proof.Machine.execDmaWrp att f s
  | .dmaAtom att f => Sys2Proof.Machine.execDmaAtom att f s
  | .coRds att f => Sys2Proof.Machine.execCoRds att f s
  | .coOwn att f => Sys2Proof.Machine.execCoOwn att f s
  | .coWb att f => Sys2Proof.Machine.execCoWb att f s
  | .coEvict att f => Sys2Proof.Machine.execCoEvict att f s
  | .snpRsp att f => Sys2Proof.Machine.execSnpRsp att f s
  | .memRdata att f => Sys2Proof.Machine.execMemRdata att f s
  | .memWcmp att f => Sys2Proof.Machine.execMemWcmp att f s
  | .tetherResponseTimeout => Sys2Proof.Machine.execTetherResponseTimeout s
  | .probeAnswer record sig => Sys2Proof.Machine.execProbeAnswer record sig s
  | .probeTimeout => Sys2Proof.Machine.execProbeTimeout s
  | .mboxAck => Sys2Proof.Machine.execMboxAck s
  | .quiesce => Sys2Proof.Machine.execQuiesce s
  | .quiesceDone => Sys2Proof.Machine.execQuiesceDone s
  | .modulesDown mask => Sys2Proof.Machine.execModulesDown mask s
  | .linkTrainingComplete up repaired => Sys2Proof.Machine.execLinkTrainingComplete up repaired s
  | .adapterRetryThreshold module => Sys2Proof.Machine.execAdapterRetryThreshold module s
  | .sidebandRetrainRequest att => Sys2Proof.Machine.execSidebandRetrainRequest att s
  | .linkRetrain mark v => Sys2Proof.Machine.execLinkRetrain mark v s
  | .retrainComplete att failed repaired => Sys2Proof.Machine.execRetrainComplete att failed repaired s
  | .glinenWr port f => Sys2Proof.Machine.execGlinenWr port f s
  | .glinenRd port f => Sys2Proof.Machine.execGlinenRd port f s
  | .glinenAtom port f => Sys2Proof.Machine.execGlinenAtom port f s
  | .glinenSig port f => Sys2Proof.Machine.execGlinenSig port f s
  | .xwr port f => Sys2Proof.Machine.execXwr port f s
  | .xend port f => Sys2Proof.Machine.execXend port f s
  | .transferComplete port src xfer => Sys2Proof.Machine.execTransferComplete port src xfer s
  | .glinenFrame port f => Sys2Proof.Machine.execGlinenFrame port f s
  | .linkctl port f => Sys2Proof.Machine.execLinkctl port f s
  | .wack port f => Sys2Proof.Machine.execWack port f s
  | .rdata port f => Sys2Proof.Machine.execRdata port f s
  | .sigack port f => Sys2Proof.Machine.execSigack port f s
  | .xack port f => Sys2Proof.Machine.execXack port f s
  | .codewordUncorrectable port => Sys2Proof.Machine.execCodewordUncorrectable port s
  | .portRetrainTrigger port => Sys2Proof.Machine.execPortRetrainTrigger port s
  | .laneLockLost port lane => Sys2Proof.Machine.execLaneLockLost port lane s
  | .portRetrainComplete port ok => Sys2Proof.Machine.execPortRetrainComplete port ok s
  | .portTrain mark port v => Sys2Proof.Machine.execPortTrain mark port v s
  | .portTrainingComplete port ok => Sys2Proof.Machine.execPortTrainingComplete port ok s
  | .routeTimeout route => Sys2Proof.Machine.execRouteTimeout route s
  | .frameAgeExpiry port m => Sys2Proof.Machine.execFrameAgeExpiry port m s
  | .routeEnable mark pdie v => Sys2Proof.Machine.execRouteEnable mark pdie v s
  | .avsbusSample r => Sys2Proof.Machine.execAvsbusSample r s
  | .pmbusSample r => Sys2Proof.Machine.execPmbusSample r s
  | .voltageStep rail up => Sys2Proof.Machine.execVoltageStep rail up s
  | .estimatorUpdate e => Sys2Proof.Machine.execEstimatorUpdate e s
  | .powerLimitTimeout => Sys2Proof.Machine.execPowerLimitTimeout s
  | .levelSlopeStep die field => Sys2Proof.Machine.execLevelSlopeStep die field s
  | .droopTrip die field => Sys2Proof.Machine.execDroopTrip die field s
  | .droopCutEnd die field => Sys2Proof.Machine.execDroopCutEnd die field s
  | .temperatureSample t => Sys2Proof.Machine.execTemperatureSample t s
  | .dramOvertempExpiry dram => Sys2Proof.Machine.execDramOvertempExpiry dram s
  | .coolantOkFall => Sys2Proof.Machine.execCoolantOkFall s
  | .stopComplete => Sys2Proof.Machine.execStopComplete s
  | .coolantOkRise => Sys2Proof.Machine.execCoolantOkRise s
  | .powerGoodRise pg => Sys2Proof.Machine.execPowerGoodRise pg s
  | .powerGoodFall pg => Sys2Proof.Machine.execPowerGoodFall pg s
  | .powerGoodTimeout pg => Sys2Proof.Machine.execPowerGoodTimeout pg s
  | .vddKeelLoss => Sys2Proof.Machine.execVddKeelLoss s
  | .retentionEnter mark v => Sys2Proof.Machine.execRetentionEnter mark v s
  | .retentionEntered => Sys2Proof.Machine.execRetentionEntered s
  | .retentionExit mark v => Sys2Proof.Machine.execRetentionExit mark v s
  | .retentionExitComplete => Sys2Proof.Machine.execRetentionExitComplete s
  | .resetNRise => Sys2Proof.Machine.execResetNRise s
  | .resetNFall => Sys2Proof.Machine.execResetNFall s
  | .nvmImageRead slot => Sys2Proof.Machine.execNvmImageRead slot s
  | .bridgeTestComplete failed => Sys2Proof.Machine.execBridgeTestComplete failed s
  | .domainOn d => Sys2Proof.Machine.execDomainOn d s
  | .partitionScrubComplete part => Sys2Proof.Machine.execPartitionScrubComplete part s
  | .startRetryTimer => Sys2Proof.Machine.execStartRetryTimer s
  | .startTimeout => Sys2Proof.Machine.execStartTimeout s
  | .getStatus msg => Sys2Proof.Machine.execGetStatus msg s
  | .nvmErase msg => Sys2Proof.Machine.execNvmErase msg s
  | .nvmWrite msg => Sys2Proof.Machine.execNvmWrite msg s
  | .nvmRead msg => Sys2Proof.Machine.execNvmRead msg s
  | .nvmVerify msg => Sys2Proof.Machine.execNvmVerify msg s
  | .nvmOperationComplete => Sys2Proof.Machine.execNvmOperationComplete s
  | .restart msg => Sys2Proof.Machine.execRestart msg s
  | .commitSvn msg => Sys2Proof.Machine.execCommitSvn msg s
  | .challenge msg => Sys2Proof.Machine.execChallenge msg s
  | .stage msg => Sys2Proof.Machine.execStage msg s
  | .takeOwnership msg => Sys2Proof.Machine.execTakeOwnership msg s
  | .releaseOwnership msg => Sys2Proof.Machine.execReleaseOwnership msg s
  | .retire msg => Sys2Proof.Machine.execRetire msg s
  | .raiseDbgSvn msg => Sys2Proof.Machine.execRaiseDbgSvn msg s
  | .getCert msg => Sys2Proof.Machine.execGetCert msg s
  | .dbgChallenge mark v => Sys2Proof.Machine.execDbgChallenge mark v s
  | .dbgOpen mark v => Sys2Proof.Machine.execDbgOpen mark v s
  | .deviceSessionScrubComplete => Sys2Proof.Machine.execDeviceSessionScrubComplete s
  | .tetherZeroAck part => Sys2Proof.Machine.execTetherZeroAck part s
  | .tetherZeroTimeout => Sys2Proof.Machine.execTetherZeroTimeout s
  | .dbgClose mark v => Sys2Proof.Machine.execDbgClose mark v s
  | .closeDevice mark v => Sys2Proof.Machine.execCloseDevice mark v s
  | .dbgQuiesce mark v => Sys2Proof.Machine.execDbgQuiesce mark v s
  | .partitionQuiesced part => Sys2Proof.Machine.execPartitionQuiesced part s
  | .dbgResume mark v => Sys2Proof.Machine.execDbgResume mark v s
  | .attGo mark v => Sys2Proof.Machine.execAttGo mark v s
  | .attReportDone part => Sys2Proof.Machine.execAttReportDone part s
  | .entdaa addr => Sys2Proof.Machine.execEntdaa addr s
  | .setdasa addr => Sys2Proof.Machine.execSetdasa addr s
  | .setnewda addr => Sys2Proof.Machine.execSetnewda addr s
  | .rstdaa => Sys2Proof.Machine.execRstdaa s
  | .enec events => Sys2Proof.Machine.execEnec events s
  | .disec events => Sys2Proof.Machine.execDisec events s
  | .getpid => Sys2Proof.Machine.execGetpid s
  | .getbcr => Sys2Proof.Machine.execGetbcr s
  | .getdcr => Sys2Proof.Machine.execGetdcr s
  | .getstatus => Sys2Proof.Machine.execGetstatus s
  | .getmwl => Sys2Proof.Machine.execGetmwl s
  | .getmrl => Sys2Proof.Machine.execGetmrl s
  | .i3cPrivateWrite bytes => Sys2Proof.Machine.execI3cPrivateWrite bytes s
  | .registerWrite mark addr size v => Sys2Proof.Machine.execRegisterWrite mark addr size v s
  | .vddKeelBringUp => Sys2Proof.Machine.execVddKeelBringUp s
  | .driftCompensationComplete ch => Sys2Proof.Machine.execDriftCompensationComplete ch s
  | .creditReturn port vc units => Sys2Proof.Machine.execCreditReturn port vc units s
  | .openChecksComplete => Sys2Proof.Machine.execOpenChecksComplete s

end Sys2Proof.Machine
end

