-- ==== Sys2Proof/Machine/Idle.lean ====
section
/-!
DEFINITION. Idle.lean: what happens when no command waits: one period of the keel oscillator passes (02 R42; log 6). Beat
counters advance by free numbers of beats (02 R37 to R43), the schedule counters count (14 R413), and control-space
accesses whose earlier writes have been acknowledged are performed (15 R426).
-/
namespace Sys2Proof.Machine

/-- A message in flight crosses the mesh of a die: one between dies those at its two ends, and no mesh between them (01 R24); of any other
the model does not say where it is. -/
def inMesh (k : Keel) (f : Fab) (die : Nat) (m : Msg) : Bool :=
  match crossing k f m with
  | some c => c.2.1 == die || c.2.2 == die
  | none => true

/-- Whether a unit may complete work in beats of a keel period that no access counts: an array in a gap with ballast (06 R187), a mesh
router while a message is on its way in its die's mesh. -/
def worksIdle (k : Keel) (f : Fab) (cls index : Nat) : Bool :=
  if cls = 1 then (tfind f.eng.mx index).any fun a => a.inGap && a.ballast && a.bubble.isNone
  else cls == 3 && f.net.any fun m => inMesh k f (index / classUnits 3) m.2

/-- The counters of one unit over one keel period: ELAPSED by a free number of beats, and WORK by a free part of them where the unit works
beside the accesses and steps that count themselves (log 6). -/
def tickUnit (k : Keel) (f : Fab) (cls index : Nat) : Fab :=
  let n := Config.beats cls index k.time
  let f := beatsUp f cls index n
  if worksIdle k f cls index then
    let n := min n (Config.beats (cls + 8) index k.time)
    if cls = 1 then ballastUp k f index n else worked f cls index n
  else f

/-- `count` units of a class on one die, from die-local index `first`. -/
def tickUnits (k : Keel) (die : Nat) (f : Fab) (cls first count : Nat) : Fab :=
  (List.range count).foldl (fun f i => tickUnit k f cls (classUnits cls * die + first + i)) f

/-- The units of compute domain `x` of a die (17 R465, 02 R46). -/
def tickCompute (k : Keel) (die : Nat) (f : Fab) (x : Nat) : Fab :=
  let f := tickUnits k die f 0 (256 * x) 256
  let f := tickUnits k die f 1 (64 * x) 64
  let f := tickUnits k die f 2 (64 * x) 64
  let f := tickUnits k die f 5 (4 * x) 4
  tickUnits k die f 6 (4 * x) 4

/-- The schedule counter of a die (14 R413): it counts array beats while a compute domain of the die is on and a slot is in force,
and stands at BUDGET. -/
def tickSched (k : Keel) (f : Fab) (die : Nat) : Fab :=
  let d := dieRegs f die
  if d.schedTail then f
  else modDie f die fun d => { d with
    schedBudget := min (slotBudget (schedSlots k) d.schedSlot) (d.schedBudget + Config.beats 7 die k.time) }

/-- One sail die over one keel period. -/
def tickDie (k : Keel) (f : Fab) (die : Nat) : Fab :=
  let on := (List.range 3).filter fun x => domainOn k (computeDom die x)
  let f := on.foldl (fun f x => tickCompute k die f x) f
  let f := if on.isEmpty then f else tickSched k f die
  if domainOn k (memDom die) then tickUnits k die (tickUnits k die f 3 0 3) 4 0 48 else f

/-- Codewords without frame units that a port sends and takes in over one keel period (16 R443; log 6): a free number each way, the sending ones
no more than leave 2,048 unacknowledged. -/
def tickPort (k : Keel) (f : Fab) (port : Nat) : Fab :=
  if !portUp k f port then f
  else
    let p := portOf f port
    let out := min (Config.beats 20 port k.time) (2048 - unacked p p.unitsSent)
    let in_ := Config.beats 21 port k.time
    let f := if out = 0 then f else modPort f port fun p => { p with unitsSent := 10 * (ceilDiv p.unitsSent 10 + out) }
    if in_ = 0 then f else tookIn k f port (10 * (ceilDiv p.rxSeq 10 + in_))

/-! ### Errors that strike check bits (05 R139, R145, 10 R311; log 61) -/

/-- A single-bit error strikes a word of a core's local memory: a second one makes it uncorrectable (05 R139). -/
def upsetLocal (k : Keel) (f : Fab) (n : Nat) : Fab :=
  let w := locKey (n / 2 ^ 19) (n % 2 ^ 19 * 4)
  if !corePresent k (n / 2 ^ 19) || f.mem.badWords.contains w then f
  else onMem f fun m =>
    if m.softWords.contains w then { m with softWords := m.softWords.filter (· != w), badWords := m.badWords ++ [w] }
    else { m with softWords := m.softWords ++ [w] }

/-- The n-th of a list, counted round. -/
def pickOf {α : Type} (xs : List α) (n : Nat) (g : α → α) : List α := xs.mapIdx fun i x => if i = n % xs.length then g x else x

/-- What a parity check of an L2 copy will find. -/
def flawOf (n : Nat) : ParityFind := match n % 3 with | 0 => .dataSector | 1 => .tagOrState | _ => .stateUnreadable

/-- The errors of a keel period. -/
def strike (k : Keel) (f : Fab) : Fab :=
  let f := match Config.upset 0 k.time with
    | some n => upsetLocal k f n
    | none => f
  let f := match Config.upset 1 k.time with
    | some n => onMem f fun m => { m with l1 := pickOf m.l1 (n / 4) fun x => { x with bad := x.bad ||| BitVec.ofNat 4 (2 ^ (n % 4)) } }
    | none => f
  let f := match Config.upset 2 k.time with
    | some n => onMem f fun m => { m with l2 := pickOf m.l2 (n / 3) fun x => { x with flaw := flawOf n } }
    | none => f
  match Config.upset 3 k.time with
  | some n => onMem f fun m => { m with evb := pickOf m.evb n fun x => { x with flaw := true } }
  | none => f

/-- One keel period with no command waiting. While VDD_KEEL is off no time counts. -/
def runIdle (k : Keel) (f : Fab) : Keel × Fab :=
  if k.on then
    let f := (List.range k.sails).foldl (fun f die => tickDie k f die) (strike k (beginFatal k f))
    let f := (List.range 6).foldl (tickPort k) f
    let f := if f.link.state = 1 then onLink f fun l => { l with upTime := l.upTime + 1 } else f
    tendCs { k with time := k.time + 1 } f
  else (k, f)

/-- What step does on an empty queue. -/
def idleStep (s : State) : Out := onBoth s runIdle

end Sys2Proof.Machine
end

