-- ==== Sys2Proof/Safety.lean ====
section
/-!
DEFINITION. Safety.lean: what claims call a sound machine: fuses within their widths and their lifecycle (19 R505 to R507), a boot record
within its width (18 R502), and memories in their one canonical form; how the fuses of a part may change; and the words in which claims
say what a command writes and what it leaves alone.
-/
namespace Sys2Proof.Machine

/-- Near memory, LPDDR6 and local memory are in canonical form. -/
def Mem.wf (m : Mem) : Bool := cwf Mem.unlisted m.nm && cwf Mem.unlisted m.lpd && cwf Mem.unlisted m.loc

/-- The NVM is in canonical form. -/
def Nvm.wf (n : Nvm) : Bool := cwf Nvm.erased n.cells

/-- The fuses lie within the widths of KEEL_LIFECYCLE, and in OWNED an owner slot that has been written is active (19 R505, R506). -/
def Fuses.legal (f : Fuses) : Prop :=
  f.lifecycle ≤ 3 ∧ f.slots.length ≤ 4 ∧ f.dbgMin ≤ 63 ∧ (f.lifecycle = 2 → f.activeSlot < f.slots.length)

/-- A pending operation of 19 R507 still finds the lifecycle that admitted it. -/
def PendOp.legal (f : Fuses) : PendOp → Prop
  | .takeOwnership _ => f.lifecycle = 1 ∧ f.slots.length < 4
  | .releaseOwnership => f.lifecycle = 2
  | .retire => f.lifecycle = 1 ∨ f.lifecycle = 2

/-- The keel is sound. -/
def Keel.sound (k : Keel) : Prop :=
  k.fuse.legal ∧ (∀ p, k.sec.pend = some p → p.legal k.fuse) ∧ k.nvm.wf = true ∧ k.boot.fails ≤ 3

/-- How fuses may change over time: nothing that was written is ever undone (19 R506, R523; 18 R492). -/
def Fuses.grows (old new : Fuses) : Prop :=
  new.variant = old.variant ∧ new.spares = old.spares ∧ old.slots <+: new.slots ∧ old.dbgMin ≤ new.dbgMin ∧ old.minSvn ≤ new.minSvn ∧
  (old.lifecycle = 0 → new.lifecycle = 0) ∧ (old.lifecycle = 3 → new.lifecycle = 3)

/-! ### What an instruction of a group writes -/

/-- The sub-core issues an instruction of class `c` from the group at `a` in this beat, and `i` is what it finds: the group, its running
path, the word, and the lanes active under the guard (03 R64, R65; 04 R84 to R88). -/
def Issues (s : State) (a : GroupAt) (c : XClass) (i : Iss) : Prop := issueOf s.keel s.fab a (· == c) = .go i

/-- The rows by which a group at a place issues, each with the class of its instructions (04 R100 to R105, R125). -/
def issuingRows (a : GroupAt) : List (XClass × Instr) :=
  [(.ld, .ld a), (.st, .st a), (.ldTr, .ldTr a), (.atomic, .atomic a), (.ldRes, .ldRes a), (.stCond, .stCond a), (.fragLd, .fragLd a),
   (.fragSt, .fragSt a), (.lockAcq, .lockAcq a), (.lockRel, .lockRel a), (.integer, .integerArithmetic a), (.cmp, .cmp a),
   (.pred, .predicateLogic a), (.mov, .mov a), (.movI32, .movI32 a), (.sel, .sel a), (.cvt, .cvt a), (.xlane, .xlane a),
   (.float, .floatArithmetic a), (.sfLookup, .sfLookup a), (.sfAcc, .sfAccumulate a), (.sfNorm, .sfNormalise a), (.sfRead, .sfRowRead a),
   (.sfSacc, .sfStatsAccumulate a), (.sfMean, .sfMean a), (.sfVar, .sfVariance a), (.sfRms, .sfRms a), (.mxIssue, .mxIssue a),
   (.cpIssue, .cpIssue a), (.rtIssue, .rtIssue a), (.fence, .fence a), (.cntSig, .cntSig a), (.cntCwait, .cntCwait a), (.cntOwait, .cntOwait a),
   (.cntSet, .cntSet a), (.cntRd, .cntRd a), (.barBlk, .barBlk a), (.nop, .nop a), (.br, .br a), (.brJoin, .brJoin a), (.brInd, .brInd a),
   (.call, .call a), (.exit, .exit a), (.rdSrc, .rdSrc a)]

/-- The sub-core may issue from a group, whose path `p` runs (03 R64, R65). -/
abbrev Picks (s : State) (a : GroupAt) (g : Group) (key : Nat) (p : Machine.Path) : Prop :=
  a.sub < 4 ∧ a.slot < 16 ∧ findGroup s.fab (GroupAtGid a) = some g ∧ picked s.keel s.fab (GroupAtGid a) g = true ∧ g.running = some (key, p)

/-- The group as the issue leaves it before the instruction acts: a replay is over (03 R80). -/
def Iss.issued (i : Iss) : Group := { i.g with replay := none }

/-- A group's convergence table has one entry under each key (03 R68). -/
abbrev KeysDistinct (g : Group) : Prop := (g.paths.map (·.1)).Nodup

/-- Between two states only the group `gid`, the issue counts, numeric flags and the index of free values may differ. -/
def OnlyGroup (s t : State) (gid : Nat) : Prop :=
  t = { s with fab := { s.fab with
    free := t.fab.free, elapsed := t.fab.elapsed, work := t.fab.work, cores := { s.fab.cores with
      groups := t.fab.cores.groups, lastSlot := t.fab.cores.lastSlot, flags := t.fab.cores.flags } } } ∧
  ∀ o, o ≠ gid → findGroup t.fab o = findGroup s.fab o

/-- The registers of `g'` are those of `g` with one value per active lane in a destination: a vector register, one bit of a predicate, or a
uniform register that takes the value of the first active lane (04 R87, R90). -/
def Wrote (g g' : Group) (act : Word32) (dk dst : Nat) (val : Nat → Nat) : Prop :=
  (∀ r l, l < 32 → vget g' r l = if dk = 0 ∧ r = dst ∧ act.getLsbD l = true then BitVec.ofNat 32 (val l) else vget g r l) ∧
  (∀ r, uget g' r = match lanes act with
    | [] => uget g r
    | l :: _ => if dk = 1 ∧ r = dst then BitVec.ofNat 32 (val l) else uget g r) ∧
  (∀ p l, l < 32 → pget g' p l = if 2 ≤ dk ∧ p = dst ∧ act.getLsbD l = true then val l % 2 == 1 else pget g p l)

/-- Of a group, registers and paths alone may differ. -/
def SameButRegs (g g' : Group) : Prop := g' = { g with vreg := g'.vreg, ureg := g'.ureg, preg := g'.preg, paths := g'.paths }

/-- Of a group, paths alone may differ. -/
def SameButPaths (g g' : Group) : Prop := g' = { g with paths := g'.paths }

/-- In a group in which no path waits at its join address, the path `p` stands in the table, unless its address is its join address; it
runs, or is ready where 64 backward branches made it rotate (03 R68). -/
def PathAt (g g' : Group) (key : Nat) (p : Path) : Prop :=
  (∀ q ∈ g.paths, q.2.st ≠ .arrived) → p.joins.head? ≠ some p.pc →
  ∃ st b, tfind g'.paths key = some { p with st := st, back := b } ∧ (st = .running ∨ st = .ready)

/-- The path that issued stands at `pc`. -/
def StandsAt (i : Iss) (g' : Group) (pc : Word64) : Prop := PathAt i.g g' i.key { i.p with pc := pc }

/-- The path that issued waits in a state, and its next instruction is at `pc`. -/
def WaitsAt (i : Iss) (g' : Group) (pc : Word64) (st : PathState) : Prop :=
  tfind g'.paths i.key = some { i.p with pc := pc, st := st, back := 0 }

/-- The effect of an instruction that writes one value per active lane, sets no numeric flag and goes on behind itself. -/
def LaneWrite (s t : State) (i : Iss) (dk dst : Nat) (val : Nat → Nat) : Prop :=
  OnlyGroup s t i.gid ∧ t.fab.cores.flags = s.fab.cores.flags ∧
  ∃ g', findGroup t.fab i.gid = some g' ∧ SameButRegs i.issued g' ∧ Wrote i.g g' i.act dk dst val ∧ StandsAt i g' (i.p.pc + 8)

/-- The numeric flags of a set, none recorded where the set is not listed (08 R250). -/
def flagsAt (s : State) (key : Nat) : BitVec 6 := (tgetD s.fab.cores.flags key { flags := 0, ctx := 0 }).flags

/-- Only one flag set differs, and it holds the flags it held and `fl`. -/
def Raised (s t : State) (key : Nat) (fl : BitVec 6) : Prop :=
  flagsAt t key = flagsAt s key ||| fl ∧ ∀ k, k ≠ key → tfind t.fab.cores.flags k = tfind s.fab.cores.flags k

/-- The effect of an instruction that writes one value per active lane with numeric flags (08 R251): a uniform destination records those of
the one operation it performs. -/
def FlagWrite (s t : State) (i : Iss) (dk : Nat) (val : Nat → Nat × BitVec 6) : Prop :=
  OnlyGroup s t i.gid ∧
  Raised s t (subFlagKey i.gid i.g.part)
    ((if dk = 1 then (lanes i.act).take 1 else lanes i.act).foldl (fun a l => a ||| (val l).2) 0) ∧
  ∃ g', findGroup t.fab i.gid = some g' ∧ SameButRegs i.issued g' ∧ Wrote i.g g' i.act dk (aDst i.w) (fun l => (val l).1) ∧
    StandsAt i g' (i.p.pc + 8)

/-- The effect of an instruction on row state: the group holds `row`, the flags `fl` are recorded, and each active lane of the vector
register DST holds its value (09 R274, R257). -/
def RowWrite (s t : State) (i : Iss) (row : RowState) (fl : BitVec 6) (val : Nat → Nat) : Prop :=
  OnlyGroup s t i.gid ∧ Raised s t (subFlagKey i.gid i.g.part) fl ∧
  ∃ g', findGroup t.fab i.gid = some g' ∧ SameButRegs { i.issued with row := row } g' ∧ Wrote i.g g' i.act 0 (aDst i.w) val ∧
    StandsAt i g' (i.p.pc + 8)

/-- A value lies within an error of an exact value (09 R281, R283). -/
def Within (v exact err : Num) : Prop := ltNum err (absNum (addE v (negNum exact))) = false

/-- The only effect of an instruction is where its path goes on. -/
def GoesTo (s t : State) (i : Iss) (pc : Word64) : Prop :=
  OnlyGroup s t i.gid ∧ t.fab.cores.flags = s.fab.cores.flags ∧
  ∃ g', findGroup t.fab i.gid = some g' ∧ SameButPaths i.issued g' ∧ StandsAt i g' pc

/-- A message entered the net under the next number, and besides only the group `gid` changed. -/
def SendsFrom (s t : State) (gid : Nat) (m : Msg) : Prop :=
  t.fab.net = tput s.fab.net s.fab.nextId m ∧ t.fab.nextId = s.fab.nextId + 1 ∧
  OnlyGroup { s with fab := { s.fab with net := t.fab.net, nextId := t.fab.nextId } } t gid ∧ t.fab.cores.flags = s.fab.cores.flags

/-- An instruction sends one message and goes on behind itself. -/
def SendsAndGoes (s t : State) (i : Iss) (m : Msg) : Prop :=
  SendsFrom s t i.gid m ∧ ∃ g', findGroup t.fab i.gid = some g' ∧ SameButPaths i.issued g' ∧ StandsAt i g' (i.p.pc + 8)

/-- What a park leaves in the group's record (03 R77, R82): the instruction is withdrawn, and no register has changed. -/
def ParkRecord (g g' : Group) (st : Stand) (code : Nat) (addr : Word64) (faulted : List Nat) : Prop :=
  g' = { g with
    park := .parking, parkCount := min 255 (g.parkCount + 1), faultCode := code, faultAddr := addr
    faultLanes := lanesMask faulted, faultPc := st.pc, faultAt := st, replay := none }

/-- The group of an instruction parks and the instruction has no other effect. A group's reservations are lost (04 R118). -/
def Parks (s t : State) (gid : Nat) (st : Stand) (code : Nat) (addr : Word64) (faulted : List Nat) : Prop :=
  (∃ g g', findGroup s.fab gid = some g ∧ findGroup t.fab gid = some g' ∧ ParkRecord g g' st code addr faulted) ∧
  (∀ o, o ≠ gid → findGroup t.fab o = findGroup s.fab o) ∧
  t = { s with fab := { s.fab with
    elapsed := t.fab.elapsed, work := t.fab.work, mem := { s.fab.mem with resv := t.fab.mem.resv, failedLane := t.fab.mem.failedLane }
    cores := { s.fab.cores with groups := t.fab.cores.groups, lastSlot := t.fab.cores.lastSlot } } } ∧
  t.fab.mem.resv = s.fab.mem.resv.filter (·.gid != gid)

/-- The descriptors that an engine of a core or its cluster holds, by number (04 R103). -/
def engineIds (f : Fab) (e : EngKind) (core : Nat) : List Nat :=
  match e with
  | .matrix => ((tfind f.eng.mx core).map fun a => a.queue.map (·.id)).getD []
  | .copy => ((tfind f.eng.cp (clusterOfCore core)).map fun a => a.descs.map (·.id)).getD []
  | .routing => ((tfind f.eng.rt (clusterOfCore core)).map fun a => a.runs.map (·.id)).getD []

/-! ### What an access writes -/

/-- Each active lane of an access of `n` bytes finds its place in local memory, inside the core's 2 MiB, by the object check (05 R130). -/
abbrev LocalPlaces (s : State) (i : Iss) (c : XClass) (u : Use) (n : Nat) (place : Nat → Loc) : Prop :=
  ∀ l ∈ lanes i.act, check s.fab i.g.part (some i.core) u (effAddr i.g c i.w l).1 (effAddr i.g c i.w l).2 n n = .ok (place l) ∧
    (place l).kind = 2 ∧ (place l).core = i.core ∧ (place l).off + n ≤ 2 ^ 21 ∧ locBad s.fab.mem i.core (place l).off n = false

/-- The byte that the last of some stores, each an address with its bytes, leaves at an address. -/
def lastStored : List (Nat × List Byte) → Nat → Option Byte
  | [], _ => none
  | x :: xs, a => (lastStored xs a).or (if x.1 ≤ a ∧ a < x.1 + x.2.length then x.2[a - x.1]? else none)

/-- The local memory of a core holds what some stores leave, and every other byte what it held. -/
def LocalStored (s t : State) (core : Nat) (stores : List (Nat × List Byte)) : Prop :=
  (∀ a, a < 2 ^ 21 → locByte t.fab.mem core a = (lastStored stores a).getD (locByte s.fab.mem core a)) ∧
  ∀ c a, c ≠ core → a < 2 ^ 21 → locByte t.fab.mem c a = locByte s.fab.mem c a

/-- Memory is as before, but that a read of local memory corrects and counts the single-bit errors it meets (05 R139). -/
def OnlyCorrected (s t : State) : Prop :=
  t.fab.mem = { s.fab.mem with softWords := t.fab.mem.softWords, locCe := t.fab.mem.locCe }

/-- Near memory and LPDDR6, and every cache, are as before. -/
def SharedMemorySame (s t : State) : Prop :=
  t.fab.mem = { s.fab.mem with loc := t.fab.mem.loc, badWords := t.fab.mem.badWords, softWords := t.fab.mem.softWords,
                               locCe := t.fab.mem.locCe, resv := t.fab.mem.resv,
                               failedLane := t.fab.mem.failedLane, use := t.fab.mem.use }

/-- No path waits in a fence, at a barrier or in a wait that the end of an access could end. -/
def NoneWaits (s : State) : Prop :=
  ∀ e ∈ s.fab.cores.groups, ∀ q ∈ e.2.paths, (∀ sc kd a, q.2.st ≠ .waitFence sc kd a) ∧ ∀ n, q.2.st ≠ .waitBarrier n

/-- The lanes of an access that answers later, with their data and faults, as the load under a number holds them. -/
def LoadHolds (t : State) (id gid dst : Nat) (kind : LoadKind) (ans : List (Nat × Option (List Byte) × Nat)) : Prop :=
  ∃ ld, findLoad t.fab id = some ld ∧ ld.gid = gid ∧ ld.dst = dst ∧ ld.kind = kind ∧
    ld.pieces.map (fun p => (p.lane, p.data, p.fault)) = ans

/-! ### Counters and queues -/

/-- Only the message `m` is gone, and of the counters only `phys` differs; it is `c`. -/
def CounterIs (s t : State) (m phys : Nat) (c : Counter) : Prop :=
  tfind t.fab.tab.ctrs phys = some c ∧ (∀ x, x ≠ phys → tfind t.fab.tab.ctrs x = tfind s.fab.tab.ctrs x) ∧
  t = { s with fab := { s.fab with net := tdel s.fab.net m, tab := { s.fab.tab with ctrs := t.fab.tab.ctrs } } }

/-- As `CounterIs`, and besides one message entered the net under the next number. -/
def CounterSends (s t : State) (m phys : Nat) (c : Counter) (x : Msg) : Prop :=
  tfind t.fab.tab.ctrs phys = some c ∧ (∀ o, o ≠ phys → tfind t.fab.tab.ctrs o = tfind s.fab.tab.ctrs o) ∧
  t = { s with fab := { s.fab with
    net := tput (tdel s.fab.net m) s.fab.nextId x, nextId := s.fab.nextId + 1, tab := { s.fab.tab with ctrs := t.fab.tab.ctrs } } }

/-- A command of a queue has started, has an opcode, and may act. -/
abbrev Started (s : State) (q j op : Nat) (x : Queue) (c : QCmd) : Prop :=
  findQueue s.fab q = some x ∧ tfind x.cmds j = some c ∧ c.stage = .started ∧ cmdOp c.bytes = op ∧ working s.keel s.fab x.part x.ctx = true

/-- A command of a queue stands as `c`, and every other command as before. -/
def CmdIs (s t : State) (q j : Nat) (c : QCmd) : Prop :=
  findCmd t.fab q j = some c ∧ ∀ q' j', (q' ≠ q ∨ j' ≠ j) → findCmd t.fab q' j' = findCmd s.fab q' j'

/-- A command has acted with a code, and every other command stands as before. -/
def Acted (s t : State) (q j : Nat) (c : QCmd) (code : Nat) : Prop := CmdIs s t q j { c with stage := .acted code }

/-- A command has acted with a code and done nothing else. -/
def ActsOnly (s t : State) (q j : Nat) (c : QCmd) (code : Nat) : Prop :=
  Acted s t q j c code ∧ t = { s with fab := { s.fab with tab := { s.fab.tab with queues := t.fab.tab.queues } } }

/-! ### Registers outside the keel -/

/-- The state with a request's mark noted (15 R427): ACT_DOWNGRADES counts one whose level is not open. -/
def marked (s : State) (m : Mark) : State := { s with fab := noteMark s.keel s.fab m }

/-- The state with the registers of one sail die changed, and nothing else. -/
def withDie (s : State) (die : Nat) (g : DieRegs → DieRegs) : State := { s with fab := modDie s.fab die g }

/-- A write of a register outside the keel arrives: the link carries it and the die is fabricated (15 R435, 00 R13). -/
abbrev Arrives (s : State) (m : Mark) (die : Nat) : Prop := csOpen s.keel s.fab m = true ∧ die < s.keel.sails

/-- Nothing goes on by itself: no autonomous program, no reset for a lost line that is due, and no release, reset or teardown that waits for an epoch. -/
abbrev NoneDue (f : Fab) : Prop :=
  f.tab.progs = [] ∧ f.mem.fatal = [] ∧ f.tab.releases = [] ∧ (∀ r ∈ f.tab.resets, r.2.phase ≠ 2) ∧ ∀ c ∈ f.tab.ctxs, c.2.ending = none

/-- Besides, no read of an agent without cache is in progress. -/
abbrev Quiet (s : State) : Prop := s.fab.jobs = [] ∧ NoneDue s.fab

/-- A message about a line may arrive, and no other request that has arrived waits for the line at its home (11 R322). -/
abbrev HasTurn (s : State) (m : Nat) (l : Line) : Prop :=
  inOrder s.keel s.fab m = true ∧ ∀ x ∈ s.fab.mem.arrived, x ≠ m → homeLine s.fab x ≠ some l

/-- No copy and no eviction-buffer entry of a line has a parity error to find (10 R311). -/
abbrev Intact (s : State) (l : Line) : Prop :=
  (∀ c ∈ s.fab.mem.l2, c.line = l → c.flaw = .ok) ∧ ∀ e ∈ s.fab.mem.evb, e.line = l → e.flaw = false

/-! ### The tether link -/

/-- A flit of a type arrives on an attachment that carries flits, and no control-space access waits (15 R423, R426). -/
abbrev FlitArrives (s : State) (ty att : Nat) (fl : Flit) : Prop :=
  s.keel.on = true ∧ linkUp s.fab = true ∧ att < 2 ∧ s.fab.link.retraining.contains att = false ∧ s.fab.link.csWait = [] ∧ fl.ty = ty

/-- It has the form of its type; where it is a request, the link takes such requests and its tag is free (15 R424, R425, R435). -/
abbrev FlitTaken (s : State) (ty att : Nat) (fl : Flit) : Prop :=
  FlitArrives s ty att fl ∧ flitOk fl = true ∧ (isResponse ty = false → (ty ≠ 0x12 → ty ≠ 0x13 → s.fab.link.quiescing = false) ∧
    tagBad s.fab att fl = false ∧ tfind s.fab.link.dma (att * 4096 + fl.tag) = none)

/-- The fabric once a request has been taken: its tag is in use and its mark noted. -/
def taken (s : State) (att : Nat) (fl : Flit) : Fab := noteMark s.keel (takeTag s.fab att fl) (markOf fl)

/-- A request is answered at once, has no other effect than `free` free values, and its tag is free again. -/
def Answers (s t : State) (att : Nat) (fl : Flit) (ty status : Nat) (data : Word64) (code free : Nat) : Prop :=
  t = { s with fab := { noteMark s.keel s.fab (markOf fl) with
    free := s.fab.free + free, sent := s.fab.sent ++ [.flit att (upFlit ty fl.part status fl.tag fl.w1 data code 0 [])] } }

/-- A request is refused with a STATUS and a code, has no other effect, and its tag is free again. What the `units` data units of its response
hold is open (log 71). -/
def Refused (s t : State) (att : Nat) (fl : Flit) (ty units status code : Nat) : Prop :=
  t = { s with fab := { noteMark s.keel s.fab (markOf fl) with
    free := s.fab.free + 32 * units
    sent := s.fab.sent ++ [.flit att (upFlit ty fl.part status fl.tag fl.w1 0 code 0 (freeBytes s.fab.free (32 * units)))] } }

/-- A DMA access whose mark and operands allow it, and whose place in near memory or LPDDR6 the object check finds (15 R427, 05 R130). -/
abbrev DmaReaches (s : State) (fl : Flit) (u : Use) (align size : Nat) (loc : Loc) : Prop :=
  reachOf s.keel fl ≠ .none ∧ tetherCheck s.keel s.fab fl u align size = .ok loc ∧ loc.kind ≤ 1 ∧ s.keel.power.retention = 0

/-- A response completes the upstream request under its tag, and no other request waits for the tag (15 R425). -/
abbrev Completes (s : State) (att : Nat) (fl : Flit) (w : UpWhat) : Prop :=
  (tfind s.fab.link.upReq (att * 4096 + fl.tag)).map (·.what) = some w ∧ s.fab.link.upWait = []

/-- The tether link without the request under a tag. -/
def withoutUp (s : State) (att : Nat) (fl : Flit) : Link := { s.fab.link with upReq := tdel s.fab.link.upReq (att * 4096 + fl.tag) }

/-- The tether link is lost with a cause: it is down, and nothing that it carried stands (15 R439). -/
def LinkLost (s t : State) (cause timeouts : Nat) : Prop :=
  t.fab.link = { s.fab.link with
    state := 3, lossCause := cause, modUp := 0, modRepaired := t.fab.link.modRepaired, timeouts := timeouts, retraining := [], downTags := []
    csWait := [], dma := [], upReq := [], upWait := [], outWait := [], coPend := [], coAddr := [], notes := [], quiescing := false, quiesced := false }

/-- In-band interrupts leave where they are enabled and the target has its dynamic address (18 R503, 20 R537). -/
def Rings (k k' : Keel) (bs : List Byte) : Prop := k'.out = k.out ++ (if k.i3c.ibi && k.i3c.dyn.isSome then bs.map .ibi else [])

/-! ### The Glinen ports -/

/-- A frame of a type and of good form arrives at a port that is up (16 R449, R451, R452). -/
abbrev FrameDue (s : State) (ty port : Nat) (fr : Frame) : Prop := portUp s.keel s.fab port = true ∧ fr.ty = ty ∧ frameOk fr = true

/-- The fabric once the units of a frame have been counted, and ACKSEQ reported where it is due (16 R444). -/
def came (s : State) (port : Nat) (fr : Frame) : Fab := received s.keel s.fab port fr

/-- A frame that is due and for this device. -/
abbrev ForUs (s : State) (ty port : Nat) (fr : Frame) : Prop := FrameDue s ty port fr ∧ fr.dst = selfOf s.keel

/-- Only the Glinen unit, the frames that leave, and the messages in flight differ; `n` messages came into the net. -/
def OnlyGlinen (s t : State) (n : Nat) : Prop :=
  t = { s with fab := { s.fab with gln := t.fab.gln, sent := t.fab.sent, net := t.fab.net, nextId := s.fab.nextId + n } }

/-- A port stands as `p`, and every other as before. -/
def PortIs (s t : State) (port : Nat) (p : Port) : Prop := portOf t.fab port = p ∧ ∀ o, o ≠ port → portOf t.fab o = portOf s.fab o

/-! ### Power and starts -/

/-- A level actuator stands as `l`, and every other as before (17 R475). -/
def LevelIs (k k' : Keel) (d : Nat) (l : Level) : Prop := levelOf k' d = l ∧ ∀ o, o ≠ d → levelOf k' o = levelOf k o

/-- A stop has begun with one cause, which is latched (17 R485, R488): issue halts at once, every level is 0, nothing is ready, sessions are
closed, an in-band interrupt leaves where the target may send one; a start that ran has ended with code 0x24 (18 R498). -/
def StopsWith (s t : State) (cause : Nat) : Prop :=
  t.keel.power.state = 3 ∧ t.keel.power.stopping = true ∧ t.keel.power.retention = 0 ∧ t.keel.power.stopValid = true ∧
  t.keel.power.stopCause = cause ∧ t.keel.power.stopOthers = 0 ∧ (∀ e ∈ t.keel.power.levels, e.2.level = 0 ∧ e.2.cut = false) ∧
  t.keel.boot.ready = 0 ∧ t.keel.boot.device = false ∧ t.keel.sec.psess = 0 ∧ t.keel.sec.device = false ∧
  (s.keel.start.running = true → t.keel.boot.code = 0x24 ∧ t.keel.start.running = false) ∧
  (s.keel.i3c.ibi = true → s.keel.i3c.dyn.isSome = true → KeelOut.ibi 0x03 ∈ t.keel.out) ∧ t.fab = haltFab s.fab

/-- No stop has been latched by a stop that still stands. -/
abbrev NoStop (s : State) : Prop := ¬ (s.keel.power.stopValid = true ∧ s.keel.power.state = 3)

/-- A start has failed with a code (18 R502): the cause is written, FAILS advances unless the code is 0x04 or 0x24, every domain but the keel's is off and
no rail is requested, and no session is open; the keel retries, 100 ms on, where fewer than three starts failed and RESET_N is high, and is moored where three did, or with 0x04. -/
def FailsWith (s t : State) (code sectionIx detail : Nat) : Prop :=
  t.keel.boot.code = code ∧ t.keel.boot.sectionIx = sectionIx ∧ t.keel.boot.detail = detail ∧
  t.keel.boot.fails = (if code = 0x04 ∨ code = 0x24 then s.keel.boot.fails else min 3 (s.keel.boot.fails + 1)) ∧
  t.keel.power.on = 1 ∧ t.keel.railReq = 0 ∧ t.keel.start.running = false ∧ t.keel.boot.ready = 0 ∧
  t.keel.sec.psess = 0 ∧ t.keel.sec.device = false ∧ t.keel.boot.moored = (s.keel.boot.moored || code == 0x04 || decide (3 ≤ t.keel.boot.fails)) ∧
  t.keel.start.retryAt = (if code ≠ 0x04 ∧ code ≠ 0x24 ∧ t.keel.boot.fails < 3 ∧ s.keel.resetN = true then some s.keel.time else none) ∧
  t.keel.image = s.keel.image ∧ t.keel.fuse = s.keel.fuse ∧ t.keel.nvm = s.keel.nvm ∧ t.fab = darkFab s.fab

/-- The rails that follow are requested on, in their order, where the start stands at its rails (20 R531). -/
def RequestsRails (k k' : Keel) : Prop :=
  if k.start.running && k.start.imageDone && k.start.probeDone && k.coolantOk && !k.power.stopping then
    k'.out = k.out ++ (nextRails k).map .railOn ∧ ∀ r, r < 8 → k'.railReq.getLsbD r = (k.railReq.getLsbD r || (nextRails k).contains r)
  else k' = k

/-- The fuses once the operation of 19 R507 that waits has taken effect. -/
def fusesNow (k : Keel) : Fuses :=
  match k.sec.pend with
  | none => k.fuse
  | some (.takeOwnership x) => { k.fuse with slots := k.fuse.slots ++ [x], lifecycle := 2, activeSlot := k.fuse.slots.length }
  | some .releaseOwnership => { k.fuse with lifecycle := 1 }
  | some .retire => { k.fuse with lifecycle := 3 }

/-- A start begins (18 R501, R502): what waits takes effect, nothing outside the keel goes on, and the NVM is reset and read; with FAILS at 3, and
in BLANK or RETIRED, the keel is moored instead. -/
def StartBegins (k k' : Keel) (f f' : Fab) : Prop :=
  k'.fuse = fusesNow k ∧ k'.sec.pend = none ∧ k'.image = none ∧
  (3 ≤ k.boot.fails → k'.boot.moored = true ∧ k'.start.running = false ∧ k'.boot.fails = k.boot.fails ∧ f' = emptyFab f) ∧
  (k.boot.fails < 3 → (fusesNow k).lifecycle ≠ 1 → (fusesNow k).lifecycle ≠ 2 → k'.boot.moored = true ∧ k'.start.running = false ∧
    k'.boot.code = 0x04 ∧ k'.boot.detail = (fusesNow k).lifecycle ∧ k'.boot.fails = k.boot.fails) ∧
  (k.boot.fails < 3 → (fusesNow k).lifecycle = 1 ∨ (fusesNow k).lifecycle = 2 → k'.start.running = true ∧ k'.start.began = k.time ∧
    k'.start.imageDone = false ∧ k'.start.tried = [] ∧ k'.boot = { Boot.reset with fails := k.boot.fails } ∧ k'.out = k.out ++ [.nvmReset] ∧ f' = emptyFab f)

/-- A partition has failed with a cause (18 R499), unless it was ready or had failed. -/
def PartFailed (k k' : Keel) (p code detail : Nat) : Prop :=
  k.boot.ready.getLsbD p = false → k.boot.failed.getLsbD p = false →
    k'.boot.failed.getLsbD p = true ∧ tfind k'.boot.partCause p = some (code, detail)

/-! ### The mailbox and debug access -/

/-- A mailbox message with an OP arrives (15 R434). -/
abbrev Asks (s : State) (op : Nat) (msg : List Byte) : Prop := s.keel.on = true ∧ msgForm msg = true ∧ numAt msg 0 1 = op

/-- The message is acknowledged, and answered with a STATUS and a body once the keel's last message is acknowledged (15 R434, 18 R504). -/
def Replies (k k' : Keel) (msg : List Byte) (status : Nat) (body : List Byte) : Prop :=
  if k.mboxOut then
    k'.out = k.out ++ [.mboxAck] ∧ k'.mboxOut = true ∧ k'.mboxWait = k.mboxWait ++ [.mbox (answerBytes msg status body)]
  else k'.out = k.out ++ [.mboxAck, .mbox (answerBytes msg status body)] ∧ k'.mboxOut = true ∧ k'.mboxWait = k.mboxWait

/-- It is answered, and nothing else happens. -/
def OnlyReplies (s t : State) (msg : List Byte) (status : Nat) (body : List Byte) : Prop :=
  Replies s.keel t.keel msg status body ∧
  t = { s with keel := { s.keel with out := t.keel.out, mboxOut := t.keel.mboxOut, mboxWait := t.keel.mboxWait } }

/-- Of the keel, apart from its answer, only the part that belongs to security differs; it is `x`. -/
def RepliesWith (s t : State) (msg : List Byte) (status : Nat) (body : List Byte) (x : Sec) : Prop :=
  Replies s.keel t.keel msg status body ∧
  t = { s with keel := { s.keel with out := t.keel.out, mboxOut := t.keel.mboxOut, mboxWait := t.keel.mboxWait, sec := x } }

/-- A write of a keel register arrives, over the tether link or over I3C (00 R13, 18 R503). -/
abbrev KeelWrite (s : State) (m : Mark) : Prop := csOpen s.keel s.fab m = true ∨ (s.keel.on = true ∧ m.i3c = true)

/-- A write of KEEL_DBG_CTRL with one OP arrives while no OPEN runs (19, KEEL_DBG_CTRL). -/
abbrev DbgWrite (s : State) (m : Mark) (v : Word32) (op : Nat) : Prop := KeelWrite s m ∧ v.toNat % 8 = op ∧ s.keel.sec.busy = false

/-- What such a write leaves of the registers: PART is its operand, ERR falls where bit 30 is 1, and RESULT is `result`. -/
def dbgDone (x : Sec) (v : Word32) (result : Nat) : Sec :=
  { x with part := fld v.toNat 8 4, err := x.err && !v.getLsbD 30, result := result }

end Sys2Proof.Machine
end

