-- ==== Sys2Proof/WellFormed.lean ====
section
/-!
DEFINITION. WellFormed.lean: the operands that the largest device of the family has (00 R2, 01 R17 to R20) and the forms of what
arrives from outside. A command that is not well-formed names a unit, a slot or a message that no device of the family can meet.
-/
namespace Sys2Proof

/-- A group slot: 768 cores (01 R17), four sub-cores (03 R52), sixteen slots (03 R54). -/
def GroupAt.wf (g : GroupAt) : Bool := decide (g.core < 768) && decide (g.sub < 4) && decide (g.slot < 16)

/-- The acting mark of 15 R427: ACT of two bits, PART of four. -/
def Mark.wf (m : Mark) : Bool := decide (m.act < 4) && decide (m.part < 16)

/-- A flit carries 0 to 15 data units of 32 bytes (15 R423). -/
def Flit.wf (f : Flit) : Bool := decide (f.data.length % 32 = 0) && decide (f.data.length ≤ 480)

/-- A frame carries data units of 64 bytes (16 R451). -/
def Frame.wf (f : Frame) : Bool := decide (f.data.length % 64 = 0)

/-- The units of 13 R394: 48 clusters, 768 cores, 16 partitions. -/
def EpochUnit.wf : EpochUnit → Bool
  | .copyEngine cluster part => decide (cluster < 48) && decide (part < 16)
  | .routingEngine cluster part => decide (cluster < 48) && decide (part < 16)
  | .coreBinding core => decide (core < 768)

/-- One reading per core rail (17 R469). -/
def RailSample.wf (r : RailSample) : Bool := decide (r.rails.length ≤ 4)

/-- One reading per rail that PMBus telemetry covers (17 R469). -/
def PmbusSample.wf (r : PmbusSample) : Bool := r.rails.length == 10

/-- 12 sensors of each of a sail die's three fields, and 4 of each of its six DRAM dies (17 R481). -/
def TempSample.wf (t : TempSample) : Bool :=
  decide (t.sail.length ≤ 4) && decide (t.dram.length ≤ 4) && t.sail.all (fun x => x.length == 3 && x.all (·.length == 12)) &&
  t.dram.all (fun x => x.length == 6 && x.all (·.length == 4))

/-- A mailbox message carries 8 to 64 bytes in multiples of 8 (15 R434). -/
def mboxLen (msg : List Byte) : Bool := decide (8 ≤ msg.length) && decide (msg.length ≤ 64) && decide (msg.length % 8 = 0)

/-- A command names units that the largest device has. -/
def Instr.wf : Instr → Bool
  | .integerArithmetic g => g.wf
  | .cmp g => g.wf
  | .predicateLogic g => g.wf
  | .mov g => g.wf
  | .movI32 g => g.wf
  | .sel g => g.wf
  | .cvt g => g.wf
  | .xlane g => g.wf
  | .floatArithmetic g => g.wf
  | .sfLookup g => g.wf
  | .sfAccumulate g => g.wf
  | .sfNormalise g => g.wf
  | .sfRowRead g => g.wf
  | .sfStatsAccumulate g => g.wf
  | .sfMean g => g.wf
  | .sfVariance g => g.wf
  | .sfRms g => g.wf
  | .ld g => g.wf
  | .loadComplete _ => true
  | .st g => g.wf
  | .ldTr g => g.wf
  | .atomic g => g.wf
  | .ldRes g => g.wf
  | .stCond g => g.wf
  | .fragLd g => g.wf
  | .fragSt g => g.wf
  | .lockAcq g => g.wf
  | .lockRetryTimeout g _ => g.wf
  | .lockRel g => g.wf
  | .mxIssue g => g.wf
  | .cpIssue g => g.wf
  | .rtIssue g => g.wf
  | .descriptorCaptureComplete _ => true
  | .fence g => g.wf
  | .cntSig g => g.wf
  | .cntCwait g => g.wf
  | .cntOwait g => g.wf
  | .cntSet g => g.wf
  | .cntRd g => g.wf
  | .barBlk g => g.wf
  | .nop g => g.wf
  | .br g => g.wf
  | .brJoin g => g.wf
  | .brInd g => g.wf
  | .call g => g.wf
  | .exit g => g.wf
  | .rdSrc g => g.wf
  | .blockResident core => decide (core < 768)
  | .storeBufferEntryTimeout core sub _ => decide (core < 768) && decide (sub < 4)
  | .storeAck _ => true
  | .parkDrainComplete g => g.wf
  | .replay mark die _ => mark.wf && decide (die < 4)
  | .kill mark die _ => mark.wf && decide (die < 4)
  | .blockKillComplete core _ => decide (core < 768)
  | .snap mark die _ => mark.wf && decide (die < 4)
  | .snapshotComplete die => decide (die < 4)
  | .matrixDescriptorAccept core => decide (core < 768)
  | .tileDecodeComplete core => decide (core < 768)
  | .foldStepEnd core => decide (core < 768)
  | .gapLenExpiry core => decide (core < 768)
  | .ballastRampStep core => decide (core < 768)
  | .shapeChangeBubbleEnd core => decide (core < 768)
  | .matrixComplete core => decide (core < 768)
  | .copyDescriptorAccept cluster => decide (cluster < 48)
  | .copyStepEnd cluster => decide (cluster < 48)
  | .copyWriteAck _ => true
  | .routeDescriptorAccept cluster => decide (cluster < 48)
  | .routingStepEnd cluster => decide (cluster < 48)
  | .gatherComplete cluster expert => decide (cluster < 48) && decide (expert < 4096)
  | .routingComplete cluster => decide (cluster < 48)
  | .counterOpArrival _ => true
  | .waitRequestArrival _ => true
  | .waitReleaseArrival _ => true
  | .pairPartnerReport _ => true
  | .homeReadRequest _ _ => true
  | .homeOwnershipRequest _ _ => true
  | .homeWriteBack _ => true
  | .homeCleanEviction _ => true
  | .forwardedRequest _ => true
  | .forwardNotify _ => true
  | .invalidation _ => true
  | .invalidationAck _ => true
  | .uncachedAgentRead _ _ => true
  | .uncachedAgentWrite _ => true
  | .homeAtomic _ => true
  | .farAtomic _ => true
  | .l2Fill _ _ => true
  | .writeBackAck _ => true
  | .reservationHoldExpiry die _ => decide (die < 4)
  | .memoryRead _ _ => true
  | .patrolScrub _ _ => true
  | .lpddrDriftCompensation ch => decide (ch < 32)
  | .lpddrOnlineRetrain ch => decide (ch < 32)
  | .lpddrRetrainComplete ch _ => decide (ch < 32)
  | .lpddrTemperatureRead ch _ => decide (ch < 32)
  | .lpddrProbeComplete answers => answers.length == 32
  | .lpddrTrainingComplete ch _ => decide (ch < 32)
  | .doorbellRing mark page q _ => mark.wf && decide (page < 16) && decide (q < 4096)
  | .tailReadData _ => true
  | .commandReadData _ => true
  | .commandStart q _ => decide (q < 4096)
  | .commandRetire q _ => decide (q < 4096)
  | .eventRecordAck _ => true
  | .launch q _ => decide (q < 4096)
  | .copy q _ => decide (q < 4096)
  | .matrix q _ => decide (q < 4096)
  | .route q _ => decide (q < 4096)
  | .counterSignal q _ => decide (q < 4096)
  | .counterDecrement q _ => decide (q < 4096)
  | .counterSet q _ => decide (q < 4096)
  | .counterReset q _ => decide (q < 4096)
  | .counterRead q _ => decide (q < 4096)
  | .markCmd q _ => decide (q < 4096)
  | .objCreate q _ => decide (q < 4096)
  | .objChange q _ => decide (q < 4096)
  | .objRetain q _ => decide (q < 4096)
  | .objRelease q _ => decide (q < 4096)
  | .cntAlloc q _ => decide (q < 4096)
  | .cntMap q _ => decide (q < 4096)
  | .cntPair q _ => decide (q < 4096)
  | .cntRelease q _ => decide (q < 4096)
  | .fenceCreate q _ => decide (q < 4096)
  | .fenceFail q _ => decide (q < 4096)
  | .fenceRelease q _ => decide (q < 4096)
  | .ctxCreate q _ => decide (q < 4096)
  | .ctxDestroy q _ => decide (q < 4096)
  | .contextTeardownComplete ctx => decide (ctx < 1024)
  | .queueCreate q _ => decide (q < 4096)
  | .queueDestroy q _ => decide (q < 4096)
  | .partReset q _ => decide (q < 4096)
  | .partitionResetComplete part => decide (part < 16)
  | .epochAdvance unit => unit.wf
  | .sftGo mark die _ => mark.wf && decide (die < 4)
  | .sftImageChecked die => decide (die < 4)
  | .sftPinsCleared die => decide (die < 4)
  | .flagScanStart mark die _ => mark.wf && decide (die < 4)
  | .flagScanComplete die => decide (die < 4)
  | .flagSetClear mark die _ => mark.wf && decide (die < 4)
  | .flagClearAll mark die _ => mark.wf && decide (die < 4)
  | .l2LockApply mark die _ => mark.wf && decide (die < 4)
  | .l2CleanRange mark die _ => mark.wf && decide (die < 4)
  | .l2InvalidateRange mark die _ => mark.wf && decide (die < 4)
  | .l2CleanInvalidateRange mark die _ => mark.wf && decide (die < 4)
  | .l2CleanSetWay mark die _ => mark.wf && decide (die < 4)
  | .l2InvalidateSetWay mark die _ => mark.wf && decide (die < 4)
  | .l2CleanInvalidateSetWay mark die _ => mark.wf && decide (die < 4)
  | .l2MaintenanceComplete die _ => decide (die < 4)
  | .frameInEdge => true
  | .frameDoorbell mark _ => mark.wf
  | .frameEvent _ => true
  | .slotFrameStart die => decide (die < 4)
  | .slotBudgetExpiry die => decide (die < 4)
  | .csRd att f => decide (att < 2) && f.wf
  | .csWr att f => decide (att < 2) && f.wf
  | .dmaRd att f => decide (att < 2) && f.wf
  | .dmaWr att f => decide (att < 2) && f.wf
  | .dmaWrp att f => decide (att < 2) && f.wf
  | .dmaAtom att f => decide (att < 2) && f.wf
  | .coRds att f => decide (att < 2) && f.wf
  | .coOwn att f => decide (att < 2) && f.wf
  | .coWb att f => decide (att < 2) && f.wf
  | .coEvict att f => decide (att < 2) && f.wf
  | .snpRsp att f => decide (att < 2) && f.wf
  | .memRdata att f => decide (att < 2) && f.wf
  | .memWcmp att f => decide (att < 2) && f.wf
  | .tetherResponseTimeout => true
  | .probeAnswer _ _ => true
  | .probeTimeout => true
  | .mboxAck => true
  | .quiesce => true
  | .quiesceDone => true
  | .modulesDown _ => true
  | .linkTrainingComplete _ _ => true
  | .adapterRetryThreshold module => decide (module < 8)
  | .sidebandRetrainRequest att => decide (att < 2)
  | .linkRetrain mark _ => mark.wf
  | .retrainComplete att _ _ => decide (att < 2)
  | .glinenWr port f => decide (port < 6) && f.wf
  | .glinenRd port f => decide (port < 6) && f.wf
  | .glinenAtom port f => decide (port < 6) && f.wf
  | .glinenSig port f => decide (port < 6) && f.wf
  | .xwr port f => decide (port < 6) && f.wf
  | .xend port f => decide (port < 6) && f.wf
  | .transferComplete port _ _ => decide (port < 6)
  | .glinenFrame port f => decide (port < 6) && f.wf
  | .linkctl port f => decide (port < 6) && f.wf
  | .wack port f => decide (port < 6) && f.wf
  | .rdata port f => decide (port < 6) && f.wf
  | .sigack port f => decide (port < 6) && f.wf
  | .xack port f => decide (port < 6) && f.wf
  | .codewordUncorrectable port => decide (port < 6)
  | .portRetrainTrigger port => decide (port < 6)
  | .laneLockLost port lane => decide (port < 6) && decide (lane < 8)
  | .portRetrainComplete port _ => decide (port < 6)
  | .portTrain mark port _ => mark.wf && decide (port < 6)
  | .portTrainingComplete port _ => decide (port < 6)
  | .routeTimeout rte => decide (rte < 64)
  | .frameAgeExpiry port _ => decide (port < 6)
  | .routeEnable mark pdie _ => mark.wf && decide (pdie < 2)
  | .avsbusSample r => r.wf
  | .pmbusSample r => r.wf
  | .voltageStep rail _ => decide (rail < 4)
  | .estimatorUpdate _ => true
  | .powerLimitTimeout => true
  | .levelSlopeStep die field => decide (die < 4) && decide (field < 3)
  | .droopTrip die field => decide (die < 4) && decide (field < 3)
  | .droopCutEnd die field => decide (die < 4) && decide (field < 3)
  | .temperatureSample t => t.wf
  | .dramOvertempExpiry dram => decide (dram < 24)
  | .coolantOkFall => true
  | .stopComplete => true
  | .coolantOkRise => true
  | .powerGoodRise pg => decide (pg < 8)
  | .powerGoodFall pg => decide (pg < 8)
  | .powerGoodTimeout pg => decide (pg < 8)
  | .vddKeelLoss => true
  | .retentionEnter mark _ => mark.wf
  | .retentionEntered => true
  | .retentionExit mark _ => mark.wf
  | .retentionExitComplete => true
  | .resetNRise => true
  | .resetNFall => true
  | .nvmImageRead slot => decide (slot < 2)
  | .bridgeTestComplete _ => true
  | .domainOn d => decide (d < 20)
  | .partitionScrubComplete part => decide (part < 16)
  | .startRetryTimer => true
  | .startTimeout => true
  | .getStatus msg => mboxLen msg
  | .nvmErase msg => mboxLen msg
  | .nvmWrite msg => mboxLen msg
  | .nvmRead msg => mboxLen msg
  | .nvmVerify msg => mboxLen msg
  | .nvmOperationComplete => true
  | .restart msg => mboxLen msg
  | .commitSvn msg => mboxLen msg
  | .challenge msg => mboxLen msg
  | .stage msg => mboxLen msg
  | .takeOwnership msg => mboxLen msg
  | .releaseOwnership msg => mboxLen msg
  | .retire msg => mboxLen msg
  | .raiseDbgSvn msg => mboxLen msg
  | .getCert msg => mboxLen msg
  | .dbgChallenge mark _ => mark.wf
  | .dbgOpen mark _ => mark.wf
  | .deviceSessionScrubComplete => true
  | .tetherZeroAck part => decide (part < 16)
  | .tetherZeroTimeout => true
  | .dbgClose mark _ => mark.wf
  | .closeDevice mark _ => mark.wf
  | .dbgQuiesce mark _ => mark.wf
  | .partitionQuiesced part => decide (part < 16)
  | .dbgResume mark _ => mark.wf
  | .attGo mark _ => mark.wf
  | .attReportDone part => decide (part < 16)
  | .entdaa _ => true
  | .setdasa _ => true
  | .setnewda _ => true
  | .rstdaa => true
  | .enec _ => true
  | .disec _ => true
  | .getpid => true
  | .getbcr => true
  | .getdcr => true
  | .getstatus => true
  | .getmwl => true
  | .getmrl => true
  | .i3cPrivateWrite _ => true
  | .registerWrite mark _ size _ => mark.wf && decide (size = 4 ∨ size = 8)
  | .vddKeelBringUp => true
  | .driftCompensationComplete ch => decide (ch < 32)
  | .creditReturn port vc _ => decide (port < 6) && decide (vc < 4)
  | .openChecksComplete => true


/-- The sail die of a unit with a role epoch. -/
def EpochUnit.die : EpochUnit → Nat
  | .copyEngine cluster _ => cluster / 12
  | .routingEngine cluster _ => cluster / 12
  | .coreBinding core => core / 192

/-- The sail die that a command names by an operand of its own: a die, a core, a cluster, a rail, an LPDDR6 channel, a DRAM die or a
power domain of it (01 R17 to R20, 17 R465). -/
def Instr.die? : Instr → Option Nat
  | .integerArithmetic g => some (g.core / 192)
  | .cmp g => some (g.core / 192)
  | .predicateLogic g => some (g.core / 192)
  | .mov g => some (g.core / 192)
  | .movI32 g => some (g.core / 192)
  | .sel g => some (g.core / 192)
  | .cvt g => some (g.core / 192)
  | .xlane g => some (g.core / 192)
  | .floatArithmetic g => some (g.core / 192)
  | .sfLookup g => some (g.core / 192)
  | .sfAccumulate g => some (g.core / 192)
  | .sfNormalise g => some (g.core / 192)
  | .sfRowRead g => some (g.core / 192)
  | .sfStatsAccumulate g => some (g.core / 192)
  | .sfMean g => some (g.core / 192)
  | .sfVariance g => some (g.core / 192)
  | .sfRms g => some (g.core / 192)
  | .ld g => some (g.core / 192)
  | .loadComplete _ => none
  | .st g => some (g.core / 192)
  | .ldTr g => some (g.core / 192)
  | .atomic g => some (g.core / 192)
  | .ldRes g => some (g.core / 192)
  | .stCond g => some (g.core / 192)
  | .fragLd g => some (g.core / 192)
  | .fragSt g => some (g.core / 192)
  | .lockAcq g => some (g.core / 192)
  | .lockRetryTimeout g _ => some (g.core / 192)
  | .lockRel g => some (g.core / 192)
  | .mxIssue g => some (g.core / 192)
  | .cpIssue g => some (g.core / 192)
  | .rtIssue g => some (g.core / 192)
  | .descriptorCaptureComplete _ => none
  | .fence g => some (g.core / 192)
  | .cntSig g => some (g.core / 192)
  | .cntCwait g => some (g.core / 192)
  | .cntOwait g => some (g.core / 192)
  | .cntSet g => some (g.core / 192)
  | .cntRd g => some (g.core / 192)
  | .barBlk g => some (g.core / 192)
  | .nop g => some (g.core / 192)
  | .br g => some (g.core / 192)
  | .brJoin g => some (g.core / 192)
  | .brInd g => some (g.core / 192)
  | .call g => some (g.core / 192)
  | .exit g => some (g.core / 192)
  | .rdSrc g => some (g.core / 192)
  | .blockResident core => some (core / 192)
  | .storeBufferEntryTimeout core _ _ => some (core / 192)
  | .storeAck _ => none
  | .parkDrainComplete g => some (g.core / 192)
  | .replay _ die _ => some die
  | .kill _ die _ => some die
  | .blockKillComplete core _ => some (core / 192)
  | .snap _ die _ => some die
  | .snapshotComplete die => some die
  | .matrixDescriptorAccept core => some (core / 192)
  | .tileDecodeComplete core => some (core / 192)
  | .foldStepEnd core => some (core / 192)
  | .gapLenExpiry core => some (core / 192)
  | .ballastRampStep core => some (core / 192)
  | .shapeChangeBubbleEnd core => some (core / 192)
  | .matrixComplete core => some (core / 192)
  | .copyDescriptorAccept cluster => some (cluster / 12)
  | .copyStepEnd cluster => some (cluster / 12)
  | .copyWriteAck _ => none
  | .routeDescriptorAccept cluster => some (cluster / 12)
  | .routingStepEnd cluster => some (cluster / 12)
  | .gatherComplete cluster _ => some (cluster / 12)
  | .routingComplete cluster => some (cluster / 12)
  | .counterOpArrival _ => none
  | .waitRequestArrival _ => none
  | .waitReleaseArrival _ => none
  | .pairPartnerReport _ => none
  | .homeReadRequest _ _ => none
  | .homeOwnershipRequest _ _ => none
  | .homeWriteBack _ => none
  | .homeCleanEviction _ => none
  | .forwardedRequest _ => none
  | .forwardNotify _ => none
  | .invalidation _ => none
  | .invalidationAck _ => none
  | .uncachedAgentRead _ _ => none
  | .uncachedAgentWrite _ => none
  | .homeAtomic _ => none
  | .farAtomic _ => none
  | .l2Fill _ _ => none
  | .writeBackAck _ => none
  | .reservationHoldExpiry die _ => some die
  | .memoryRead _ _ => none
  | .patrolScrub _ _ => none
  | .lpddrDriftCompensation ch => some (ch / 8)
  | .lpddrOnlineRetrain ch => some (ch / 8)
  | .lpddrRetrainComplete ch _ => some (ch / 8)
  | .lpddrTemperatureRead ch _ => some (ch / 8)
  | .lpddrProbeComplete _ => none
  | .lpddrTrainingComplete ch _ => some (ch / 8)
  | .doorbellRing _ _ _ _ => none
  | .tailReadData _ => none
  | .commandReadData _ => none
  | .commandStart _ _ => none
  | .commandRetire _ _ => none
  | .eventRecordAck _ => none
  | .launch _ _ => none
  | .copy _ _ => none
  | .matrix _ _ => none
  | .route _ _ => none
  | .counterSignal _ _ => none
  | .counterDecrement _ _ => none
  | .counterSet _ _ => none
  | .counterReset _ _ => none
  | .counterRead _ _ => none
  | .markCmd _ _ => none
  | .objCreate _ _ => none
  | .objChange _ _ => none
  | .objRetain _ _ => none
  | .objRelease _ _ => none
  | .cntAlloc _ _ => none
  | .cntMap _ _ => none
  | .cntPair _ _ => none
  | .cntRelease _ _ => none
  | .fenceCreate _ _ => none
  | .fenceFail _ _ => none
  | .fenceRelease _ _ => none
  | .ctxCreate _ _ => none
  | .ctxDestroy _ _ => none
  | .contextTeardownComplete _ => none
  | .queueCreate _ _ => none
  | .queueDestroy _ _ => none
  | .partReset _ _ => none
  | .partitionResetComplete _ => none
  | .epochAdvance unit => some unit.die
  | .sftGo _ die _ => some die
  | .sftImageChecked die => some die
  | .sftPinsCleared die => some die
  | .flagScanStart _ die _ => some die
  | .flagScanComplete die => some die
  | .flagSetClear _ die _ => some die
  | .flagClearAll _ die _ => some die
  | .l2LockApply _ die _ => some die
  | .l2CleanRange _ die _ => some die
  | .l2InvalidateRange _ die _ => some die
  | .l2CleanInvalidateRange _ die _ => some die
  | .l2CleanSetWay _ die _ => some die
  | .l2InvalidateSetWay _ die _ => some die
  | .l2CleanInvalidateSetWay _ die _ => some die
  | .l2MaintenanceComplete die _ => some die
  | .frameInEdge => none
  | .frameDoorbell _ _ => none
  | .frameEvent _ => none
  | .slotFrameStart die => some die
  | .slotBudgetExpiry die => some die
  | .csRd _ _ => none
  | .csWr _ _ => none
  | .dmaRd _ _ => none
  | .dmaWr _ _ => none
  | .dmaWrp _ _ => none
  | .dmaAtom _ _ => none
  | .coRds _ _ => none
  | .coOwn _ _ => none
  | .coWb _ _ => none
  | .coEvict _ _ => none
  | .snpRsp _ _ => none
  | .memRdata _ _ => none
  | .memWcmp _ _ => none
  | .tetherResponseTimeout => none
  | .probeAnswer _ _ => none
  | .probeTimeout => none
  | .mboxAck => none
  | .quiesce => none
  | .quiesceDone => none
  | .modulesDown _ => none
  | .linkTrainingComplete _ _ => none
  | .adapterRetryThreshold _ => none
  | .sidebandRetrainRequest _ => none
  | .linkRetrain _ _ => none
  | .retrainComplete _ _ _ => none
  | .glinenWr _ _ => none
  | .glinenRd _ _ => none
  | .glinenAtom _ _ => none
  | .glinenSig _ _ => none
  | .xwr _ _ => none
  | .xend _ _ => none
  | .transferComplete _ _ _ => none
  | .glinenFrame _ _ => none
  | .linkctl _ _ => none
  | .wack _ _ => none
  | .rdata _ _ => none
  | .sigack _ _ => none
  | .xack _ _ => none
  | .codewordUncorrectable _ => none
  | .portRetrainTrigger _ => none
  | .laneLockLost _ _ => none
  | .portRetrainComplete _ _ => none
  | .portTrain _ _ _ => none
  | .portTrainingComplete _ _ => none
  | .routeTimeout _ => none
  | .frameAgeExpiry _ _ => none
  | .routeEnable _ _ _ => none
  | .avsbusSample _ => none
  | .pmbusSample _ => none
  | .voltageStep rail _ => some rail
  | .estimatorUpdate _ => none
  | .powerLimitTimeout => none
  | .levelSlopeStep die _ => some die
  | .droopTrip die _ => some die
  | .droopCutEnd die _ => some die
  | .temperatureSample _ => none
  | .dramOvertempExpiry dram => some (dram / 6)
  | .coolantOkFall => none
  | .stopComplete => none
  | .coolantOkRise => none
  | .powerGoodRise _ => none
  | .powerGoodFall _ => none
  | .powerGoodTimeout _ => none
  | .vddKeelLoss => none
  | .retentionEnter _ _ => none
  | .retentionEntered => none
  | .retentionExit _ _ => none
  | .retentionExitComplete => none
  | .resetNRise => none
  | .resetNFall => none
  | .nvmImageRead _ => none
  | .bridgeTestComplete _ => none
  | .domainOn d => if d < 4 then none else some ((d - 4) / 4)
  | .partitionScrubComplete _ => none
  | .startRetryTimer => none
  | .startTimeout => none
  | .getStatus _ => none
  | .nvmErase _ => none
  | .nvmWrite _ => none
  | .nvmRead _ => none
  | .nvmVerify _ => none
  | .nvmOperationComplete => none
  | .restart _ => none
  | .commitSvn _ => none
  | .challenge _ => none
  | .stage _ => none
  | .takeOwnership _ => none
  | .releaseOwnership _ => none
  | .retire _ => none
  | .raiseDbgSvn _ => none
  | .getCert _ => none
  | .dbgChallenge _ _ => none
  | .dbgOpen _ _ => none
  | .deviceSessionScrubComplete => none
  | .tetherZeroAck _ => none
  | .tetherZeroTimeout => none
  | .dbgClose _ _ => none
  | .closeDevice _ _ => none
  | .dbgQuiesce _ _ => none
  | .partitionQuiesced _ => none
  | .dbgResume _ _ => none
  | .attGo _ _ => none
  | .attReportDone _ => none
  | .entdaa _ => none
  | .setdasa _ => none
  | .setnewda _ => none
  | .rstdaa => none
  | .enec _ => none
  | .disec _ => none
  | .getpid => none
  | .getbcr => none
  | .getdcr => none
  | .getstatus => none
  | .getmwl => none
  | .getmrl => none
  | .i3cPrivateWrite _ => none
  | .registerWrite _ _ _ _ => none
  | .vddKeelBringUp => none
  | .driftCompensationComplete ch => some (ch / 8)
  | .creditReturn _ _ _ => none
  | .openChecksComplete => none

end Sys2Proof
end

