-- ==== Sys2Proof/Certificates/Slice0/Obligations.lean ====
section
/-!
DEFINITION. Obligations.lean: the statements for the provers. Each says what a command does to a device in which its event is due, and what it leaves
alone; the last ones are about every command at once.
-/
open Sys2Proof Sys2Proof.Machine

/-- 04 R100, R90, R91: integer instructions, comparisons, predicate logic, `mov`, `sel` and `xlane` write one result per active lane and nothing else: no
numeric flag, no memory, no other group. What the manual leaves open is the model's choice: the sources of predicate logic are the predicates that SA
and SB name (log 28), a shift by 32 or more gives a free value of its operands (log 29), and so does a value above 1 that goes to a predicate (log 28). -/
def Obligations.LaneResults : Prop := ∀ (s : State) (a : GroupAt) (i : Iss),
  (Issues s a .integer i → ∃ t, exec (.integerArithmetic a) s = .next t ∧ LaneWrite s t i (aDk i.w) (aDst i.w) fun l =>
    intResult (xOpc i.w) (aTy i.w) (aSat i.w) (srcA i.g i.w l) (srcB i.g i.w l) (srcC i.g i.w l)) ∧
  (Issues s a .cmp i → ∃ t, exec (.cmp a) s = .next t ∧ LaneWrite s t i (aDk i.w) (aDst i.w) fun l =>
    if cmpResult (xOpc i.w) (aTy i.w) (srcA i.g i.w l) (srcB i.g i.w l) then 1 else 0) ∧
  (Issues s a .pred i → ∃ t, exec (.predicateLogic a) s = .next t ∧ LaneWrite s t i 2 (aDst i.w) fun l =>
    if predResult (xOpc i.w) (pget i.g (aSa i.w) l) (pget i.g (aSb i.w) l) then 1 else 0) ∧
  (Issues s a .mov i → ∃ t, exec (.mov a) s = .next t ∧ LaneWrite s t i (aDk i.w) (aDst i.w) fun l =>
    toDst (aDk i.w) (srcA i.g i.w l)) ∧
  (Issues s a .movI32 i → ∃ t, exec (.movI32 a) s = .next t ∧ LaneWrite s t i (xf i.w 6 2) (aDst i.w) fun _ => xf i.w 8 32) ∧
  (Issues s a .sel i → ∃ t, exec (.sel a) s = .next t ∧ LaneWrite s t i (aDk i.w) (aDst i.w) fun l =>
    toDst (aDk i.w) (if pget i.g (aSa i.w) l then srcB i.g i.w l else srcC i.g i.w l)) ∧
  (Issues s a .xlane i → ∃ t, exec (.xlane a) s = .next t ∧ LaneWrite s t i 0 (aDst i.w) fun l =>
    (vget i.g (aSa i.w) (srcB i.g i.w l % 32)).toNat)

/-- 08 R247 to R251, 09 R261: floating-point instructions, conversions and table lookups write one result per active lane and OR the flags
of the lanes into the sub-core's set of the partition. -/
def Obligations.FlaggedResults : Prop := ∀ (s : State) (a : GroupAt) (i : Iss),
  (Issues s a .float i → ∃ t, exec (.floatArithmetic a) s = .next t ∧ FlagWrite s t i (aDk i.w) fun l =>
    floatOp (xOpc i.w) (aTy i.w) (aRnd i.w) (srcA i.g i.w l) (srcB i.g i.w l) (srcC i.g i.w l)) ∧
  (Issues s a .cvt i → ∃ t, exec (.cvt a) s = .next t ∧ FlagWrite s t i (aDk i.w) fun l => cvtLane i.w (srcA i.g i.w l)) ∧
  (∀ src, Issues s a .sfLookup i → sftFor s.keel s.fab i.die (xOpc i.w - 0x80) i.g.part = some src →
    ∃ t, exec (.sfLookup a) s = .next t ∧ FlagWrite s t i 0 fun l =>
      packElems (sfCount i.w) ((List.range (sfCount i.w)).map fun e =>
        sfElem src (sfFmt i.w) (elemOf (sfCount i.w) e (srcA i.g i.w l))))

/-- 09 R256, R274 to R283: the row instructions. Accumulation takes the elements in ascending lane and element order into the row state, after
clearing it where CLR asks, and writes the clamped elements, or for statistics the input; normalising writes the row's shares, and an empty row
marks its bit of DEAD and records EMPTY_ROW; a row read writes the log-sum, or DEAD, which CLR then clears; a statistic writes one value to every
element, and an empty row records EMPTY_ROW. With no active lane the instruction only goes on. Each value that is written is the conversion to the
format of one that lies within the manual's error of the exact value of the row: of e^x ÷ SUM for a normalised element, of ln SUM, and of the mean, the
variance and the RMS (09 R281, R283). Which value it is within that error is free (log 16). -/
def Obligations.RowResults : Prop := (∀ (s : State) (a : GroupAt) (i : Iss) (r : RowState), r = i.g.row →
  (Issues s a .sfAcc i → i.act ≠ 0 → ∃ t, exec (.sfAccumulate a) s = .next t ∧
    RowWrite s t i (rowRun rowAccumulate (rowStart i) (rowElems i)).1 (rowRun rowAccumulate (rowStart i) (rowElems i)).2
      fun l => (mapElems i (accElem (sfFmt i.w)) l).1) ∧
  (Issues s a .sfSacc i → i.act ≠ 0 → ∃ t, exec (.sfStatsAccumulate a) s = .next t ∧
    RowWrite s t i (rowRun statsAccumulate (rowStart i) (rowElems i)).1 (rowRun statsAccumulate (rowStart i) (rowElems i)).2 (srcA i.g i.w)) ∧
  (∀ val, Issues s a .sfNorm i → i.act ≠ 0 → val = mapElems i (normElem (sfFmt i.w) r) → ∃ t, exec (.sfNormalise a) s = .next t ∧
    RowWrite s t i (if r.live = 0 then { r with dead := r.dead ||| laneBit (fld (aImm i.w) 5 5) } else r)
      (if r.live = 0 then laneFlags i val ||| fEmptyRow else laneFlags i val) fun l => (val l).1) ∧
  (Issues s a .sfRead i → i.act ≠ 0 → ∃ t, exec (.sfRowRead a) s = .next t ∧
    if bitAt (aImm i.w) 3 then RowWrite s t i (if bitAt (aImm i.w) 4 then { r with dead := 0 } else r) 0 fun _ => r.dead.toNat
    else RowWrite s t i r (everyElem i (rowLogSum r)).2 fun _ => (everyElem i (rowLogSum r)).1) ∧
  (∀ c ∈ [(XClass.sfMean, Instr.sfMean a), (.sfVar, .sfVariance a), (.sfRms, .sfRms a)], ∀ y, Issues s a c.1 i → i.act ≠ 0 →
    y = everyElem i (rowStatistic r (aImm i.w % 8)) → ∃ t, exec c.2 s = .next t ∧
      RowWrite s t i r (if r.cnt = 0 then y.2 ||| fEmptyRow else y.2) fun _ => y.1) ∧
  (∀ c ∈ [(XClass.sfAcc, Instr.sfAccumulate a), (.sfSacc, .sfStatsAccumulate a), (.sfNorm, .sfNormalise a), (.sfRead, .sfRowRead a),
      (.sfMean, .sfMean a), (.sfVar, .sfVariance a), (.sfRms, .sfRms a)], Issues s a c.1 i → i.act = 0 →
    ∃ t, exec c.2 s = .next t ∧ GoesTo s t i (i.p.pc + 8))) ∧
  (∀ (r : RowState) (x : Machine.Num) (t : Fmt) (v s s' : Nat) (e e' : Int), r.live ≠ 0 → r.sum = .fin false s e → r.exactSum = .fin false s' e' →
    x = decodeNum t v → (rowInput x).1 = false → x.isNan = false →
      normElem t r v = ((elemIn t (rowNormalise r x).1).1, (rowInput x).2.2 ||| (elemIn t (rowNormalise r x).1).2) ∧
      Within (rowNormalise r x).1 (quoNum (expNum (rowInput x).2.1) r.exactSum) (mulE (quoNum (expNum (rowInput x).2.1) r.exactSum) (rowError r))) ∧
  (∀ (r : RowState) (s s' : Nat) (e e' : Int), r.live ≠ 0 → r.sum = .fin false s e → r.exactSum = .fin false s' e' →
    Within (rowLogSum r) (ofFx (lnFx s' e')) (rowError r)) ∧
  ∀ (r : RowState) (mode : Nat) (n1 : Bool) (s1 s2 a1 a2 b : Nat) (m1 : Bool) (e1 e2 x1 x2 y : Int), mode ∈ [5, 6, 7] → r.cnt ≠ 0 →
    r.s1 = .fin n1 s1 e1 → r.s2 = .fin false s2 e2 → r.exact1 = .fin m1 a1 x1 → r.exact2 = .fin false a2 x2 → r.exactAbs = .fin false b y →
    Within (rowStatistic r mode) (exactStat r mode).1 (exactStat r mode).2

/-- 04 R96, R97, 03 R67: `nop` and branches that all lanes of the path take alike move the path and change nothing else; `call` also leaves
the return address in the LINK pair of each active lane, and with no active lane goes on behind itself. Where the guard of `call` is true in some lanes
only, the whole path moves (log 57). The path stands at its new address where that is not its join address and no path of the group waits at its own. -/
def Obligations.UniformControl : Prop := ∀ (s : State) (a : GroupAt) (i : Iss),
  (Issues s a .nop i → ∃ t, exec (.nop a) s = .next t ∧ GoesTo s t i (i.p.pc + 8)) ∧
  (∀ c ∈ [(XClass.br, Instr.br a), (.brJoin, .brJoin a)], Issues s a c.1 i → i.p.mask ≠ 0 →
    (∀ l ∈ lanes i.p.mask, i.act.getLsbD l = true) → ∃ t, exec c.2 s = .next t ∧ GoesTo s t i (wordsFrom i.p.pc (cTarget i.w))) ∧
  (∀ c ∈ [(XClass.br, Instr.br a), (.brJoin, .brJoin a), (.brInd, .brInd a)], Issues s a c.1 i → i.p.mask ≠ 0 →
    (∀ l ∈ lanes i.p.mask, i.act.getLsbD l = false) → ∃ t, exec c.2 s = .next t ∧ GoesTo s t i (i.p.pc + 8)) ∧
  (∀ to_, Issues s a .brInd i → i.p.mask ≠ 0 →
    (∀ l ∈ lanes i.p.mask, i.act.getLsbD l = true ∧ vpair i.g (mD i.w) l = to_) →
    ∃ t, exec (.brInd a) s = .next t ∧ GoesTo s t i to_) ∧
  (Issues s a .call i → i.act = 0 → ∃ t, exec (.call a) s = .next t ∧ GoesTo s t i (i.p.pc + 8)) ∧
  (Issues s a .call i → i.act ≠ 0 → ∃ t g', exec (.call a) s = .next t ∧ OnlyGroup s t i.gid ∧
    t.fab.cores.flags = s.fab.cores.flags ∧ findGroup t.fab i.gid = some g' ∧ SameButRegs i.issued g' ∧
    StandsAt i g' (wordsFrom i.p.pc (cTarget i.w)) ∧ g'.ureg = i.g.ureg ∧ g'.preg = i.g.preg ∧
    (∀ l, l < 32 → i.act.getLsbD l = true → vpair g' (xf i.w 16 8) l = i.p.pc + 8) ∧
    ∀ r l, l < 32 → (r ≠ xf i.w 16 8 ∧ r ≠ xf i.w 16 8 + 1 ∨ i.act.getLsbD l = false) → vget g' r l = vget i.g r l)

/-- 03 R67: a branch that the lanes of a path do not take alike splits the only path of a group in two, at target and next address, both with
the named join address in force; the path at the lower address runs and the other is ready. Holds where neither stands at the join. -/
def Obligations.Divergence : Prop := ∀ (s : State) (a : GroupAt) (i : Iss) (j tgt : Word64),
  Issues s a .brJoin i → i.g.paths = [(i.key, i.p)] → i.act ≠ 0 → i.p.mask &&& ~~~i.act ≠ 0 →
  cJoin i.w ≠ 0 → j = wordsFrom i.p.pc (cJoin i.w) → tgt = wordsFrom i.p.pc (cTarget i.w) →
  tgt ≠ i.p.pc + 8 → tgt ≠ j → i.p.pc + 8 ≠ j →
  ∃ t g' joins, exec (.brJoin a) s = .next t ∧ OnlyGroup s t i.gid ∧ findGroup t.fab i.gid = some g' ∧ SameButPaths i.issued g' ∧
    joins = (if i.p.joins.head? = some j then i.p.joins else j :: i.p.joins) ∧
    g'.paths = (if tgt.toNat < (i.p.pc + 8).toNat then
      [(0, { pc := tgt, mask := i.act, joins := joins, st := .running, back := 0 }),
       (1, { pc := i.p.pc + 8, mask := i.p.mask &&& ~~~i.act, joins := joins, st := .ready, back := 0 })]
    else
      [(0, { pc := i.p.pc + 8, mask := i.p.mask &&& ~~~i.act, joins := joins, st := .running, back := 0 }),
       (1, { pc := tgt, mask := i.act, joins := joins, st := .ready, back := 0 })])

/-- 03 R68: of a group's two paths with one join address in force, one waits there; when `nop` brings the other there too, they become one path again,
with the lanes of both and the join address that was in force before. -/
def Obligations.PathsMerge : Prop := ∀ (s : State) (a : GroupAt) (i : Iss) (k : Nat) (q : Machine.Path) (js : List Word64),
  Issues s a .nop i → k ≠ i.key → i.p.joins = (i.p.pc + 8) :: js → q.joins = i.p.joins → q.pc = i.p.pc + 8 → q.st = .arrived →
  i.g.paths = (if k < i.key then [(k, q), (i.key, i.p)] else [(i.key, i.p), (k, q)]) → js.head? ≠ some (i.p.pc + 8) →
  ∃ t g' key mask, exec (.nop a) s = .next t ∧ OnlyGroup s t i.gid ∧ findGroup t.fab i.gid = some g' ∧
    g' = { i.issued with paths := [(key, { pc := i.p.pc + 8, mask := mask, joins := js, st := .running, back := 0 })] } ∧
    mask = i.p.mask ||| q.mask

/-- 04 R97, 03 R57: `exit` ends the active lanes. The other lanes of the path go on; where no lane is left of a group's only path, the group has no
path any more and has ended, and nothing of memory changes but that its reservations are lost. -/
def Obligations.ExitEndsLanes : Prop := ∀ (s : State) (a : GroupAt) (i : Iss), Issues s a .exit i → i.act ≠ 0 →
  (i.p.mask &&& ~~~i.act ≠ 0 → ∃ t g', exec (.exit a) s = .next t ∧ OnlyGroup s t i.gid ∧ t.fab.cores.flags = s.fab.cores.flags ∧
    findGroup t.fab i.gid = some g' ∧ SameButPaths i.issued g' ∧
    PathAt i.g g' i.key { i.p with mask := i.p.mask &&& ~~~i.act, pc := i.p.pc + 8 }) ∧
  (i.p.mask &&& ~~~i.act = 0 → i.g.paths = [(i.key, i.p)] → ∃ t, exec (.exit a) s = .next t ∧
    (∀ g', findGroup t.fab i.gid = some g' → g'.paths = []) ∧ t.keel = s.keel ∧ t.pending = s.pending ∧
    t.fab.mem = { s.fab.mem with resv := t.fab.mem.resv, failedLane := t.fab.mem.failedLane })

/-- 04 R98, R99: `rd.src` reads a special source: identifiers of lane, slot, sub-core, core, cluster, block, group, context and partition, GSTATUS,
which bit CLR clears, or a time counter into an even pair. -/
def Obligations.SpecialSources : Prop := ∀ (s : State) (a : GroupAt) (i : Iss), Issues s a .rdSrc i → i.act ≠ 0 →
  ∃ t g', exec (.rdSrc a) s = .next t ∧ OnlyGroup s t i.gid ∧ t.fab.cores.flags = s.fab.cores.flags ∧
    findGroup t.fab i.gid = some g' ∧ StandsAt i g' (i.p.pc + 8) ∧
    SameButRegs { i.issued with gstatus := if i.w.getLsbD 29 then 0 else i.g.gstatus } g' ∧
    (xf i.w 32 8 < 0x10 → Wrote i.g g' i.act (xf i.w 30 2) (mD i.w) (srcValue (noteIssue s.fab i.gid i.g.level) i (xf i.w 32 8))) ∧
    (0x10 ≤ xf i.w 32 8 → upair g' (mD i.w) = BitVec.ofNat 64 (srcValue (noteIssue s.fab i.gid i.g.level) i (xf i.w 32 8) 0) ∧
      g'.vreg = i.g.vreg ∧ g'.preg = i.g.preg ∧ ∀ r, r ≠ mD i.w → r ≠ mD i.w + 1 → uget g' r = uget i.g r)

/-- 03 R74, R77, R81, 04 R86, R88, R97, R102, R113, 09 R261: an instruction that faults at issue parks its group with the code of the fault and has no
effect in any lane. For every row by which a group issues: with 0x0105 where the object check of the instruction's address fails (log 65: a misaligned
address too), with 0x0209 where its bytes cannot be read from near memory, with 0x0101 where the word is undefined, with 0x0102 where a word of the
row's class names a vector register that the group does not have. A divergent `br` or `br.ind` with no join address parks with 0x0104, an engine issue whose descriptor is not in
local memory of the context with 0x0106, a lookup in a table without a loaded bank with 0x0108, an unmapped counter with 0x0401. Stated of a group
without store-buffer entries, whose stores have nothing left to drain. -/
def Obligations.IssueFaultsPark : Prop := ∀ (s : State) (a : GroupAt) (i : Iss), entriesOf s.fab (GroupAtGid a) = [] →
  (∀ r ∈ issuingRows a, ∀ g key p, Picks s a g key p →
    (∀ e, checkAt s.fab g.part none .fetch p.pc 8 8 = .error e →
      ∃ t, exec r.2 s = .next t ∧ Parks s t (GroupAtGid a) { p.stand key p.mask with fetched := false } 0x0105 0 (lanes p.mask)) ∧
    (∀ loc, checkAt s.fab g.part none .fetch p.pc 8 8 = .ok loc → (cached s.keel loc = true → flawAt s.fab (lineOf loc) = none) →
      (peek s.keel s.fab loc 8).2 = true →
      ∃ t, exec r.2 s = .next t ∧ Parks s t (GroupAtGid a) { p.stand key p.mask with fetched := false } 0x0209 0 (lanes p.mask)) ∧
    (∀ w, fetch s.keel s.fab g.part p.pc = .word w → xClass w = none → faultable g w p ≠ 0 →
      ∃ t, exec r.2 s = .next t ∧ Parks s t (GroupAtGid a) (p.stand key (faultable g w p)) 0x0101 0 (lanes (faultable g w p))) ∧
    (∀ w, fetch s.keel s.fab g.part p.pc = .word w → xClass w = some r.1 → faultable g w p ≠ 0 → (xVregs r.1 w).any (g.nregs ≤ ·) = true →
      ∃ t, exec r.2 s = .next t ∧ Parks s t (GroupAtGid a) (p.stand key (faultable g w p)) 0x0102 0 (lanes (faultable g w p)))) ∧
  (Issues s a .br i → cJoin i.w = 0 → i.act ≠ 0 → i.p.mask &&& ~~~i.act ≠ 0 → wordsFrom i.p.pc (cTarget i.w) ≠ i.p.pc + 8 →
    ∃ t, exec (.br a) s = .next t ∧ Parks s t i.gid i.stand 0x0104 0 (lanes i.p.mask)) ∧
  (∀ l l', Issues s a .brInd i → cJoin i.w = 0 → i.act = i.p.mask → l ∈ lanes i.act → l' ∈ lanes i.act → vpair i.g (mD i.w) l ≠ vpair i.g (mD i.w) l' →
    ∃ t, exec (.brInd a) s = .next t ∧ Parks s t i.gid i.stand 0x0104 0 (lanes i.p.mask)) ∧
  (∀ c ∈ [(XClass.mxIssue, EngKind.matrix, Instr.mxIssue a), (.cpIssue, .copy, .cpIssue a), (.rtIssue, .routing, .rtIssue a)],
    Issues s a c.1 i → i.act ≠ 0 → descCheck s.fab i c.2.1 (descAddr i) = none →
    ∃ t, exec c.2.2 s = .next t ∧ Parks s t i.gid i.stand 0x0106 (descAddr i) (lanes i.act)) ∧
  (Issues s a .sfLookup i → i.act ≠ 0 → sftFor s.keel s.fab i.die (xOpc i.w - 0x80) i.g.part = none →
    ∃ t, exec (.sfLookup a) s = .next t ∧ Parks s t i.gid i.stand 0x0108 0 (lanes i.act)) ∧
  (∀ c ∈ [(XClass.cntSig, Right.sig, Instr.cntSig a), (.cntCwait, .cw, .cntCwait a), (.cntOwait, .ow, .cntOwait a),
      (.cntSet, .set_, .cntSet a), (.cntRd, .rd, .cntRd a)],
    Issues s a c.1 i → i.act ≠ 0 → translate s.fab i.g.ctx (syncCid i.g i.w) c.2.1 = none →
    ∃ t, exec c.2.2 s = .next t ∧ Parks s t i.gid i.stand 0x0401 0 (lanes i.act))

/-- 04 R109 to R111: a fence whose guarantee holds lets its path go on at once; one at device or system scope that acquires invalidates the
partition's L1 lines of the core, and nothing else of memory changes. A fence whose guarantee does not hold yet makes the path wait. Stated of a
group without store-buffer entries. -/
def Obligations.FenceCompletes : Prop := ∀ (s : State) (a : GroupAt) (i : Iss), Issues s a .fence i → i.act ≠ 0 →
  entriesOf s.fab i.gid = [] → KeysDistinct i.g →
  (fenceHolds s.fab i.gid i.g i.p.mask (yScope i.w) (yKind i.w) = true → ∃ t, exec (.fence a) s = .next t ∧
    GoesTo { s with fab := { s.fab with mem := t.fab.mem } } t i (i.p.pc + 8) ∧
    t.fab.mem = { s.fab.mem with
      l1 := if yKind i.w ≠ 1 ∧ 2 ≤ yScope i.w then s.fab.mem.l1.filter (fun x => !(x.core == coreOfGid i.gid && x.part == i.g.part)) else s.fab.mem.l1 }) ∧
  (fenceHolds s.fab i.gid i.g i.p.mask (yScope i.w) (yKind i.w) = false → ∃ t g', exec (.fence a) s = .next t ∧
    OnlyGroup s t i.gid ∧ findGroup t.fab i.gid = some g' ∧ SameButPaths i.issued g' ∧
    WaitsAt i g' (i.p.pc + 8) (.waitFence (yScope i.w) (yKind i.w) .next))

/-- 04 R114, R116: `cnt.sig` and `cnt.set` whose release holds send their operation to the counter and go on (a signal of 0 sends nothing);
`cnt.rd` asks for the value and waits for it; `cnt.cwait` and `cnt.owait` take a wait slot, send a request and wait (04 R115, 12 R358). -/
def Obligations.CounterInstructions : Prop := ∀ (s : State) (a : GroupAt) (i : Iss) (phys : Nat), i.act ≠ 0 → KeysDistinct i.g →
  (Issues s a .cntSig i → translate s.fab i.g.ctx (syncCid i.g i.w) .sig = some phys → entriesOf s.fab i.gid = [] →
    fenceHolds s.fab i.gid i.g i.p.mask (yScope i.w) 1 = true → ∃ t, exec (.cntSig a) s = .next t ∧
    if syncN i.g i.w = 0 then GoesTo s t i (i.p.pc + 8)
    else SendsAndGoes s t i (.cnt {
      phys := phys, kind := .add, n := syncN i.g i.w, src := groupLast i.gid i.g.ctx, reply := .none, stamp := none })) ∧
  (Issues s a .cntSet i → translate s.fab i.g.ctx (syncCid i.g i.w) .set_ = some phys → entriesOf s.fab i.gid = [] →
    fenceHolds s.fab i.gid i.g i.p.mask (yScope i.w) 1 = true → ∃ t, exec (.cntSet a) s = .next t ∧
    SendsAndGoes s t i (.cnt {
      phys := phys, kind := .set_, n := syncN i.g i.w, src := groupLast i.gid i.g.ctx, reply := .none, stamp := none })) ∧
  (Issues s a .cntRd i → translate s.fab i.g.ctx (syncCid i.g i.w) .rd = some phys → ∃ t g', exec (.cntRd a) s = .next t ∧
    SendsFrom s t i.gid (.cnt {
      phys := phys, kind := .read, n := 0, src := groupLast i.gid i.g.ctx
      reply := .group i.gid i.key (yRd i.w) (yScope i.w), stamp := none }) ∧
    findGroup t.fab i.gid = some g' ∧ SameButPaths i.issued g' ∧ WaitsAt i g' (i.p.pc + 8) (.waitRead (yRd i.w) (yScope i.w))) ∧
  (∀ c ∈ [(XClass.cntCwait, Right.cw, true, Instr.cntCwait a), (.cntOwait, .ow, false, .cntOwait a)],
    Issues s a c.1 i → translate s.fab i.g.ctx (syncCid i.g i.w) c.2.1 = some phys → ∀ slot, slot < 4 →
    (∀ x, x < 4 → ((tfind i.g.waits x).isNone ↔ slot ≤ x)) → ∃ t g', exec c.2.2.2 s = .next t ∧
      SendsFrom s t i.gid (.waitReq phys c.2.2.1 { isQueue := false, ctx := i.g.ctx, wslot := i.gid * 4 + slot, n := syncN i.g i.w }) ∧
      findGroup t.fab i.gid = some g' ∧ WaitsAt i g' (i.p.pc + 8) (.waitCounter slot) ∧
      g' = { i.issued with
        paths := g'.paths
        waits := tput i.g.waits slot
          { phys := phys, consume := c.2.2.1, pred := yRd i.w % 8, scope := yScope i.w, act := i.act } })

/-- 04 R102, R103: an engine issue with a descriptor in the context's local memory, and without a release, captures the descriptor's bytes and
goes on; the capture then enters the queue of its engine, behind what it holds. -/
def Obligations.EngineIssue : Prop := ∀ (s : State) (a : GroupAt) (i : Iss),
  (∀ c ∈ [(XClass.mxIssue, EngKind.matrix, Instr.mxIssue a), (.cpIssue, .copy, .cpIssue a), (.rtIssue, .routing, .rtIssue a)],
    ∀ at_, Issues s a c.1 i → i.act ≠ 0 → descCheck s.fab i c.2.1 (descAddr i) = some at_ → i.w.getLsbD 31 = false →
    ∃ t, exec c.2.2 s = .next t ∧ OnlyCorrected s t ∧ SendsAndGoes { s with fab := { s.fab with mem := t.fab.mem } } t i (.capture c.2.1 i.gid i.g.ctx i.g.part i.g.level (descAddr i)
      (locBytes s.fab.mem (coreOfGid i.gid) at_ (descLen c.2.1)))) ∧
  (∀ m e gid ctx part level addr bytes, tfind s.fab.net m = some (.capture e gid ctx part level addr bytes) →
    (∀ x ∈ s.fab.net, x.1 < m → ∀ g c p l d b, x.2 = .capture e g c p l d b → g / 16 ≠ gid / 16) →
    ∃ t, exec (.descriptorCaptureComplete m) s = .next t ∧ tfind t.fab.net m = none ∧
      engineIds t.fab e (coreOfGid gid) = engineIds s.fab e (coreOfGid gid) ++ [s.fab.nextId] ∧
      t = { s with fab := { s.fab with net := tdel s.fab.net m, nextId := s.fab.nextId + 1, eng := t.fab.eng } })

/-- 04 R124, 03 R70: `bar.blk` makes the path wait at its barrier while a group of the block has not arrived at any. Where every other group of the
block waits at that barrier, all of them go on, and no group outside the block changes; those with one path stand behind the barrier with that path
running. A barrier number in a uniform register counts modulo 16 (log 38). Stated of groups without store-buffer entries, and of an issuing group that, for the release, has one path and no load
outstanding. -/
def Obligations.BlockBarrier : Prop := ∀ (s : State) (a : GroupAt) (i : Iss) (n : Nat) (b : Block),
  Issues s a .barBlk i → i.act ≠ 0 → KeysDistinct i.g → n = (if yNk i.w = 0 then xf i.w 16 16 else (uget i.g (xf i.w 16 6)).toNat) % 16 →
  entriesOf s.fab i.gid = [] → tfind s.fab.cores.blocks i.g.block = some b → i.gid ∈ b.gids →
  ((∃ o ∈ b.gids, o ≠ i.gid ∧ ∀ m, m < 16 → atBarrier s.fab m o = false) → ∃ t g', exec (.barBlk a) s = .next t ∧ OnlyGroup s t i.gid ∧
    findGroup t.fab i.gid = some g' ∧ SameButPaths i.issued g' ∧
    WaitsAt i g' (i.p.pc + 8) (.waitBarrier n)) ∧
  (b.gids.Nodup → (∀ o ∈ b.gids, o ≠ i.gid → atBarrier s.fab n o = true) →
    i.g.paths = [(i.key, i.p)] → loadsOf s.fab i.gid = [] → i.p.joins.head? ≠ some (i.p.pc + 8) →
    ∃ t, exec (.barBlk a) s = .next t ∧
    findGroup t.fab i.gid = some { i.issued with paths := [(i.key, { i.p with pc := i.p.pc + 8, st := .running, back := 0 })] } ∧
    (∀ o ∈ b.gids, o ≠ i.gid → ∀ go key p, findGroup s.fab o = some go → go.paths = [(key, p)] → p.joins.head? ≠ some p.pc →
      findGroup t.fab o = some { go with paths := [(key, { p with st := .running, back := 0 })] }) ∧
    (∀ o, o ∉ b.gids → findGroup t.fab o = findGroup s.fab o) ∧
    t = { s with fab := { s.fab with elapsed := t.fab.elapsed, work := t.fab.work, cores := { s.fab.cores with
      groups := t.fab.cores.groups, lastSlot := t.fab.cores.lastSlot } } })

/-- 05 R138, R143, R145: a load of local memory finds its bytes at once, lane by lane, and goes on; its registers are written by
LOAD_COMPLETE. Memory is as before, but for the errors that a read corrects. A load of a cached line that no cache of the die holds asks the
line's home for it. Stated where no store that has left a buffer of the core stands before the load. -/
def Obligations.LoadsFindBytes : Prop := ∀ (s : State) (a : GroupAt) (i : Iss) (place : Nat → Loc), Issues s a .ld i → i.act ≠ 0 →
  entriesOf s.fab i.gid = [] →
  (LocalPlaces s i .ld .load (mBytes i.w) place → (∀ l ∈ lanes i.act, coreStores s.fab i.core (place l) = false) → ∃ t g',
    exec (.ld a) s = .next t ∧
    LoadHolds t s.fab.nextId i.gid (mD i.w) .plain ((lanes i.act).map fun l =>
      (l, some (locBytes s.fab.mem i.core (place l).off (mBytes i.w)), 0)) ∧
    OnlyCorrected s t ∧ t.fab.net = s.fab.net ∧ t.keel = s.keel ∧ t.fab.tab = s.fab.tab ∧
    findGroup t.fab i.gid = some g' ∧ SameButPaths i.issued g' ∧ StandsAt i g' (i.p.pc + 8)) ∧
  (∀ l loc, lanes i.act = [l] →
    check s.fab i.g.part (some i.core) .load (effAddr i.g .ld i.w l).1 (effAddr i.g .ld i.w l).2 (mBytes i.w) (mBytes i.w) = .ok loc →
    cached s.keel loc = true → s.fab.mem.l1 = [] → findL2 s.fab.mem i.die (lineOf loc) = none →
    findEvb s.fab.mem i.die (lineOf loc) = none → coreStores s.fab i.core loc = false →
    readAsked s.fab i.die (lineOf loc) = false → prefetchDepth s.keel i.g.part = 0 →
    ∃ t, exec (.ld a) s = .next t ∧ LoadHolds t s.fab.nextId i.gid (mD i.w) .plain [(l, none, 0)] ∧
      t.fab.net = tput s.fab.net (s.fab.nextId + 1) (.home (lineOf loc) (.read i.die)))

/-- 05 R145: when every lane of a load has its data, LOAD_COMPLETE writes them to the lane's registers from DST on, and no other register. -/
def Obligations.LoadsWriteRegisters : Prop := ∀ (s : State) (id : Nat) (ld : Load) (g : Group), findLoad s.fab id = some ld →
  ld.kind = .plain ∨ ld.kind = .atomic ∨ ld.kind = .res → (∀ p ∈ ld.pieces, p.fault = 0 ∧ p.lane < 32 ∧ ∃ b bs, p.data = some (b :: bs)) →
  (ld.pieces.map (·.lane)).Nodup → olderPending s.fab id ld = false → findGroup s.fab ld.gid = some g → g.killed = false →
  g.paths ≠ [] → NoneWaits s →
  ∃ t g', exec (.loadComplete id) s = .next t ∧ findLoad t.fab id = none ∧ findGroup t.fab ld.gid = some g' ∧
    g' = { g with vreg := g'.vreg } ∧ t.fab.mem = s.fab.mem ∧ t.keel = s.keel ∧
    (∀ p ∈ ld.pieces, (vbytes g' ld.dst (ceilDiv (p.data.getD []).length 4) p.lane).take (p.data.getD []).length = p.data.getD []) ∧
    ∀ r l, l < 32 → (∀ p ∈ ld.pieces, p.lane = l → r < ld.dst ∨ ld.dst + ceilDiv (p.data.getD []).length 4 ≤ r) →
      vget g' r l = vget g r l

/-- 05 R137, R138, 11 R337: a store to local memory is performed at once, and of two lanes that write one byte the higher stands; a store of one
lane to near memory or LPDDR6 enters the store buffer, and memory is as before. -/
def Obligations.StoresLand : Prop := ∀ (s : State) (a : GroupAt) (i : Iss) (place : Nat → Loc), Issues s a .st i → i.act ≠ 0 →
  sbOf s.fab (i.gid / 16) = [] →
  (LocalPlaces s i .st .st (mBytes i.w) place → ∃ t g', exec (.st a) s = .next t ∧
    LocalStored s t i.core ((lanes i.act).map fun l => ((place l).off, sBytes i.g i.w (mBytes i.w) l)) ∧ SharedMemorySame s t ∧
    findGroup t.fab i.gid = some g' ∧ SameButPaths i.issued g' ∧ StandsAt i g' (i.p.pc + 8) ∧ t.keel = s.keel ∧ t.fab.net = s.fab.net) ∧
  (∀ l loc, lanes i.act = [l] →
    check s.fab i.g.part (some i.core) .st (effAddr i.g .st i.w l).1 (effAddr i.g .st i.w l).2 (mBytes i.w) (mBytes i.w) = .ok loc →
    loc.kind ≤ 1 → loc.off % 128 + mBytes i.w ≤ 128 → ∃ t g', exec (.st a) s = .next t ∧
    sbOf t.fab (i.gid / 16) = [{
      id := s.fab.nextId, gid := i.gid, slot := (effAddr i.g .st i.w l).1, loc := { loc with off := loc.off / 128 * 128 }
      bytes := placed 128 (loc.off % 128) ((sBytes i.g i.w (mBytes i.w) l).map some), closed := none, issued := false, done := false
      door := false }] ∧
    t.fab.mem = { s.fab.mem with resv := t.fab.mem.resv } ∧ t.fab.net = s.fab.net ∧
    findGroup t.fab i.gid = some g' ∧ SameButPaths i.issued g' ∧ StandsAt i g' (i.p.pc + 8))

/-- 04 R107, R108, 05 R146, R147: `frag.ld` and `ld.tr` bring bytes of local memory into the lanes' registers; `frag.st` stores them, lane l to
row l. -/
def Obligations.FragmentsMove : Prop := ∀ (s : State) (a : GroupAt) (i : Iss) (row : Nat → Loc),
  (Issues s a .fragLd i → i.act = 0xFFFFFFFF →
    (∀ l : Nat, l < 32 → check s.fab i.g.part (some i.core) .load (effAddr i.g .fragLd i.w 0).1
      ((effAddr i.g .fragLd i.w 0).2 + l * (uget i.g (mS i.w)).toNat) (mBytes i.w) (mBytes i.w) = .ok (row l) ∧ (row l).kind = 2 ∧
      locBad s.fab.mem (row l).core (row l).off (mBytes i.w) = false) →
    ∃ t g', exec (.fragLd a) s = .next t ∧ OnlyCorrected s t ∧ OnlyGroup { s with fab := { s.fab with mem := t.fab.mem } } t i.gid ∧ findGroup t.fab i.gid = some g' ∧ SameButRegs i.issued g' ∧
      StandsAt i g' (i.p.pc + 8) ∧ g'.ureg = i.g.ureg ∧ g'.preg = i.g.preg ∧
      (∀ l, l < 32 → (vbytes g' (mD i.w) (ceilDiv (mBytes i.w) 4) l).take (mBytes i.w) =
        locBytes s.fab.mem (row l).core (row l).off (mBytes i.w)) ∧
      ∀ r l, l < 32 → r < mD i.w ∨ mD i.w + ceilDiv (mBytes i.w) 4 ≤ r → vget g' r l = vget i.g r l) ∧
  (Issues s a .fragSt i → i.act = 0xFFFFFFFF →
    (∀ l : Nat, l < 32 → check s.fab i.g.part (some i.core) .store (effAddr i.g .fragSt i.w 0).1
      ((effAddr i.g .fragSt i.w 0).2 + l * (uget i.g (mS i.w)).toNat) (mBytes i.w) (mBytes i.w) = .ok (row l) ∧ (row l).kind = 2 ∧
      (row l).core = i.core ∧ (row l).off + mBytes i.w ≤ 2 ^ 21) →
    ∃ t g', exec (.fragSt a) s = .next t ∧
      LocalStored s t i.core ((List.range 32).map fun l => ((row l).off, vbytes i.g (mD i.w) (mBytes i.w / 4) l)) ∧
      SharedMemorySame s t ∧ findGroup t.fab i.gid = some g' ∧ SameButPaths i.issued g' ∧ StandsAt i g' (i.p.pc + 8)) ∧
  (∀ tile : Nat → List Loc, Issues s a .ldTr i → i.act ≠ 0 →
    (∀ l ∈ lanes i.act, trCheck s.fab i l (2 ^ mSize i.w) (uget i.g (mS i.w)).toNat = .ok (tile l) ∧
      (tile l).length * 2 ^ mSize i.w = 16) →
    ∃ t g', exec (.ldTr a) s = .next t ∧ OnlyCorrected s t ∧ OnlyGroup { s with fab := { s.fab with mem := t.fab.mem } } t i.gid ∧ findGroup t.fab i.gid = some g' ∧ SameButRegs i.issued g' ∧
      StandsAt i g' (i.p.pc + 8) ∧ g'.ureg = i.g.ureg ∧ g'.preg = i.g.preg ∧
      (∀ l ∈ lanes i.act, vbytes g' (mD i.w) 4 l =
        (tile l).flatMap fun loc => locBytes s.fab.mem loc.core (loc.off + l * 2 ^ mSize i.w) (2 ^ mSize i.w)) ∧
      ∀ r l, l < 32 → (r < mD i.w ∨ mD i.w + 4 ≤ r ∨ i.act.getLsbD l = false) → vget g' r l = vget i.g r l)

/-- 11 R327, 04 R117, R118, R122, R123: on one lane's word of local memory, an atomic answers the old value and leaves the new one; a reserved
load answers the bytes and leaves a reservation; a conditional store that wins stores and answers 1, else it stores nothing and answers 0: it wins
only where the lane's reservation stands, and always then in granule mode, and in loop mode after 63 failures in a row (before that it may fail
spuriously, log 19); a lock takes a word that holds zero; its release writes zero. Reserved accesses of local memory carry block scope. -/
def Obligations.LocalAtomics : Prop := ∀ (s : State) (a : GroupAt) (i : Iss) (l : Nat) (loc : Loc) (op1 op2 : Nat), lanes i.act = [l] →
  entriesOf s.fab i.gid = [] →
  (Issues s a .atomic i → LocalPlaces s i .atomic .both (mBytes i.w) (fun _ => loc) →
    (if xOpc i.w = 0x11 then op1 = leNat ((sBytes i.g i.w (8 * regsOfSize (mSize i.w)) l).take (mBytes i.w)) ∧
      op2 = leNat (((sBytes i.g i.w (8 * regsOfSize (mSize i.w)) l).drop (4 * regsOfSize (mSize i.w))).take (mBytes i.w))
    else op1 = leNat (sBytes i.g i.w (mBytes i.w) l) ∧ op2 = 0) →
    ∃ t, exec (.atomic a) s = .next t ∧ SharedMemorySame s t ∧
      LocalStored s t i.core [(loc.off, bytesLE (mBytes i.w) (atomicNew (xOpc i.w) (8 * mBytes i.w)
        (leNat (locBytes s.fab.mem i.core loc.off (mBytes i.w))) op1 op2))] ∧
      LoadHolds t s.fab.nextId i.gid (mD i.w) .atomic [(l, some (locBytes s.fab.mem i.core loc.off (mBytes i.w)), 0)]) ∧
  (Issues s a .ldRes i → mScope i.w = 0 → LocalPlaces s i .ldRes .both (mBytes i.w) (fun _ => loc) → ∃ t, exec (.ldRes a) s = .next t ∧
    SharedMemorySame s t ∧ LocalStored s t i.core [] ∧ (∃ r ∈ t.fab.mem.resv, r.gid = i.gid ∧ r.lane = l ∧ r.meets loc 1 = true) ∧
    LoadHolds t s.fab.nextId i.gid (mD i.w) .res [(l, some (locBytes s.fab.mem i.core loc.off (mBytes i.w)), 0)]) ∧
  (Issues s a .stCond i → mScope i.w = 0 → LocalPlaces s i .stCond .both (mBytes i.w) (fun _ => loc) → s.fab.mem.badWords = [] →
    ∃ t won, exec (.stCond a) s = .next t ∧ SharedMemorySame s t ∧ (∀ r ∈ t.fab.mem.resv, ¬ (r.gid = i.gid ∧ r.lane = l)) ∧
    ((s.fab.mem.resv.any fun r => r.gid == i.gid && r.lane == l && r.meets loc 1) = false → won = false) ∧
    ((s.fab.mem.resv.any fun r => r.gid == i.gid && r.lane == l && r.meets loc 1) = true → (granuleOf s.keel loc.part).isSome = true ∨ 63 ≤ condFails s.fab i.gid l (lineOf loc) → won = true) ∧
    LocalStored s t i.core (if won = true then [(loc.off, sBytes i.g i.w (mBytes i.w) l)] else []) ∧
    LoadHolds t s.fab.nextId i.gid (mD i.w) .cond [(l, some [if won = true then 1 else 0], 0)]) ∧
  (Issues s a .lockAcq i → LocalPlaces s i .lockAcq .both 4 (fun _ => loc) → ∃ t, exec (.lockAcq a) s = .next t ∧
    SharedMemorySame s t ∧ findGroup t.fab i.gid = some i.issued ∧
    LocalStored s t i.core (if leNat (locBytes s.fab.mem i.core loc.off 4) = 0 then [(loc.off, bytesLE 4 (holderOf i.gid l))] else []) ∧
    LoadHolds t s.fab.nextId i.gid 0 .lock [(l, some (locBytes s.fab.mem i.core loc.off 4), 0)]) ∧
  (Issues s a .lockRel i → LocalPlaces s i .lockRel .both 4 (fun _ => loc) → KeysDistinct i.g →
    fenceHolds s.fab i.gid i.g i.p.mask (mScope i.w + 1) 1 = true → (∀ q ∈ i.g.paths, ∀ ls, q.2.st ≠ .waitLock ls) →
    i.gid < 2 ^ 20 → leNat (locBytes s.fab.mem i.core loc.off 4) = holderOf i.gid l → ∃ t g', exec (.lockRel a) s = .next t ∧
    SharedMemorySame s t ∧ LocalStored s t i.core [(loc.off, [0, 0, 0, 0])] ∧
    LoadHolds t s.fab.nextId i.gid 0 .unlock [(l, some (locBytes s.fab.mem i.core loc.off 4), 0)] ∧
    findGroup t.fab i.gid = some g' ∧ SameButPaths i.issued g' ∧ StandsAt i g' (i.p.pc + 8))

/-- 04 R122: 16 beats after it began to wait for a lock a path is ready again. 11 R332, R337, R338: an acknowledged store leaves the buffer,
and a lost one is seen in GSTATUS; an entry that no store has joined for 32 beats closes, and its line is asked for or its bytes are sent to
memory. -/
def Obligations.StoreBufferDrains : Prop := ∀ (s : State) (a : GroupAt),
  (∀ key g p ls, findGroup s.fab (GroupAtGid a) = some g → tfind g.paths key = some p → p.st = .waitLock ls →
    ∃ t g', exec (.lockRetryTimeout a key) s = .next t ∧ OnlyGroup s t (GroupAtGid a) ∧ findGroup t.fab (GroupAtGid a) = some g' ∧
      SameButPaths g g' ∧ PathAt g g' key p) ∧
  (∀ m core sub entry ok e g, tfind s.fab.net m = some (.storeAck core sub entry ok) →
    (sbOf s.fab (core * 4 + sub)).find? (·.id == entry) = some e → findGroup s.fab e.gid = some g → g.paths ≠ [] →
    (∀ x ∈ s.fab.cores.loads, coreOfGid x.2.gid ≠ core) → (∀ x ∈ s.fab.cores.groups, x.2.unstored = []) → NoneWaits s →
    ∃ t, exec (.storeAck m) s = .next t ∧ tfind t.fab.net m = none ∧
      sbOf t.fab (core * 4 + sub) = (sbOf s.fab (core * 4 + sub)).filter (·.id != entry) ∧ t.fab.mem = s.fab.mem ∧
      findGroup t.fab e.gid = some { g with gstatus := if ok then g.gstatus else g.gstatus ||| 1 }) ∧
  (∀ core sub entry e, sub < 4 → (sbOf s.fab (core * 4 + sub)).find? (fun x => x.id == entry && x.closed.isNone) = some e → e.loc.kind ≤ 1 →
    (∀ p, prefetchDepth s.keel p = 0) →
    (cached s.keel e.loc = true → findL2 s.fab.mem (dieOfCore core) (lineOf e.loc) = none ∧
      findEvb s.fab.mem (dieOfCore core) (lineOf e.loc) = none ∧ s.fab.mem.lost.contains (lineOf e.loc) = false ∧
      ownAsked s.fab (dieOfCore core) (lineOf e.loc) = false) →
    ∃ t, exec (.storeBufferEntryTimeout core sub entry) s = .next t ∧
      { e with closed := some s.fab.nextId, issued := true } ∈ sbOf t.fab (core * 4 + sub) ∧
      t.fab.net = tput s.fab.net (s.fab.nextId + 1) (if cached s.keel e.loc then .home (lineOf e.loc) (.own (dieOfCore core) true)
        else .uncWrite { loc := { e.loc with off := e.loc.off / 128 * 128 }, bytes := e.bytes, hint := 0, target := 0,
                         sink := .store core sub entry }))

/-- 03 R58: a group that BLOCK_RESIDENT makes resident reads zero in every vector and predicate register, and in every uniform register but u0 to u15,
which hold the 16 words of the ARGS of a launch whose block waited. 03 R55, R56, 04 R99, 14 R418: a block that alone waits for a core, and may become resident
there, becomes resident whole: each of its groups stands in a slot of the core that was free, with its path at ENTRY and all lanes, and GSTATUS 0; its
slice stands where its level's share has room for it; and nothing else changes. -/
def Obligations.BlockBecomesResident : Prop :=
  (∀ (s t : State) (core gid : Nat) (g : Group), exec (.blockResident core) s = .next t → findGroup s.fab gid = none → findGroup t.fab gid = some g →
    (∀ r l, vget g r l = 0) ∧ (∀ p l, pget g p l = false) ∧ (∀ r, 16 ≤ r → uget g r = 0) ∧
    ∃ b ∈ s.fab.cores.waiting, ∀ r, r < 16 → uget g r = BitVec.ofNat 32 (numAt b.args (4 * r) 4)) ∧
  ∀ (s : State) (core : Nat) (b : Block), s.fab.cores.waiting = [b] → b.core = core → b.level ≤ 3 →
  mayReside s.keel s.fab [] b = true → ∃ t blk, exec (.blockResident core) s = .next t ∧
    tfind t.fab.cores.blocks s.fab.nextId = some blk ∧ blk = { b with gids := blk.gids, sliceAt := (slicePlace s.fab b).getD 0 } ∧
    blk.gids.length = b.ngroups ∧ blk.gids.Nodup ∧ t.fab.cores.waiting = [] ∧
    (∀ n gid, blk.gids[n]? = some gid → findGroup s.fab gid = none ∧ coreOfGid gid = core ∧ ∃ g, findGroup t.fab gid = some g ∧
      g = { newGroup b s.fab.nextId n with vreg := g.vreg, ureg := g.ureg, preg := g.preg } ∧ g.gstatus = 0 ∧
      g.paths = [(0, { pc := b.entry, mask := 0xFFFFFFFF, joins := [], st := .running, back := 0 })]) ∧
    t = { s with fab := { s.fab with
      nextId := s.fab.nextId + 1
      cores := { s.fab.cores with groups := t.fab.cores.groups, blocks := t.fab.cores.blocks, waiting := [] } } }

/-- 03 R77 to R80, R82, R83: a parking group of a context with a fault handler whose accesses are done is parked, and no other group changes. REPLAY,
which a request for the group's partition writes, makes a parked group eligible again: the lanes of the faulting instruction's path stand at the
recorded address as its running path and on no other, those that were active replay the instruction (of one that could not be fetched, all of them under
its guard), the recorded fault is cleared (log 57), its registers and every memory and other group are as they are. KILL marks the block and none of
its groups reads as parked; when none of its groups has a load, a store or a buffered entry left, the block and its groups leave the core and no
other group changes. -/
def Obligations.ParkReplayKill : Prop := ∀ (s : State) (m : Mark) (die : Nat) (v : Word32) (gid : Nat) (g : Group),
  (∀ a, gid = GroupAtGid a → findGroup s.fab gid = some g → g.park = .parking → g.killed = false → drained s.fab gid = true → mayRun s.keel g.part = true →
    (findCtx s.fab g.ctx).any (·.handler) = true → ∃ t, exec (.parkDrainComplete a) s = .next t ∧
    findGroup t.fab gid = some { g with park := .parked } ∧ (∀ o, o ≠ gid → findGroup t.fab o = findGroup s.fab o)) ∧
  (Arrives s m die → parkGroup s.keel s.fab m die = some (gid, g) → g.park = .parked → v.toNat % 4 = 1 → KeysDistinct g →
    ∃ t g' key, exec (.replay m die v) s = .next t ∧ findGroup t.fab gid = some g' ∧
      g' = { g with park := .running, faultLanes := 0, faultCode := 0, faultAddr := 0, replay := if g.faultAt.fetched then some g.faultAt.act else none
                    paths := g'.paths, waits := g'.waits } ∧
      tfind g'.paths key = some { pc := g.faultPc, mask := g.faultAt.mask, joins := g.faultAt.joins, st := .running, back := 0 } ∧
      (∀ q ∈ g'.paths, q.1 ≠ key → q.2.mask &&& g.faultAt.mask = 0 ∧ q.2.st ≠ .running) ∧
      (∀ o, o ≠ gid → findGroup t.fab o = findGroup s.fab o) ∧ t.fab.mem = s.fab.mem ∧ t.keel = s.keel) ∧
  (∀ b, Arrives s m die → parkGroup s.keel s.fab m die = some (gid, g) → g.park = .parked → v.toNat % 4 = 2 →
    tfind s.fab.cores.blocks g.block = some b → ∃ t, exec (.kill m die v) s = .next t ∧
    tfind t.fab.cores.blocks g.block = some { b with killed := true } ∧
    ∀ o ∈ b.gids, ∀ x, findGroup t.fab o = some x → x.killed = true ∧ x.park ≠ .parked) ∧
  (∀ core block b, tfind s.fab.cores.blocks block = some b → b.killed = true → b.core = core →
    (∀ o ∈ b.gids, loadsOf s.fab o = [] ∧ entriesOf s.fab o = [] ∧ ∀ x, findGroup s.fab o = some x → x.unstored = []) → ∃ t, exec (.blockKillComplete core block) s = .next t ∧
    tfind t.fab.cores.blocks block = none ∧ (∀ o ∈ b.gids, findGroup t.fab o = none) ∧
    (∀ o, o ∉ b.gids → findGroup t.fab o = findGroup s.fab o))

/-- 08 R253, R254, 02 R46, R47: the flag registers and the beat-counter snapshot of a sail die. A write of SAIL_NFLAG_SCAN for a partition the
request acts for starts a scan with the written class, partition and start. When a scan completes, NEXT is the lowest index at or above START
whose engine is on (log 44: an engine that is off is passed over) and whose set for PART holds a flag, and 1,023 where there is none; nothing
else changes but DONE. A write of SAIL_NFLAG_SET clears the written flags of the selected set and no other flag; GO of SAIL_NFLAG_CLR clears
every set of the partition on the die and no other set. SNAP latches the selection. When a snapshot completes, VALID reads 1 and of the selected
unit (log 56: selected at that moment) both counters are held; where the selection is not valid BAD_SEL reads 1 and where the unit's domain is off
DOMAIN_OFF reads 1, and both counters are held as 0. -/
def Obligations.FlagsAndBeats : Prop := ∀ (s : State) (m : Mark) (die : Nat) (v : Word32),
  (Arrives s m die → actsFor s.keel m (fld v.toNat 24 4) = true → exec (.flagScanStart m die v) s =
    .next (withDie (marked s m) die fun d => { d with
      scanDone := false, scanBusy := true, scanNext := 0, scanClass := fld v.toNat 28 2, scanPart := fld v.toNat 24 4, scanStart := fld v.toNat 0 10 })) ∧
  (∀ r holds, r = dieRegs s.fab die → r.scanBusy = true → holds = (fun n => r.scanStart ≤ n ∧ n < 768 ∧
      coreOn s.keel (nflagCore die r.scanClass n) = true ∧ ∃ key, nflagKey die r.scanClass n r.scanPart = some key ∧ flagsAt s key ≠ 0) →
    ∃ n, exec (.flagScanComplete die) s = .next (withDie s die fun d => { d with scanBusy := false, scanDone := true, scanNext := n }) ∧
      (∀ i, holds i → holds n ∧ n ≤ i) ∧ ((∀ i, ¬ holds i) → n = 1023)) ∧
  (∀ key, Arrives s m die → nflagSel s.keel s.fab m die = some key → ∃ t, exec (.flagSetClear m die v) s = .next t ∧
    flagsAt t key = flagsAt s key &&& ~~~(v.truncate 6) ∧ (∀ x, x ≠ key → flagsAt t x = flagsAt s x) ∧
    t = { marked s m with fab := { (marked s m).fab with cores := { s.fab.cores with flags := t.fab.cores.flags } } }) ∧
  (Arrives s m die → v.getLsbD 0 = true → actsFor s.keel m (fld v.toNat 16 4) = true → ∃ t, exec (.flagClearAll m die v) s = .next t ∧
    (∀ key, flagDie key = die → key % 16 = fld v.toNat 16 4 → flagsAt t key = 0) ∧
    (∀ key, flagDie key ≠ die ∨ key % 16 ≠ fld v.toNat 16 4 → flagsAt t key = flagsAt s key) ∧
    t = { marked s m with fab := { (marked s m).fab with cores := { s.fab.cores with flags := t.fab.cores.flags } } }) ∧
  (Arrives s m die → v.getLsbD 31 = true → exec (.snap m die v) s = .next (withDie (marked s m) die fun d => { d with
    beatClass := fld v.toNat 24 4, beatIndex := fld v.toNat 0 10, beatBusy := true, beatValid := false })) ∧
  (∀ cls index unit latched, (dieRegs s.fab die).beatBusy = true → (dieRegs s.fab die).beatClass = cls → (dieRegs s.fab die).beatIndex = index →
    unit = unitKey cls (classUnits cls * die + index) → latched = (fun (bad off : Bool) (elapsed work : Nat) => withDie s die fun d => { d with
      beatBusy := false, beatValid := true, beatBadSel := bad, beatOff := off, beatElapsed := elapsed, beatWork := work }) →
    (classUnits cls ≤ index → exec (.snapshotComplete die) s = .next (latched true false 0 0)) ∧
    (index < classUnits cls → domainOn s.keel (unitDom die cls index) = false → exec (.snapshotComplete die) s = .next (latched false true 0 0)) ∧
    (index < classUnits cls → domainOn s.keel (unitDom die cls index) = true → exec (.snapshotComplete die) s =
      .next (latched false false (tgetD s.fab.elapsed unit 0) (tgetD s.fab.work unit 0))))

/-- 09 R270, R271: GO of SAIL_SFT_CMD with no load in progress latches TABLE, PART and SRC and begins a load. Where PART owns TABLE and SRC
passes its checks the 4,160 bytes at SRC are being read for it (of memory of this device, or of the tether's while the link is up); where PART
does not own TABLE, or SRC fails its checks, the load holds the RESULT of the refusal, 2 or 3, and reads nothing; GO during a load sets OVERRUN
alone. When the image has been read, a valid one (and, where its CHK is 1, one without a backward step at a seam) waits for the pins, and the
load of any other, or one that was refused, ends with its RESULT and leaves the tables as they are. When no descriptor pins the inactive bank, that bank
takes the image, the banks flip, no other table changes and RESULT reads 1. -/
def Obligations.TableLoads : Prop := ∀ (s : State) (m : Mark) (die : Nat) (v : Word32) (d : DieRegs), d = dieRegs s.fab die →
  (∀ loc, Quiet s → Arrives s m die → v.getLsbD 0 = true → actsFor s.keel m d.sftPart = true → d.sftLoad = none →
    sftOwned s.keel d.sftTable d.sftPart = true → sftPlace s.fab d.sftPart d.sftSrc = some loc → ∃ t l, exec (.sftGo m die v) s = .next t ∧
    (dieRegs t.fab die).sftLoad = some l ∧ l.id = s.fab.nextId ∧ l.step = 1 ∧ l.table = d.sftTable ∧ l.part = d.sftPart ∧
    l.src = d.sftSrc ∧ t.fab.eng.sft = s.fab.eng.sft ∧ t.keel = s.keel ∧
    (loc.kind ≤ 1 ∨ linkUp s.fab = true → l.got = false ∧
      tfind t.fab.jobs (s.fab.nextId + 1) = some { sink := .sft die s.fab.nextId, die := die, parts := partsOf loc 4160 })) ∧
  (∀ code, Quiet s → Arrives s m die → v.getLsbD 0 = true → actsFor s.keel m d.sftPart = true → d.sftLoad = none →
    (if sftOwned s.keel d.sftTable d.sftPart then sftPlace s.fab d.sftPart d.sftSrc = none ∧ code = 3 else code = 2) →
    exec (.sftGo m die v) s = .next (withDie { (marked s m) with fab := { (marked s m).fab with nextId := s.fab.nextId + 1 } } die fun r => { r with
      sftLoad := some { id := s.fab.nextId, step := 1, got := true, fault := code, table := d.sftTable, part := d.sftPart, src := d.sftSrc
                        image := [], promise := false } })) ∧
  (Quiet s → Arrives s m die → v.getLsbD 0 = true → actsFor s.keel m d.sftPart = true → d.sftLoad.isSome = true →
    exec (.sftGo m die v) s = .next (withDie (marked s m) die fun r => { r with sftOverrun := true })) ∧
  (∀ l, d.sftLoad = some l → l.step = 1 → l.got = true → l.fault = 0 → imageValid l.image = true →
    (bitAt (numAt l.image 0 8) 45 = true → seamCheck l.image = true) →
    exec (.sftImageChecked die) s = .next (withDie s die fun d => { d with sftLoad := some { l with step := 2, promise := seamCheck l.image } })) ∧
  (∀ l code, d.sftLoad = some l → l.step = 1 → l.got = true →
    code = (if l.fault ≠ 0 then l.fault else if imageValid l.image then 5 else 4) → (l.fault ≠ 0 ∨ imageValid l.image = false ∨
      (bitAt (numAt l.image 0 8) 45 = true ∧ seamCheck l.image = false)) →
    exec (.sftImageChecked die) s = .next (withDie s die fun d => { d with sftLoad := none, sftResult := code, sftResultPart := l.part })) ∧
  (∀ l x, d.sftLoad = some l → l.step = 2 → x = tgetD s.fab.eng.sft (sftKey die l.table) SftTable.none →
    bankPinned s.fab die l.table (1 - x.active) = false → ∃ t x', exec (.sftPinsCleared die) s = .next t ∧
    tfind t.fab.eng.sft (sftKey die l.table) = some x' ∧ x'.loaded = true ∧ x'.active = (if x.active = 0 then 1 else 0) ∧
    (if x'.active = 0 then x'.bank0 = l.image ∧ x'.bank1 = x.bank1 else x'.bank1 = l.image ∧ x'.bank0 = x.bank0) ∧
    (∀ o, o ≠ sftKey die l.table → tfind t.fab.eng.sft o = tfind s.fab.eng.sft o) ∧
    dieRegs t.fab die = { d with sftLoad := none, sftResult := 1, sftResultPart := l.part })

/-- 10 R306, R308 to R310: APPLY of SAIL_L2_LOCK makes the mask the partition's locked ways of the die where the partition holds them and its locks then
leave at most 12 of the die's ways locked, and otherwise changes no lock and sets the error bit; no other partition's or die's lock changes. GO of
SAIL_L2_MCMD with no operation in progress starts one that passes its checks, with LINES at 0, and ends one that does not with its RESULT and no
memory changed. An operation that has what it waits for, and finds no parity error, ends with RESULT 1 and counts in LINES, each line once, up to
2^24 - 1, the lines it found at its start, those it acts on now and the clean entries it drops; an invalidation leaves no copy that it covers. -/
def Obligations.CacheMaintenance : Prop := ∀ (s : State) (m : Mark) (die : Nat) (v : Word32),
  (∀ part ways, Arrives s m die → v.getLsbD 30 = true → part = fld v.toNat 16 4 → ways = fld v.toNat 0 16 → actsFor s.keel m part = true →
    ∃ t, exec (.l2LockApply m die v) s = .next t ∧
    (if l2Ways s.keel part &&& ways = ways ∧ lockedWays s.fab die part + popcount 16 ways ≤ 12 then
      lockOf t.fab die part = BitVec.ofNat 16 ways else t.fab.mem.locks = s.fab.mem.locks ∧ (dieRegs t.fab die).lockErr = true) ∧
    (∀ o, o ≠ die * 16 + part → tfind t.fab.mem.locks o = tfind s.fab.mem.locks o)) ∧
  (∀ c ∈ [(false, 1, Instr.l2CleanRange m die v), (false, 2, .l2InvalidateRange m die v), (false, 3, .l2CleanInvalidateRange m die v),
      (true, 1, .l2CleanSetWay m die v), (true, 2, .l2InvalidateSetWay m die v), (true, 3, .l2CleanInvalidateSetWay m die v)],
    Arrives s m die → actsFor s.keel m (fld v.toNat 24 4) = true → v.getLsbD 31 = true → v.getLsbD 30 = c.1 → fld v.toNat 28 2 = c.2.1 →
    (dieRegs s.fab die).mrun = none → ∃ t r, exec c.2.2 s = .next t ∧
      r = { part := fld v.toNat 24 4, op := c.2.1, setWay := c.1, slice := fld v.toNat 16 6, set_ := fld v.toNat 5 11, way := fld v.toNat 0 4
            addr := (dieRegs s.fab die).maddr, len := (dieRegs s.fab die).mlen.toNat, range := none, found := [] : MaintRun } ∧
      if maintCheck s.keel s.fab r = 1 then ∃ q, (dieRegs t.fab die).mrun = some q ∧ (dieRegs t.fab die).mlines = 0 ∧
        q = { r with range := if c.1 then none else maintRange s.fab r, found := q.found } ∧
        q.found = (holderLines s.fab q).map (·.line) ++ leavingLines s.fab q
      else (dieRegs t.fab die).mrun = none ∧ (dieRegs t.fab die).mresult = maintCheck s.keel s.fab r ∧ t.fab.mem = s.fab.mem) ∧
  (∀ r copies dirty entries lines, Quiet s → (dieRegs s.fab die).mrun = some r → maintReady s.fab die r = true →
    copies = maintCopies s.fab die r → dirty = copies.filter (fun c => isDirty c.st c.d) → (∀ c ∈ dirty, c.flaw = .ok) →
    entries = (if r.setWay || r.op == 1 then [] else s.fab.mem.evb.filter fun e => inRange r.range e.line && !e.dirtyLine) →
    lines = r.found ++ (if r.op = 1 then dirty else copies).map (·.line) ++ entries.map (·.line) →
    ∃ t, exec (.l2MaintenanceComplete die false) s = .next t ∧ (dieRegs t.fab die).mrun = none ∧ (dieRegs t.fab die).mresult = 1 ∧
    (dieRegs t.fab die).mlines = min (2 ^ 24 - 1) lines.eraseDups.length ∧
    (r.op ≠ 1 → maintCopies t.fab die r = []))

/-- 14 R411 to R415, 02 R48 to R51, 15 R429, 20 R535: a rising edge at FRAME_IN of a device that runs, and a frame doorbell, send an event to the
keel; there it is counted unselected, or merged within 1 µs of the last accepted one, or accepted, which moves FRAME_SLOT to the next slot with
FSTART and sends the start of that slot to every sail die (stated where no Glinen port takes the event); a die that it reaches starts that slot with
its count at 0 and leaves the tail; a slot whose count has reached BUDGET, on a die with a compute domain on, gives way to the next, or to the
frame tail before an FSTART slot, with the count at 0. -/
def Obligations.CyclicSchedule : Prop := ∀ (s : State) (m : Mark) (die : Nat) (v : Word32),
  (s.keel.on = true → s.keel.resetN = true → s.keel.power.stopping = false → s.keel.power.state ≠ 3 →
    exec .frameInEdge s = .next { s with fab := { s.fab with
      net := tput s.fab.net s.fab.nextId (.frame .frameIn), nextId := s.fab.nextId + 1 } }) ∧
  (csOpen s.keel s.fab m = true → v.getLsbD 0 = true → exec (.frameDoorbell m v) s = .next { s with fab := { (marked s m).fab with
      net := tput s.fab.net s.fab.nextId (.frame .doorbell), nextId := s.fab.nextId + 1 } }) ∧
  (∀ x src, tfind s.fab.net x = some (.frame src) → frameFirst s.fab x src = true → selectedFrame s.keel src = false →
    exec (.frameEvent x) s = .next { s with
      keel := { s.keel with unselected := min 65535 (s.keel.unselected + 1) }, fab := { s.fab with net := tdel s.fab.net x } }) ∧
  (∀ x src last, tfind s.fab.net x = some (.frame src) → frameFirst s.fab x src = true → selectedFrame s.keel src = true →
    s.keel.lastFrame = some last → s.keel.time < last + usec →
    exec (.frameEvent x) s = .next { s with
      keel := { s.keel with merged := min 65535 (s.keel.merged + 1) }, fab := { s.fab with net := tdel s.fab.net x } }) ∧
  (∀ x src, tfind s.fab.net x = some (.frame src) → frameFirst s.fab x src = true → selectedFrame s.keel src = true →
    (∀ last, s.keel.lastFrame = some last → last + usec ≤ s.keel.time) → ∃ t, exec (.frameEvent x) s = .next t ∧
    t.keel = { s.keel with accepted := (s.keel.accepted + 1) % 2 ^ 32, lastFrame := some s.keel.time
                           frameSlot := nextStart (schedSlots s.keel) s.keel.frameSlot } ∧
    (s.fab.gln.ports = [] → ∀ d, d < s.keel.sails → tfind t.fab.net (s.fab.nextId + d) = some (.slotStart d))) ∧
  (∀ x, s.fab.net.find? (fun e => e.2 == .slotStart die) = some (x, .slotStart die) → exec (.slotFrameStart die) s = .next
    (withDie { s with fab := { s.fab with net := tdel s.fab.net x } } die fun d => { d with
      schedTail := false, schedSlot := s.keel.frameSlot, schedBudget := 0 })) ∧
  (∀ d slots, d = dieRegs s.fab die → slots = schedSlots s.keel → slots ≠ [] → d.schedTail = false →
    slotBudget slots d.schedSlot ≤ d.schedBudget → (∃ c, c < 3 ∧ domainOn s.keel (computeDom die c) = true) → exec (.slotBudgetExpiry die) s = .next (withDie s die fun d =>
      if ((slots[(d.schedSlot + 1) % slots.length]?).getD 0).getLsbD 31 then { d with schedTail := true, schedBudget := 0 }
      else { d with schedSlot := (d.schedSlot + 1) % slots.length, schedBudget := 0 }))

/-- 11 R319 to R324, R342: at a line's home, whose eviction buffer does not hold it, a read by a sail die of a line that nobody holds takes the line
from memory in E (in S while a reserved granule stands on it); a read of an owned line is forwarded to the owner; a read of a shared line that the
home's L2 holds is granted in S with its bytes. An ownership request invalidates every other holder; an agent that already shares the line alone gets
it with no data, in the slice where its copy stands; for a store to a line on which a reserved granule stands, the requester's own copy is invalidated
too. A read by a die whose S copy stands in another slice is answered at that copy: the one lane that waits takes its bytes there, and no holder changes. -/
def Obligations.HomeGrants : Prop := ∀ (s : State) (m a : Nat) (l : Line), Quiet s → HasTurn s m l → Intact s l → a < 4 → findEvb s.fab.mem (homeOf s.keel l).die l = none →
  (tfind s.fab.net m = some (.home l (.read a)) → findDir s.fab.mem l = none → astray s.keel s.fab a l = false →
    (s.fab.mem.dir.filter fun e => e.home == (homeOf s.keel l).die && e.slice == (homeOf s.keel l).slice && e.set_ == (homeOf s.keel l).set_ &&
      e.line.part == l.part).length < entryWays s.keel l.part → ∃ t e, exec (.homeReadRequest m .ok) s = .next t ∧
    t.fab.net = tput (tdel s.fab.net m) s.fab.nextId (.memRead (locOfLine l) 128 (.fill a (if granuleHeld s.fab l then .S else .E))) ∧
    findDir t.fab.mem l = some e ∧ e.owner = none ∧ e.txn.isSome = true) ∧
  (∀ e o, tfind s.fab.net m = some (.home l (.read a)) → findDir s.fab.mem l = some e → e.txn = none → e.owner = some o → o ≠ a →
    astray s.keel s.fab a l = false → ∃ t e', exec (.homeReadRequest m .ok) s = .next t ∧
    t.fab.net = tput (tdel s.fab.net m) s.fab.nextId (.fwd l o a) ∧
    findDir t.fab.mem l = some e' ∧ e'.owner = some o ∧ e'.present = e.present ∧ (e'.txn.map (·.fwd)) = some true) ∧
  (∀ e c, tfind s.fab.net m = some (.home l (.read a)) → findDir s.fab.mem l = some e → e.txn = none → e.owner = none → e.present ≠ 0 →
    e.home = (homeOf s.keel l).die →
    astray s.keel s.fab a l = false → findL2 s.fab.mem e.home l = some c → ∃ t e', exec (.homeReadRequest m .ok) s = .next t ∧
    t.fab.net = tput (tdel s.fab.net m) s.fab.nextId (.fill l (homeOf s.keel l).die a .S { c.d with dirty := 0 } none) ∧
    findDir t.fab.mem l = some e' ∧ e'.present = e.present ||| bit5 a ∧ e'.owner = none ∧ e'.txn = none) ∧
  (∀ e c, tfind s.fab.net m = some (.home l (.read a)) → findDir s.fab.mem l = some e → e.txn = none → astray s.keel s.fab a l = true →
    findL2 s.fab.mem a l = some c → c.st = .S → ∃ t e' c', exec (.homeReadRequest m .ok) s = .next t ∧ t.fab.net = tdel s.fab.net m ∧
    findDir t.fab.mem l = some e' ∧ e'.present = e.present ∧ e'.owner = e.owner ∧ e'.txn = none ∧
    findL2 t.fab.mem a l = some c' ∧ c'.st = .S ∧ c'.d = c.d ∧ c'.slice = c.slice ∧
    (∀ id ld i p, waitingPieces s.fab a l = [(id, ld, i, p)] → ld.kind = .plain → c.d.poison.getLsbD (p.loc.off % 128 / 32) = false →
      findLoad s.fab id = some ld → ld.pieces[i]? = some p → p.data = none → ∃ ld' p', findLoad t.fab id = some ld' ∧
      ld'.pieces[i]? = some p' ∧ p' = { p with data := some (slice c.d.bytes (p.loc.off % 128) p.size), fault := 0 })) ∧
  (∀ e fs others, tfind s.fab.net m = some (.home l (.own a fs)) → findDir s.fab.mem l = some e → e.txn = none →
    astray s.keel s.fab a l = false →
    (∀ x ∈ s.fab.net, x.2 ≠ .evict l a) → others = (agentsIn e.present).filter (· != a) → others ≠ [] →
    ∃ t e', exec (.homeOwnershipRequest m .ok) s = .next t ∧
    (∀ n o, others[n]? = some o → tfind t.fab.net (s.fab.nextId + n) = some (.inval l o)) ∧
    findDir t.fab.mem l = some e' ∧ (e'.txn.map (·.acks)) = some others ∧ e'.present = e.present) ∧
  (∀ e fs, tfind s.fab.net m = some (.home l (.own a fs)) → findDir s.fab.mem l = some e → e.txn = none → wbOut s.fab l = false →
    (∀ c, findL2 s.fab.mem a l = some c → c.st ≠ .E ∧ c.st ≠ .M) →
    (∀ x ∈ s.fab.net, x.2 ≠ .evict l a) → e.present = bit5 a →
    (granuleHeld s.fab l = false → ∃ t e', exec (.homeOwnershipRequest m .ok) s = .next t ∧
      t.fab.net = tput (tdel s.fab.net m) s.fab.nextId (.fill l (homeOf s.keel l).die a (if fs then .M else .E) noData none) ∧
      findDir t.fab.mem l = some e' ∧ e'.owner = some a ∧ e'.present = bit5 a ∧ e'.txn = none ∧
      e'.slices = [(a, (tfind e.slices a).getD (homeOf s.keel l).slice)]) ∧
    (fs = true → granuleHeld (ownResv s.fab a l) l = true → ∃ t e', exec (.homeOwnershipRequest m .ok) s = .next t ∧
      t.fab.net = tput (tdel s.fab.net m) s.fab.nextId (.inval l a) ∧
      findDir t.fab.mem l = some e' ∧ e'.owner = e.owner ∧ e'.present = e.present ∧ (e'.txn.map (·.acks)) = some [a]))

/-- 11 R321, R322, R324: an invalidated sail die (that holds no lane's reservation on the line) drops its copy, answers with its data where it held the
line in E, O or M, and no other copy changes; an S or E fill that is on its way to it installs no line. The last answer, with data, lets the home grant the
line in M: with those data where the requester does not share the line, else with none, the dirty sectors going to memory. An owner that is asked forwards
its data to the requester in S, keeps a dirty line in O, else in S, and notifies the home, which then counts the requester among the holders and the owner as
owner only if it keeps the line in O. -/
def Obligations.HoldersAnswer : Prop := ∀ (s : State) (m : Nat) (l : Line), Quiet s → inOrder s.keel s.fab m = true → Intact s l →
  (∀ agent, agent < 4 → tfind s.fab.net m = some (.inval l agent) → (∀ h ∈ s.fab.mem.holds, ¬ (h.die = agent ∧ h.line = l)) →
    ((∀ x ∈ s.fab.net, ∀ src st d till, x.2 ≠ .fill l src agent st d till) → ∃ t, exec (.invalidation m) s = .next t ∧
      findL2 t.fab.mem agent l = none ∧ t.fab.net = tput (tdel s.fab.net m) s.fab.nextId (.invAck l agent
        ((((findL2 s.fab.mem agent l).filter (·.st != .S)).map (·.d)).or
          (((findEvb s.fab.mem agent l).filter fun e => !e.dirtyLine && e.st != .S).map (·.d)))) ∧
      (∀ die o, die ≠ agent ∨ o ≠ l → findL2 t.fab.mem die o = findL2 s.fab.mem die o)) ∧
    (∀ n src st d, fillFor s.fab l agent (· == .M) = false → n ≠ s.fab.nextId → tfind s.fab.net n = some (.fill l src agent st d none) →
      ∃ t, exec (.invalidation m) s = .next t ∧ findL2 t.fab.mem agent l = none ∧
      tfind t.fab.net n = some (.fill l src agent st d (some (s.fab.nextId + 1))))) ∧
  (∀ agent d e a, a < 4 → tfind s.fab.net m = some (.invAck l agent (some d)) → findDir s.fab.mem l = some e → wbOut s.fab l = false →
    granuleHeld s.fab l = false →
    e.txn = some { req := .own a true, acks := [agent], got := none, fwd := false, mem := false } →
    ∃ t e' n, exec (.invalidationAck m) s = .next t ∧
    (if (e.present &&& ~~~(bit5 agent)).getLsbD a = false then
      n = s.fab.nextId ∧ t.fab.net = tput (tdel s.fab.net m) n (.fill l (homeOf s.keel l).die a .M d none)
    else if d.dirty &&& ~~~d.poison = 0 then
      n = s.fab.nextId ∧ t.fab.net = tput (tdel s.fab.net m) n (.fill l (homeOf s.keel l).die a .M noData none)
    else n = s.fab.nextId + 1 ∧ t.fab.net = tput (tput (tdel s.fab.net m) s.fab.nextId (.uncWrite
      { loc := locOfLine l, bytes := sectorMask d (d.dirty &&& ~~~d.poison), hint := 0, target := 0, sink := .home }))
      n (.fill l (homeOf s.keel l).die a .M noData none)) ∧
    findDir t.fab.mem l = some e' ∧ e'.owner = some a ∧ e'.present = bit5 a ∧ e'.txn = none) ∧
  (∀ owner a c, owner < 4 → a < 4 → tfind s.fab.net m = some (.fwd l owner a) → findL2 s.fab.mem owner l = some c →
    (∀ x ∈ s.fab.net, ∀ src st d till, x.2 ≠ .fill l src owner st d till) → ∃ t c', exec (.forwardedRequest m) s = .next t ∧
    t.fab.net = tput (tput (tdel s.fab.net m) s.fab.nextId (.fill l owner a .S { c.d with dirty := 0 } none)) (s.fab.nextId + 1)
      (.fwdNotify l owner) ∧
    findL2 t.fab.mem owner l = some c' ∧ c'.st = (if isDirty c.st c.d then .O else .S) ∧ c'.d = c.d) ∧
  (∀ owner a e tx, owner < 4 → a < 5 → tfind s.fab.net m = some (.fwdNotify l owner) → findDir s.fab.mem l = some e → e.txn = some tx →
    tx.req = .read a → wbOut s.fab l = false → ∃ t e', exec (.forwardNotify m) s = .next t ∧
    findDir t.fab.mem l = some e' ∧ e'.present = e.present ||| bit5 a ∧ e'.txn = none ∧
    e'.owner = (if (findL2 s.fab.mem owner l).any (·.st == .O) then e.owner else none))

/-- 10 R304, R305, R300, 11 R321, R341: a fill that finds a free way of the partition in its set, and that no lane or store waits for, puts the line there and changes no
other copy; a write-back that its channel's arbiter grants puts the dirty sectors of a line into memory, and no other byte, and the home forgets the
owner and acknowledges; a clean eviction makes the home forget a holder that has the line no more, and changes no other memory; an acknowledged
write-back leaves the eviction buffer; when a reservation's hold expires that hold ends, and nothing else. -/
def Obligations.LinesMove : Prop := ∀ (s : State) (m : Nat) (l : Line), Quiet s → inOrder s.keel s.fab m = true →
  (∀ src die st d way parity, tfind s.fab.net m = some (.fill l src die st d none) → d.valid ≠ 0 → findL2 s.fab.mem die l = none →
    choose s.keel s.fab die (homeOf s.keel l).slice l = .at_ way none → waitingPieces s.fab die l = [] →
    leftEntries s.fab die l = [] → ∃ t c, exec (.l2Fill m parity) s = .next t ∧ findL2 t.fab.mem die l = some c ∧ c.st = st ∧ c.d = d ∧
    c.way = way ∧ c.slice = (homeOf s.keel l).slice ∧ c.set_ = (homeOf s.keel l).set_ ∧ c.prefetched = true ∧ c.flaw = .ok ∧
    t.fab.net = tdel s.fab.net m ∧ (∀ o x, o ≠ die ∨ x ≠ l → findL2 t.fab.mem o x = findL2 s.fab.mem o x)) ∧
  (∀ a slice d, a < 4 → tfind s.fab.net m = some (.wb l a slice d) → granted s.keel s.fab m = true → Intact s l →
    (∀ e, findDir s.fab.mem l = some e → e.txn = none) → l.kind ≤ 1 → l.idx * 128 + 128 ≤ 2 ^ 48 → d.bytes.length = 128 →
    d.poison = 0 → ∃ t, exec (.homeWriteBack m) s = .next t ∧
    t.fab.net = tput (tdel s.fab.net m) s.fab.nextId (.wbAck l a slice) ∧
    (∀ i, i < 128 → memByte t.fab.mem l.kind l.part (l.idx * 128 + i) =
      if d.dirty.getLsbD (i / 32) then (d.bytes[i]?).getD 0 else memByte s.fab.mem l.kind l.part (l.idx * 128 + i)) ∧
    (∀ kind part off, kind ≤ 1 → off < 2 ^ 48 → (kind ≠ l.kind ∨ part ≠ l.part ∨ off < l.idx * 128 ∨ l.idx * 128 + 128 ≤ off) →
      memByte t.fab.mem kind part off = memByte s.fab.mem kind part off) ∧
    (∀ e, findDir t.fab.mem l = some e → e.owner ≠ some a ∧ (findL2 s.fab.mem a l = none → e.present.getLsbD a = false))) ∧
  (∀ a, a < 4 → tfind s.fab.net m = some (.evict l a) → ∃ t, exec (.homeCleanEviction m) s = .next t ∧ t.fab.net = tdel s.fab.net m ∧
    (findL2 s.fab.mem a l = none → ∀ e, findDir t.fab.mem l = some e → e.present.getLsbD a = false ∧ e.owner ≠ some a) ∧
    t.fab.mem = { s.fab.mem with dir := t.fab.mem.dir }) ∧
  (∀ die slice, tfind s.fab.net m = some (.wbAck l die slice) → (∀ e ∈ s.fab.mem.dir, e.txn = none) → exec (.writeBackAck m) s = .next
    { s with fab := { s.fab with
      net := tdel s.fab.net m
      mem := { s.fab.mem with evb := dropFirst (fun e => e.die == die && e.line == l && e.dirtyLine) s.fab.mem.evb } } }) ∧
  (∀ die hold, exec (.reservationHoldExpiry die hold) s = .next { s with fab := { s.fab with
    mem := { s.fab.mem with holds := s.fab.mem.holds.filter fun h => !(h.die == die && h.id == hold) } } })

/-- 11 R325 to R328, 10 R299, R300: an agent without cache reads a line that no cache holds from memory, and memory stands; the store of a lane to a line
that may not be cached, when its channel's arbiter grants it, puts its bytes in memory, no other byte, and is acknowledged; a lane's atomic is performed at the
home's copy, which becomes M, and answers the old value; one to a line that may not be cached is performed in memory, once the line has been read, where it
changes no other byte, and answers the old value (of lines that are not lost, and whose read sectors are not poisoned). -/
def Obligations.UncachedAccess : Prop := ∀ (s : State) (m : Nat) (l : Line), NoneDue s.fab → HasTurn s m l →
  (∀ job part j x, s.fab.jobs = [(job, j)] → tfind s.fab.net m = some (.home l (.readOnce job part)) → findDir s.fab.mem l = none →
    findL2 s.fab.mem (homeOf s.keel l).die l = none → findEvb s.fab.mem (homeOf s.keel l).die l = none →
    fillFor s.fab l (homeOf s.keel l).die (fun st => st == .E || st == .M) = false →
    j.parts[part]? = some x → x.data = none → ∃ t, exec (.uncachedAgentRead m .ok) s = .next t ∧
    t.fab.net = tput (tdel s.fab.net m) m (.memRead x.loc x.len (.job job part)) ∧
    t.fab.mem = { s.fab.mem with arrived := s.fab.mem.arrived.filter (· != m) }) ∧
  (∀ w core sub entry, s.fab.jobs = [] → tfind s.fab.net m = some (.uncWrite w) → granted s.keel s.fab m = true →
    w.sink = .store core sub entry → w.loc.kind ≤ 1 → s.fab.mem.lost.contains (lineOf w.loc) = false →
    w.loc.off + w.bytes.length ≤ 2 ^ 48 → ∃ t, exec (.uncachedAgentWrite m) s = .next t ∧
    t.fab.net = tput (tdel s.fab.net m) s.fab.nextId (.storeAck core sub entry true) ∧
    (∀ kind part off, kind ≤ 1 → off < 2 ^ 48 → memByte t.fab.mem kind part off =
      if kind = w.loc.kind ∧ part = w.loc.part ∧ w.loc.off ≤ off then
        ((w.bytes[off - w.loc.off]?).join).getD (memByte s.fab.mem kind part off)
      else memByte s.fab.mem kind part off)) ∧
  (∀ a e c id i, s.fab.jobs = [] → tfind s.fab.net m = some (.home l (.atomic a)) → findDir s.fab.mem l = some e → e.txn = none →
    e.home = (homeOf s.keel l).die → e.present = bit5 e.home → findL2 s.fab.mem e.home l = some c → c.d.poison = 0 → a.sink = .load id i →
    Intact s l → wbOut s.fab l = false → s.fab.mem.lost.contains l = false → granuleHeld s.fab l = false →
    fillFor s.fab l e.home (fun st => st == .E || st == .M) = false →
    ∃ t c', exec (.homeAtomic m) s = .next t ∧ findL2 t.fab.mem e.home l = some c' ∧ c'.st = .M ∧ c'.d = (atomicLine a c.d).1 ∧
    (∀ ld p, findLoad s.fab id = some ld → ld.pieces[i]? = some p → p.data = none → ∃ ld' p', findLoad t.fab id = some ld' ∧
      ld'.pieces[i]? = some p' ∧ p' = { p with data := some (atomicLine a c.d).2, fault := 0 })) ∧
  (∀ a bad id i, s.fab.jobs = [] → tfind s.fab.net m = some (.farRead a bad) → bad.getLsbD (a.loc.off % 128 / 32) = false →
    chanPaused s.keel s.fab l = false → s.fab.mem.dir = [] → lineOf a.loc = l → a.loc.kind ≤ 1 → a.loc.off % 128 + a.size ≤ 128 →
    a.loc.off + a.size ≤ 2 ^ 48 → a.sink = .load id i → s.fab.mem.poison = [] → s.fab.mem.lost.contains l = false → ∃ t old, exec (.farAtomic m) s = .next t ∧
    old = memBytes s.fab.mem a.loc.kind a.loc.part a.loc.off a.size ∧
    memBytes t.fab.mem a.loc.kind a.loc.part a.loc.off a.size = bytesLE a.size (atomicNew a.op (8 * a.size) (leNat old)
      (a.a.toNat % 2 ^ (8 * a.size)) (a.b.toNat % 2 ^ (8 * a.size))) ∧
    (∀ kind part off, kind ≤ 1 → off < 2 ^ 48 →
      (kind ≠ a.loc.kind ∨ part ≠ a.loc.part ∨ off < a.loc.off ∨ a.loc.off + a.size ≤ off) →
      memByte t.fab.mem kind part off = memByte s.fab.mem kind part off) ∧
    (∀ ld p, findLoad s.fab id = some ld → ld.pieces[i]? = some p → p.data = none → ∃ ld' p', findLoad t.fab id = some ld' ∧
      ld'.pieces[i]? = some p' ∧ p' = { p with data := some old, fault := 0 }))

/-- 10 R288 to R294, R300: a near-memory controller without poisoned sectors answers a sail die's read with the line's bytes, when the channel's arbiter grants
it, and leaves it waiting while it does not; the home then counts the requester among the holders, or as the owner. The line of a far atomic is read so before
the atomic is performed (11 R328). A patrol scrub of a channel where nothing waits marks a sector it cannot correct and changes no byte; it changes nothing while
its partition's own requests wait. An LPDDR6 channel is paused by a drift compensation until that completes, retrains where its last 16 uncorrectable link
errors came within 1 ms, is trained again when a retrain succeeds, and shows a derated reading; no other channel changes. -/
def Obligations.MemoryControllers : Prop := ∀ (s : State),
  (∀ m a st l e, Quiet s → inOrder s.keel s.fab m = true → a < 4 → l.kind = 0 → s.fab.mem.poison = [] →
    tfind s.fab.net m = some (.memRead (locOfLine l) 128 (.fill a st)) → findDir s.fab.mem l = some e →
    (granted s.keel s.fab m = true → ∃ t e', exec (.memoryRead m .clean) s = .next t ∧
      t.fab.net = tput (tdel s.fab.net m) s.fab.nextId (.fill l (homeOf s.keel l).die a st
        { bytes := memBytes s.fab.mem 0 l.part (l.idx * 128) 128, valid := 0xF, dirty := 0, poison := 0 } none) ∧
      findDir t.fab.mem l = some e' ∧ e'.txn = none ∧
      (if st = .S then e'.present = e.present ||| bit5 a ∧ e'.owner = e.owner else e'.present = bit5 a ∧ e'.owner = some a) ∧
      t.fab.mem.nm = s.fab.mem.nm ∧ t.fab.mem.lpd = s.fab.mem.lpd) ∧
    (∀ o, granted s.keel s.fab m = false → exec (.memoryRead m o) s = .next s)) ∧
  (∀ m a, Quiet s → inOrder s.keel s.fab m = true → tfind s.fab.net m = some (.farAt a) → s.fab.mem.poison = [] →
    (granted s.keel s.fab m = true → ∃ t, exec (.memoryRead m .clean) s = .next t ∧
      t.fab.net = tmod s.fab.net m (fun _ => .farRead a 0) ∧ t.fab.mem = { s.fab.mem with arb := t.fab.mem.arb }) ∧
    (∀ o, granted s.keel s.fab m = false → exec (.memoryRead m o) s = .next s)) ∧
  (∀ sector o l, l = { kind := 0, part := sector / 2 ^ 43, idx := sector % 2 ^ 43 * 32 / 128 } →
    (waitingAt s.keel s.fab (channelOf s.keel l) = [] → l.part < 16 →
      ∃ t, exec (.patrolScrub sector o) s = .next t ∧ t.fab.mem = { s.fab.mem with poison := t.fab.mem.poison, arb := t.fab.mem.arb } ∧
      t.fab.net = s.fab.net ∧ (∀ mask : BitVec 4, o = .uncorrectable mask → mask.getLsbD (sector % 4) = true →
        poisonedAt t.fab.mem (sector / 2 ^ 43) (sector % 2 ^ 43 * 32) = true)) ∧
    ((waitingAt s.keel s.fab (channelOf s.keel l)).any (·.2.1 == l.part) = true → exec (.patrolScrub sector o) s = .next s)) ∧
  (∀ ch c, c = chanOf s.fab ch →
    (c.trained = true → exec (.lpddrDriftCompensation ch) s = .next { s with fab := modChan s.fab ch fun _ => { c with paused := true } }) ∧
    exec (.driftCompensationComplete ch) s = .next { s with fab := modChan s.fab ch fun _ => { c with paused := false } } ∧
    (c.trained = true → c.ues.length = 16 → (∀ t ∈ c.ues, c.ues.headD 0 ≤ t + 200000) → exec (.lpddrOnlineRetrain ch) s = .next { s with
      fab := modChan s.fab ch fun _ => { c with trained := false, retraining := true, retrains := min 255 (c.retrains + 1), ues := [] } }) ∧
    (c.retraining = true → exec (.lpddrRetrainComplete ch true) s = .next { s with
      fab := modChan s.fab ch fun _ => { c with retraining := false, trained := true, failed := false } }) ∧
    (∀ derated, c.trained = true → exec (.lpddrTemperatureRead ch derated) s = .next { s with
      fab := modChan s.fab ch fun _ => { c with derated := derated } }))

/-- 12 R354 to R357, R360, R364: an operation without stamp or reply arrives at the station of a counter that no fence names. An addition to an unpaired
counter serves the waiters: those that observe are told where the condition holds, and those that consume, in order, while the value covers the head,
whose n it then takes (the last that it releases is then the last agent). A first error is kept, and releases every waiter of a group with it. Where
nothing waits: an addition beyond 32 bits saturates and records 0x0402; a decrement that the value covers subtracts, and one that it does not cover
records 0x0403 and changes no value; SET and RESET store, RESET with the error cleared; on a paired counter a decrement or SET records 0x0405, and
an addition wraps and is reported to the partner, which, where the pair's bound is then broken, records 0x0404 as this counter does. The partner's
record of it reaches this counter only while it is paired with that partner. -/
def Obligations.CounterStations : Prop := ∀ (s : State) (m phys : Nat) (o : CntOp) (c : Counter),
  tfind s.fab.net m = some (.cnt o) → cntInOrder s.fab m = true → o.stamp = none → o.reply = .none → o.phys = phys →
  tfind s.fab.tab.ctrs phys = some c → (∀ e ∈ s.fab.tab.fences, e.2.phys ≠ phys) →
  (o.kind = .add → c.paired = false → c.value + o.n ≤ 0xFFFFFFFF → ∃ t c' out, exec (.counterOpArrival m) s = .next t ∧
    tfind t.fab.tab.ctrs phys = some c' ∧
    c' = { c with value := c'.value, cwait := c'.cwait
                  last := match out.getLast? with | some w => groupLast (w.wslot / 4) w.ctx | none => o.src
                  owait := c.owait.filter fun w => w.isQueue || decide (c.value + o.n < w.n) } ∧
    out ++ c'.cwait = c.cwait ∧ (out.map (·.n)).sum + c'.value = c.value + o.n ∧ (∀ w, c'.cwait.head? = some w → c'.value < w.n) ∧
    (∀ n w, ((c.owait.filter fun w => !w.isQueue && decide (w.n ≤ c.value + o.n)) ++ out)[n]? = some w →
      tfind t.fab.net (s.fab.nextId + n) = some (.release w true)) ∧
    (∀ x, x ≠ phys → tfind t.fab.tab.ctrs x = tfind s.fab.tab.ctrs x) ∧
    t = { s with fab := { s.fab with net := t.fab.net, nextId := t.fab.nextId, tab := { s.fab.tab with ctrs := t.fab.tab.ctrs } } }) ∧
  (o.kind = .error → c.err = 0 → ∃ t, exec (.counterOpArrival m) s = .next t ∧
    tfind t.fab.tab.ctrs phys = some { c with err := o.n, last := o.src, owait := c.owait.filter (·.isQueue), cwait := [] } ∧
    (∀ n w, ((c.owait ++ c.cwait).filter (!·.isQueue))[n]? = some w → tfind t.fab.net (s.fab.nextId + n) = some (.release w false))) ∧
  (c.cwait = [] → c.owait = [] →
    (o.kind = .add → c.paired = false → 0xFFFFFFFF < c.value + o.n → ∃ t, exec (.counterOpArrival m) s = .next t ∧
      CounterIs s t m phys { c with value := 0xFFFFFFFF, last := o.src, err := if c.err = 0 then 0x0402 else c.err
                                    errCount := if c.err = 0 then c.errCount else min 255 (c.errCount + 1) }) ∧
    (o.kind = .sub → c.paired = false → o.n ≤ c.value → ∃ t, exec (.counterOpArrival m) s = .next t ∧
      CounterIs s t m phys { c with value := c.value - o.n, last := o.src }) ∧
    (o.kind = .sub → c.paired = false → c.value < o.n → c.err = 0 → ∃ t, exec (.counterOpArrival m) s = .next t ∧
      CounterIs s t m phys { c with err := 0x0403, last := o.src }) ∧
    (o.kind = .set_ → c.paired = false → ∃ t, exec (.counterOpArrival m) s = .next t ∧
      CounterIs s t m phys { c with value := o.n, last := o.src }) ∧
    (o.kind = .reset → c.paired = false → ∃ t, exec (.counterOpArrival m) s = .next t ∧
      CounterIs s t m phys { c with value := o.n, err := 0, errCount := 0, last := o.src }) ∧
    (o.kind = .sub ∨ o.kind = .set_ → c.paired = true → c.err = 0 → ∃ t, exec (.counterOpArrival m) s = .next t ∧
      CounterIs s t m phys { c with err := 0x0405, last := o.src }) ∧
    (∀ c', o.kind = .add → c.paired = true → c' = { c with value := (c.value + o.n) % 2 ^ 32, last := o.src } →
      (c'.boundBroken = false → ∃ t, exec (.counterOpArrival m) s = .next t ∧ CounterSends s t m phys c' (.pair c.partner phys c'.value)) ∧
      (c'.boundBroken = true → c.err = 0 → ∃ t, exec (.counterOpArrival m) s = .next t ∧
        tfind t.fab.tab.ctrs phys = some { c' with err := 0x0404, last := deviceLast } ∧
        (∀ x, x ≠ phys → tfind t.fab.tab.ctrs x = tfind s.fab.tab.ctrs x) ∧
        t.fab.net = tput (tput (tdel s.fab.net m) s.fab.nextId (.pair c.partner phys c'.value)) (s.fab.nextId + 1)
          (.cnt { phys := c.partner, kind := .pairError phys, n := 0x0404, src := deviceLast, reply := .none, stamp := none }))) ∧
    (∀ partner, o.kind = .pairError partner → c.err = 0 → ∃ t, exec (.counterOpArrival m) s = .next t ∧
      CounterIs s t m phys (if c.paired = true ∧ c.partner = partner then { c with err := o.n, last := o.src } else c)))

/-- 12 R364: a report of the partner's value is held as the value last reported, while the counter is paired with the counter that reports; a report of
another changes nothing. -/
def Obligations.PairReports : Prop := ∀ (s : State) (m phys partner value : Nat) (c : Counter),
  tfind s.fab.net m = some (.pair phys partner value) → cntInOrder s.fab m = true → tfind s.fab.tab.ctrs phys = some c →
  ∃ t, exec (.pairPartnerReport m) s = .next t ∧
    CounterIs s t m phys (if c.paired = true ∧ c.partner = partner then { c with partnerSeen := value } else c)

/-- 12 R355, R358 to R361, 04 R110, R114, R115: a wait of n > 0 at a counter without error: a consuming wait at an empty list is answered at once where the
value covers it, and takes n; an observing wait where the condition holds; any other waits behind its list. A counter with an error answers at
once that the wait failed; so does a paired counter a consuming wait, and, where nothing waits there and no fence names it, records 0x0405. In a group
whose loads have all answered and where no path waits for a wait slot, an answer writes RD in the lanes of the wait and frees its slot; a failed one
also sets bit 1 of the group's status, and one at device or system scope that did not fail drops the partition's L1 lines of the core; a value read for
`cnt.rd` is written to its uniform register; the path then goes on, and no other group changes. -/
def Obligations.WaitsEnd : Prop := ∀ (s : State) (m phys : Nat) (c : Counter),
  (∀ consuming w, tfind s.fab.net m = some (.waitReq phys consuming w) → cntInOrder s.fab m = true → tfind s.fab.tab.ctrs phys = some c →
    (consuming = true → c.paired = true → c.cwait = [] → c.owait = [] → (∀ e ∈ s.fab.tab.fences, e.2.phys ≠ phys) →
      ∃ t, exec (.waitRequestArrival m) s = .next t ∧
      CounterSends s t m phys { c with err := if c.err = 0 then 0x0405 else c.err
                                       errCount := if c.err = 0 then c.errCount else min 255 (c.errCount + 1)
                                       last := if c.err = 0 then groupLast (w.wslot / 4) w.ctx else c.last } (.release w false)) ∧
    ((consuming = true → c.paired = false) → c.err ≠ 0 → exec (.waitRequestArrival m) s = .next { s with fab := { s.fab with
      net := tput (tdel s.fab.net m) s.fab.nextId (.release w false), nextId := s.fab.nextId + 1 } }) ∧
    (c.err = 0 → 0 < w.n → (consuming = true → c.paired = false) →
      (consuming = true → c.cwait = [] → w.n ≤ c.value → ∃ t, exec (.waitRequestArrival m) s = .next t ∧
        CounterSends s t m phys { c with value := c.value - w.n, last := groupLast (w.wslot / 4) w.ctx } (.release w true)) ∧
      (consuming = true → (c.cwait ≠ [] ∨ c.value < w.n) → ∃ t, exec (.waitRequestArrival m) s = .next t ∧
        CounterIs s t m phys { c with cwait := c.cwait ++ [w] }) ∧
      (consuming = false → c.holds w.n = true → exec (.waitRequestArrival m) s = .next { s with fab := { s.fab with
        net := tput (tdel s.fab.net m) s.fab.nextId (.release w true), nextId := s.fab.nextId + 1 } }) ∧
      (consuming = false → c.holds w.n = false → ∃ t, exec (.waitRequestArrival m) s = .next t ∧
        CounterIs s t m phys { c with owait := c.owait ++ [w] }))) ∧
  (∀ w ok gid slot g ws key p, tfind s.fab.net m = some (.release w ok) → gid = w.wslot / 4 → slot = w.wslot % 4 →
    findGroup s.fab gid = some g → tfind g.waits slot = some ws → tfind g.paths key = some p →
    g.paths.find? (fun p => p.2.st == .waitCounter slot) = some (key, p) →
    (∀ q ∈ g.paths, ∀ a b n r sc ac, q.2.st ≠ .waitSlot a b n r sc ac) → loadsOf s.fab gid = [] →
    ∃ t g', exec (.waitReleaseArrival m) s = .next t ∧ findGroup t.fab gid = some g' ∧
    g' = { g with paths := g'.paths, preg := g'.preg, waits := tdel g.waits slot, gstatus := if ok then g.gstatus else g.gstatus ||| 2 } ∧
    (∀ r l, l < 32 → pget g' r l = if r = ws.pred ∧ ws.act.getLsbD l = true then ok else pget g r l) ∧ PathAt g g' key p ∧
    OnlyGroup { s with fab := { s.fab with net := tdel s.fab.net m, mem := t.fab.mem } } t gid ∧
    t.fab.mem = { s.fab.mem with
      l1 := if ok = true ∧ 2 ≤ ws.scope then s.fab.mem.l1.filter (fun x => !(x.core == coreOfGid gid && x.part == g.part)) else s.fab.mem.l1 }) ∧
  (∀ o gid key reg scope g p a b, tfind s.fab.net m = some (.cnt o) → cntInOrder s.fab m = true → o.kind = .read → o.stamp = none →
    o.reply = .group gid key reg scope → tfind s.fab.tab.ctrs o.phys = some c → findGroup s.fab gid = some g →
    tfind g.paths key = some p → p.st = .waitRead a b → loadsOf s.fab gid = [] →
    ∃ t g', exec (.counterOpArrival m) s = .next t ∧ findGroup t.fab gid = some g' ∧ g' = { g with paths := g'.paths, ureg := g'.ureg } ∧
    (∀ r, uget g' r = if r = reg then BitVec.ofNat 32 c.value else uget g r) ∧ PathAt g g' key p ∧
    t.fab.tab.ctrs = s.fab.tab.ctrs)

/-- 13 R372, R380, R384, 15 R428, R429, log 36: a doorbell of another partition, and one of no queue, of another partition's queue or of a closed queue is
counted, and does nothing else; one of an open queue starts a read of TAIL, or is noted where a read is in progress. A TAIL beyond the ring closes the queue with
0x0601; one that names no further command ends the reading; a higher one starts the read of the next command. The last command of the ring that
arrives advances HEAD and is accepted at its place with the code of the first check that fails (and only its queue referenced), or with its lists or
descriptor still to be read, or, where none is to be read, it takes its references and stands accepted, a MATRIX with its descriptor. Stated where no
other read is in progress, of places in this device's memory. -/
def Obligations.QueuesAreRead : Prop := ∀ (s : State) (q : Nat), Quiet s →
  (∀ m page v, csOpen s.keel s.fab m = true → BitVec.getLsbD (w := 32) v 0 = true →
    (actsFor s.keel m page = false → exec (.doorbellRing m page q v) s = .next { marked s m with fab := { (marked s m).fab with
      tab := { s.fab.tab with foreign := tput s.fab.tab.foreign page (min 65535 (tgetD s.fab.tab.foreign page 0 + 1)) } } }) ∧
    (actsFor s.keel m page = true → (∀ x, findQueue s.fab q = some x → x.part = page →
        heldPart s.keel page = false ∧ s.keel.power.retention = 0 ∧ x.state ≠ 0) → exec (.doorbellRing m page q v) s = .next { marked s m with
      fab := { (marked s m).fab with
        tab := { s.fab.tab with stale := tput s.fab.tab.stale page (min 65535 (tgetD s.fab.tab.stale page 0 + 1)) } } }) ∧
    (∀ x, actsFor s.keel m page = true → findQueue s.fab q = some x → x.part = page → heldPart s.keel page = false →
      s.keel.power.retention = 0 → x.state = 0 →
      (x.reading = true → ∃ t, exec (.doorbellRing m page q v) s = .next t ∧ findQueue t.fab q = some { x with tailRead := true } ∧
        t.fab.jobs = s.fab.jobs ∧ t.fab.net = s.fab.net) ∧
      (∀ loc, x.reading = false → ringAt s.fab x.part .load x.ring 0 8 = .ok loc → loc.kind ≤ 1 →
        ∃ t, exec (.doorbellRing m page q v) s = .next t ∧ findQueue t.fab q = some { x with reading := true, tailRead := false } ∧
        tfind t.fab.jobs s.fab.nextId = some { sink := .tail q, parts := partsOf loc 8, die := x.die }))) ∧
  (∀ m value x tail, tfind s.fab.net m = some (.tailData q value 0) → findQueue s.fab q = some x → x.state = 0 →
    tail = (x.limit.map (min value)).getD value →
    ((value < x.head ∨ x.head + x.entries < value) → ∃ t, exec (.tailReadData m) s = .next t ∧
      findQueue t.fab q = some { x with state := 3, abort := 0x0601, reading := false, tailRead := false }) ∧
    (x.head ≤ value → value ≤ x.head + x.entries → tail ≤ x.head → x.tailRead = false → ∃ t, exec (.tailReadData m) s = .next t ∧
      findQueue t.fab q = some { x with tail := tail, reading := false } ∧ t.fab.net = tdel s.fab.net m ∧ t.fab.jobs = []) ∧
    (∀ loc, x.head < tail → value ≤ x.head + x.entries → ringAt s.fab x.part .load x.ring (64 + 64 * (x.head % x.entries)) 64 = .ok loc →
      loc.kind ≤ 1 → ∃ t, exec (.tailReadData m) s = .next t ∧ findQueue t.fab q = some { x with tail := tail, reading := true } ∧
      tfind t.fab.jobs s.fab.nextId = some { sink := .command q x.head, parts := partsOf loc 64, die := x.die })) ∧
  (∀ m bytes x loc sigOk bad desc code, tfind s.fab.net m = some (.cmdData q x.head bytes 0) → findQueue s.fab q = some x → x.state = 0 →
    tfind x.cmds x.head = none → x.head + 1 = x.tail → x.tailRead = false → ringAt s.fab x.part .store x.ring 8 8 = .ok loc → loc.kind ≤ 1 →
    acceptFault s.keel s.fab x bytes = (sigOk, bad) →
    (∀ a ∈ auxReads s.fab x.part bytes, ∃ l, checkAt s.fab x.part none .load a.1 1 a.2 = .ok l ∧ l.kind ≤ 1) →
    desc = (if cmdOp bytes = 3 then matrixPlace s.fab x (cmdAddr bytes 16) else none).map (locBytes s.fab.mem x.unit · (descLen .matrix)) →
    code = (bad.or (if refsPast s.fab (cmdRefs s.fab x q bytes) then some 0x0603
      else if cmdOp bytes ≠ 3 then none
      else match desc with | none => some 0x0106 | some b => matrixFault s.keel s.fab x b)) →
    ∃ t x' c', exec (.commandReadData m) s = .next t ∧ findQueue t.fab q = some x' ∧ tfind x'.cmds x.head = some c' ∧
    x' = { x with head := x.head + 1, cmds := tput x.cmds x.head c', ref := x'.ref, reading := x'.reading } ∧
    c' = (if bad = none ∧ auxReads s.fab x.part bytes ≠ [] then { bytes := bytes, sigOk := sigOk, left := 0, refs := [], stage := .fetching }
      else match code with
        | some e => { bytes := bytes, sigOk := sigOk, left := 0, refs := [(.queue, q)], stage := .acted e }
        | none => { bytes := bytes ++ desc.getD [], sigOk := sigOk, left := 0, refs := cmdRefs s.fab x q bytes, stage := .accepted }))

/-- 13 R381, R385, R390, R392, 15 R430: a command starts when none before it still waits, no barrier holds it and its fence is complete; a fence
that completed with an error fails the command with the fence's code, one that stands (or whose NOTIFY is still being written) makes it wait, and one that
is not there fails it with 0x0202. A command that has acted leaves a queue that the host holds, RETIRED counts it and no other command changes; one
without an error, which references no object but its queue, then adds its increment to its signal. An event record's acknowledgement lets WRITE
follow it, in order, and one out of order waits; the acknowledgement of a fence's NOTIFY ends that write. -/
def Obligations.CommandsStartAndRetire : Prop := ∀ (s : State) (q j : Nat) (x : Queue) (c : QCmd), findQueue s.fab q = some x →
  tfind x.cmds j = some c →
  (c.stage = .accepted → (∀ e ∈ x.cmds, e.1 < j → e.2.stage ≠ .fetching ∧ e.2.stage ≠ .checking ∧ e.2.stage ≠ .accepted ∧ e.2.stage ≠ .waiting) →
    (cmdBarrier c.bytes = true → ∀ e ∈ x.cmds, j ≤ e.1) → (mayRun s.keel x.part = true ∨ (runsHeld (cmdOp c.bytes) = true ∧ s.keel.power.stopping = false)) → x.state ≠ 1 →
    (cmdWaitEn c.bytes = false → ∃ t, exec (.commandStart q j) s = .next t ∧ CmdIs s t q j { c with stage := .started } ∧
      t = { s with fab := { s.fab with tab := { s.fab.tab with queues := t.fab.tab.queues } } }) ∧
    (cmdWaitEn c.bytes = true → tfind s.fab.tab.fences (cmdFence c.bytes) = none → ∃ t, exec (.commandStart q j) s = .next t ∧
      CmdIs s t q j { c with stage := .acted 0x0202 }) ∧
    (∀ fe, cmdWaitEn c.bytes = true → tfind s.fab.tab.fences (cmdFence c.bytes) = some fe →
      (fe.done = true → fe.notifying = false → ∃ t, exec (.commandStart q j) s = .next t ∧
        CmdIs s t q j { c with stage := if fe.errword.getLsbD 62 then .acted (fe.errword.toNat % 2 ^ 32) else .started } ∧
        t = { s with fab := { s.fab with tab := { s.fab.tab with queues := t.fab.tab.queues } } }) ∧
      (∀ ct, fe.done = false ∨ fe.notifying = true → tfind s.fab.tab.ctrs fe.phys = some ct → ∃ t, exec (.commandStart q j) s = .next t ∧
        CmdIs s t q j { c with stage := .waiting } ∧
        tfind t.fab.tab.ctrs fe.phys = some { ct with owait := ct.owait ++ [{ isQueue := true, ctx := x.ctx, wslot := q, n := fe.target }] }))) ∧
  (∀ code, Quiet s → c.stage = .acted code → x.ref.host ≠ 0 → x.ref.dying = false → ∃ t x', exec (.commandRetire q j) s = .next t ∧
    findQueue t.fab q = some x' ∧ tfind x'.cmds j = none ∧ (∀ i, i ≠ j → tfind x'.cmds i = tfind x.cmds i) ∧
    x' = { x with cmds := x'.cmds, retired := x.retired + 1, ref := x'.ref } ∧
    (∀ p, code = 0 → (c.refs = [] ∨ c.refs = [(.queue, q)]) → cmdSigEn c.bytes = true → c.sigOk = true → translate s.fab x.ctx (cmdSigCid c.bytes) .sig = some p →
      ∃ id, tfind t.fab.net id = some (.cnt { phys := p, kind := .add, n := cmdSigInc c.bytes, src := unitLast 6 x.ctx q
                                              reply := .none, stamp := none }))) ∧
  (∀ m ctx cx write die fault, tfind s.fab.net m = some (.eventAck ctx write die fault) → findCtx s.fab ctx = some cx →
    (write = cx.evAcked + 1 → ∃ t, exec (.eventRecordAck m) s = .next t ∧ findCtx t.fab ctx = some { cx with evAcked := write }) ∧
    (write ≠ 0 → write ≠ cx.evAcked + 1 → exec (.eventRecordAck m) s = .next s)) ∧
  (∀ m fence epoch die fe, tfind s.fab.net m = some (.notifyAck fence epoch die) → epochOf s.fab .fence fence = epoch →
    tfind s.fab.tab.fences fence = some fe → fe.notifying = true →
    ∃ t, exec (.eventRecordAck m) s = .next t ∧ tfind t.fab.tab.fences fence = some { fe with notifying := false })

/-- 13 R383, R384, R386, 03 R55, 12 R354: the commands of the engine queues, once they have started. LAUNCH hands its blocks to cores that it names,
where they wait (which core takes a block is free, log 17); one without blocks or cores does nothing. The descriptor of a COPY or ROUTE, when it has been
read, stands behind those of its engine, which checks it; the command that starts then waits for it (COPY stated where the descriptor has not ended yet).
MATRIX puts its descriptor behind those of its array, and waits while the array has no entry free (log 63). The counter commands send their operation to the
station and wait for its answer, and fail with 0x0401 where the counter is not mapped with the right; SIGNAL and DECREMENT by 0 do nothing; MARK does
nothing. -/
def Obligations.EngineCommands : Prop := ∀ (s : State) (q j : Nat) (x : Queue) (c : QCmd),
  (Started s q j 0x10 x c → ∃ t, exec (.markCmd q j) s = .next t ∧ ActsOnly s t q j c 0) ∧
  (Started s q j 0x01 x c → launchBlocks c.bytes = 0 ∨ launchCores c.bytes = 0 → ∃ t, exec (.launch q j) s = .next t ∧ ActsOnly s t q j c 0) ∧
  (Started s q j 0x01 x c → launchBlocks c.bytes ≠ 0 → launchCores c.bytes ≠ 0 → ∃ t, ∃ bs : List Block, exec (.launch q j) s = .next t ∧
    CmdIs s t q j { c with stage := .working, left := launchBlocks c.bytes } ∧ t.fab.cores.waiting = s.fab.cores.waiting ++ bs ∧
    bs.length = launchBlocks c.bytes ∧
    (∀ (i : Nat) (b : Block), bs[i]? = some b → b.core ∈ launchCoreList c.bytes ∧ b = {
      q := q, j := j, core := b.core, ix := i, ngroups := launchGroups c.bytes, nregs := launchRegs c.bytes, slice := launchSlice c.bytes
      sliceAt := 0, ctx := x.ctx, part := x.part, level := x.prio, entry := cmdAddr c.bytes 16, args := launchArgs c.bytes, gids := []
      killed := false }) ∧
    t = { s with fab := { s.fab with free := t.fab.free, tab := { s.fab.tab with queues := t.fab.tab.queues }
                                     cores := { s.fab.cores with waiting := t.fab.cores.waiting } } }) ∧
  (∀ m data b, Quiet s → tfind s.fab.net m = some (.cmdData q j data 0) → findQueue s.fab q = some x → tfind x.cmds j = some c →
    c.stage = .fetching → b = c.bytes ++ data → refsPast s.fab (cmdRefs s.fab x q b) = false → x.tail ≤ x.head → x.tailRead = false → x.state = 0 →
    (cmdOp b = 0x02 → ∃ t a, exec (.commandReadData m) s = .next t ∧
      CmdIs s t q j { c with bytes := b, left := 0, refs := cmdRefs s.fab x q b, stage := .checking } ∧
      tfind t.fab.eng.cp x.unit = some a ∧ (∀ o, o ≠ x.unit → tfind t.fab.eng.cp o = tfind s.fab.eng.cp o) ∧
      a.descs = (tgetD s.fab.eng.cp x.unit CopyEng.fresh).descs ++ [CpDesc.fresh s.fab.nextId (.command q j) x.ctx x.part x.prio (cmdAddr b 16)
        (slice b 64 64) (16 * x.unit) (roleOf s.fab (copyRole x.unit x.part))]) ∧
    (cmdOp b = 0x04 → ∃ t a, exec (.commandReadData m) s = .next t ∧
      CmdIs s t q j { c with bytes := b, left := 0, refs := cmdRefs s.fab x q b, stage := .checking } ∧
      tfind t.fab.eng.rt x.unit = some a ∧ (∀ o, o ≠ x.unit → tfind t.fab.eng.rt o = tfind s.fab.eng.rt o) ∧
      a.runs = (tgetD s.fab.eng.rt x.unit RouteEng.fresh).runs ++ [RtRun.fresh s.fab.nextId (.command q j) x.ctx x.part x.prio (cmdAddr b 16)
        (slice b 64 128) (16 * x.unit) (roleOf s.fab (routeRole x.unit x.part))])) ∧
  (Started s q j 0x02 x c → (∀ a, tfind s.fab.eng.cp x.unit = some a → (a.descs.map (·.id)).Nodup ∧ ∀ d ∈ a.descs, d.src = .command q j →
      d.accepted = false ∨ d.readsOut ≠ 0 ∨ d.writesOut ≠ 0 ∨ (d.fault = 0 ∧ d.step < cpSteps d)) →
    ∃ t, exec (.copy q j) s = .next t ∧ CmdIs s t q j { c with stage := .working } ∧
    t = { s with fab := { s.fab with tab := { s.fab.tab with queues := t.fab.tab.queues } } }) ∧
  (Started s q j 0x04 x c → ∃ t, exec (.route q j) s = .next t ∧ CmdIs s t q j { c with stage := .working } ∧
    t = { s with fab := { s.fab with tab := { s.fab.tab with queues := t.fab.tab.queues } } }) ∧
  (Started s q j 0x03 x c →
    (arrayFull s.fab x.unit = true → exec (.matrix q j) s = .next s) ∧
    (arrayFull s.fab x.unit = false → ∃ t a, exec (.matrix q j) s = .next t ∧ CmdIs s t q j { c with stage := .working } ∧
      tfind t.fab.eng.mx x.unit = some a ∧ a.cur = (tgetD s.fab.eng.mx x.unit MxArray.fresh).cur ∧
      a.queue = (tgetD s.fab.eng.mx x.unit MxArray.fresh).queue ++ [MxEntry.fresh s.fab.nextId (.command q j) x.ctx x.part x.prio
        (cmdAddr c.bytes 16) (slice c.bytes 64 64) (roleOf s.fab (bindRole x.unit x.part))] ∧
      (∀ o, o ≠ x.unit → tfind t.fab.eng.mx o = tfind s.fab.eng.mx o) ∧
      t = { s with fab := { s.fab with nextId := s.fab.nextId + 1, eng := { s.fab.eng with mx := t.fab.eng.mx }
                                       tab := { s.fab.tab with queues := t.fab.tab.queues } } })) ∧
  (∀ e ∈ [(0x08, Right.sig, Instr.counterSignal q j), (0x09, .set_, .counterDecrement q j)],
    Started s q j e.1 x c → cmdN c.bytes = 0 → (translate s.fab x.ctx (cmdCid c.bytes) e.2.1).isSome = true →
    ∃ t, exec e.2.2 s = .next t ∧ ActsOnly s t q j c 0) ∧
  (∀ e ∈ [(0x08, Right.sig, CntKind.add, Instr.counterSignal q j), (0x09, .set_, .sub, .counterDecrement q j),
      (0x0A, .set_, .set_, .counterSet q j), (0x0B, .set_, .reset, .counterReset q j), (0x0C, .rd, .read, .counterRead q j)],
    Started s q j e.1 x c →
    (translate s.fab x.ctx (cmdCid c.bytes) e.2.1 = none → ∃ t, exec e.2.2.2 s = .next t ∧ ActsOnly s t q j c 0x0401) ∧
    (∀ p, translate s.fab x.ctx (cmdCid c.bytes) e.2.1 = some p → (e.1 = 0x08 ∨ e.1 = 0x09 → cmdN c.bytes ≠ 0) → ∃ t, exec e.2.2.2 s = .next t ∧
      CmdIs s t q j { c with stage := .working } ∧
      t.fab.net = tput s.fab.net s.fab.nextId (.cnt { phys := p, kind := e.2.2.1, n := cmdN c.bytes, src := unitLast 6 x.ctx q
                                                      reply := .command q j, stamp := none }) ∧
      t = { s with fab := { s.fab with net := t.fab.net, nextId := s.fab.nextId + 1, tab := { s.fab.tab with queues := t.fab.tab.queues } } }))

/-- 05 R128, R548, 12 R349, R350, R352, R362, 13 R370, R372, R383: once they have started: OBJ_CREATE fills a free slot with a legal entry, which the owning
context holds, and fails with 0x0602 at a slot in use; OBJ_CHANGE of a legal entry replaces length, rights and cacheability; OBJ_RETAIN takes a host reference for
a context, and fails with 0x0603 beyond 4,096 of a context or 2^24 - 1 of an object; CNT_ALLOC makes a counter that its context holds, and fails with 0x0602 at one
in use; CNT_MAP writes a translation entry, and fails with 0x0601 beyond the context's number; CNT_PAIR of two counters, at which nothing waits and that no
fence names, makes them a pair that starts at V, with the command as the last agent, and fails with 0x0601 for one counter twice or a paired one. -/
def Obligations.ObjectCommands : Prop := ∀ (s : State) (q j : Nat) (x : Queue) (c : QCmd) (b : List Byte), b = c.bytes →
  (Started s q j 0x20 x c →
    ((tfind s.fab.tab.objs (half b 40)).isSome = true → ∃ t, exec (.objCreate q j) s = .next t ∧ ActsOnly s t q j c 0x0602) ∧
    (∀ cx, tfind s.fab.tab.objs (half b 40) = none → entryLegal s.keel s.fab x.part (cmdWord b 16) (cmdWord b 24) (cmdWord b 32) = true →
      findCtx s.fab (half b 42) = some cx → ∃ t, exec (.objCreate q j) s = .next t ∧ Acted s t q j c 0 ∧
      t.fab.tab.objs = tput s.fab.tab.objs (half b 40) {
        part := fld (cmdWord b 16) 52 4, kind := fld (cmdWord b 16) 48 4, base := fld (cmdWord b 16) 0 48, len := fld (cmdWord b 24) 0 48
        c := bitAt (cmdWord b 24) 52, a := bitAt (cmdWord b 24) 51, x := bitAt (cmdWord b 24) 50, w := bitAt (cmdWord b 24) 49
        r := bitAt (cmdWord b 24) 48, kdata := BitVec.ofNat 64 (cmdWord b 32), owner := half b 42
        ref := { host := 1, dev := 0, dying := false } } ∧
      findCtx t.fab (half b 42) = some { cx with holds := cx.holds ++ [(.memory, half b 40)] } ∧
      (∀ o, o ≠ half b 42 → findCtx t.fab o = findCtx s.fab o) ∧
      t = { s with fab := { s.fab with tab := { s.fab.tab with
        queues := t.fab.tab.queues, objs := t.fab.tab.objs, ctxs := t.fab.tab.ctxs } } })) ∧
  (∀ o, Started s q j 0x21 x c → tfind s.fab.tab.objs (half b 16) = some o → o.kind < 16 → o.part < 16 → o.base < 2 ^ 48 →
    entryLegal s.keel s.fab x.part (o.part * 2 ^ 52 + o.kind * 2 ^ 48 + o.base) (cmdWord b 24) o.kdata.toNat = true →
    ∃ t, exec (.objChange q j) s = .next t ∧ Acted s t q j c 0 ∧
    t.fab.tab.objs = tput s.fab.tab.objs (half b 16) { o with
      len := fld (cmdWord b 24) 0 48, c := bitAt (cmdWord b 24) 52, a := bitAt (cmdWord b 24) 51, x := bitAt (cmdWord b 24) 50
      w := bitAt (cmdWord b 24) 49, r := bitAt (cmdWord b 24) 48 } ∧
    t = { s with fab := { s.fab with tab := { s.fab.tab with queues := t.fab.tab.queues, objs := t.fab.tab.objs } } }) ∧
  (∀ o cx, Started s q j 0x22 x c → tfind s.fab.tab.objs (half b 16) = some o → findCtx s.fab (half b 18) = some cx →
    (4096 ≤ cx.retained.length ∨ 2 ^ 24 ≤ o.ref.host + 1 → ∃ t, exec (.objRetain q j) s = .next t ∧ ActsOnly s t q j c 0x0603) ∧
    (cx.retained.length < 4096 → o.ref.host + 1 < 2 ^ 24 → ∃ t, exec (.objRetain q j) s = .next t ∧ Acted s t q j c 0 ∧
      tfind t.fab.tab.objs (half b 16) = some { o with ref := { o.ref with host := o.ref.host + 1 } } ∧
      (∀ i, i ≠ half b 16 → tfind t.fab.tab.objs i = tfind s.fab.tab.objs i) ∧
      findCtx t.fab (half b 18) = some { cx with retained := cx.retained ++ [(.memory, half b 16)] } ∧
      (∀ i, i ≠ half b 18 → findCtx t.fab i = findCtx s.fab i) ∧
      t = { s with fab := { s.fab with tab := { s.fab.tab with
        queues := t.fab.tab.queues, objs := t.fab.tab.objs, ctxs := t.fab.tab.ctxs } } })) ∧
  (Started s q j 0x24 x c →
    ((tfind s.fab.tab.ctrs (half b 16)).isSome = true → ∃ t, exec (.cntAlloc q j) s = .next t ∧ ActsOnly s t q j c 0x0602) ∧
    (∀ cx, tfind s.fab.tab.ctrs (half b 16) = none → findCtx s.fab (half b 18) = some cx → ∃ t, exec (.cntAlloc q j) s = .next t ∧
      Acted s t q j c 0 ∧ t.fab.tab.ctrs = tput s.fab.tab.ctrs (half b 16) {
        value := word32 b 20, err := 0, errCount := 0, owner := x.part, ctx := half b 18, paired := false, consumer := false, partner := 0
        bound := 0, partnerSeen := 0, cwait := [], owait := [], last := noLast, ref := { host := 1, dev := 0, dying := false } } ∧
      findCtx t.fab (half b 18) = some { cx with holds := cx.holds ++ [(.counter, half b 16)] } ∧
      (∀ o, o ≠ half b 18 → findCtx t.fab o = findCtx s.fab o))) ∧
  (∀ cx, Started s q j 0x25 x c → findCtx s.fab (half b 16) = some cx →
    (cx.vcount ≤ half b 18 → ∃ t, exec (.cntMap q j) s = .next t ∧ ActsOnly s t q j c 0x0601) ∧
    (half b 18 < cx.vcount → ∃ t, exec (.cntMap q j) s = .next t ∧ Acted s t q j c 0 ∧
      t.fab.tab.xlate = tput s.fab.tab.xlate (half b 16 * 16384 + half b 18) (BitVec.ofNat 32 (word32 b 20)) ∧
      t = { s with fab := { s.fab with tab := { s.fab.tab with queues := t.fab.tab.queues, xlate := t.fab.tab.xlate } } })) ∧
  (∀ cp cc, Started s q j 0x26 x c → tfind s.fab.tab.ctrs (half b 16) = some cp → tfind s.fab.tab.ctrs (half b 18) = some cc →
    (half b 16 = half b 18 ∨ cp.paired = true ∨ cc.paired = true → ∃ t, exec (.cntPair q j) s = .next t ∧ ActsOnly s t q j c 0x0601) ∧
    (half b 16 ≠ half b 18 → cp.paired = false → cc.paired = false → cp.owait = [] → cc.owait = [] → cp.cwait = [] → cc.cwait = [] →
      (∀ f ∈ s.fab.tab.fences, f.2.phys ≠ half b 16 ∧ f.2.phys ≠ half b 18) → ∃ t, exec (.cntPair q j) s = .next t ∧ Acted s t q j c 0 ∧
      tfind t.fab.tab.ctrs (half b 16) = some { cp with
        value := word32 b 20, err := 0, errCount := 0, paired := true, consumer := false, partner := half b 18, bound := half b 24
        partnerSeen := word32 b 20, last := unitLast 6 x.ctx q } ∧
      tfind t.fab.tab.ctrs (half b 18) = some { cc with
        value := word32 b 20, err := 0, errCount := 0, paired := true, consumer := true, partner := half b 16, bound := half b 24
        partnerSeen := word32 b 20, last := unitLast 6 x.ctx q } ∧
      (∀ o, o ≠ half b 16 → o ≠ half b 18 → tfind t.fab.tab.ctrs o = tfind s.fab.tab.ctrs o) ∧
      t = { s with fab := { s.fab with tab := { s.fab.tab with queues := t.fab.tab.queues, ctrs := t.fab.tab.ctrs } } }))

/-- 13 R371 to R375, R396: OBJ_RELEASE, CNT_RELEASE and FENCE_RELEASE drop a host reference that the named context holds, and fail with 0x0601 where it
holds none. While other host references stand the object stays, with its epoch; without one it is dying while the device holds references; the last reference
with none of the device's frees the slot (of a fence, one that has completed) and advances its epoch, or leaves the object dying until 1 ms has passed since that epoch
last advanced. -/
def Obligations.ReleaseCommands : Prop := ∀ (s : State) (q j : Nat) (x : Queue) (c : QCmd) (cx : Ctx),
  ∀ e ∈ [(ObjKind.memory, 0x23, Instr.objRelease q j), (.counter, 0x27, .cntRelease q j), (.fence, 0x2A, .fenceRelease q j)],
    Started s q j e.2.1 x c → findCtx s.fab (half c.bytes 18) = some cx →
    (cx.retained.contains (e.1, half c.bytes 16) = false → cx.holds.contains (e.1, half c.bytes 16) = false →
      ∃ t, exec e.2.2 s = .next t ∧ ActsOnly s t q j c 0x0601) ∧
    (∀ r, refOf s.fab e.1 (half c.bytes 16) = some r →
      (cx.retained.contains (e.1, half c.bytes 16) = true ∨ cx.holds.contains (e.1, half c.bytes 16) = true) →
      (2 ≤ r.host → ∃ t, exec e.2.2 s = .next t ∧ Acted s t q j c 0 ∧
        refOf t.fab e.1 (half c.bytes 16) = some { r with host := r.host - 1, dying := false } ∧
        (∀ i, i ≠ half c.bytes 16 → refOf t.fab e.1 i = refOf s.fab e.1 i) ∧ epochOf t.fab e.1 (half c.bytes 16) = epochOf s.fab e.1 (half c.bytes 16)) ∧
      (r.host = 1 → r.dev ≠ 0 → ∃ t, exec e.2.2 s = .next t ∧ Acted s t q j c 0 ∧
        refOf t.fab e.1 (half c.bytes 16) = some { r with host := 0, dying := true }) ∧
      (r.host = 1 → r.dev = 0 → slotReady s.keel s.fab e.1 (half c.bytes 16) = false → ∃ t, exec e.2.2 s = .next t ∧ Acted s t q j c 0 ∧
        refOf t.fab e.1 (half c.bytes 16) = some { r with host := 0, dying := true } ∧ (e.1, half c.bytes 16, x.die) ∈ t.fab.tab.releases) ∧
      (r.host = 1 → r.dev = 0 → slotReady s.keel s.fab e.1 (half c.bytes 16) = true →
        (∀ fe, e.1 = .fence → tfind s.fab.tab.fences (half c.bytes 16) = some fe → fe.done = true ∧ fe.notifying = false) →
        ∃ t, exec e.2.2 s = .next t ∧ Acted s t q j c 0 ∧ refOf t.fab e.1 (half c.bytes 16) = none ∧
        epochOf t.fab e.1 (half c.bytes 16) = (epochOf s.fab e.1 (half c.bytes 16) + 1) % 256))

/-- 13 R372, R388 to R391: FENCE_CREATE without NOTIFY arms a fence on a counter, which holds a device reference for it, and completes it at once where the condition
holds already or the counter has an error; it fails with 0x0602 at a slot in use, and with 0x0603 beyond 2^24 - 1 references. FENCE_FAIL completes a fence that stands with
CAUSE 2 and its code, with the write of NOTIFY under way where its address passes the checks; a complete one stays, and no other fence changes. -/
def Obligations.FenceCommands : Prop := ∀ (s : State) (q j : Nat) (x : Queue) (c : QCmd) (b : List Byte), b = c.bytes →
  (Started s q j 0x28 x c →
    ((tfind s.fab.tab.fences (half b 40)).isSome = true → ∃ t, exec (.fenceCreate q j) s = .next t ∧ ActsOnly s t q j c 0x0602) ∧
    (∀ ct fe, tfind s.fab.tab.fences (half b 40) = none → tfind s.fab.tab.ctrs (fld (cmdWord b 16) 32 14) = some ct → cmdAddr b 24 = 0 →
      fe = { event := bitAt (cmdWord b 16) 62, part := x.part, owner := fld (cmdWord b 16) 48 10, phys := fld (cmdWord b 16) 32 14
             target := fld (cmdWord b 16) 0 32, errword := 0, notifying := false, notify := 0, watchEn := bitAt (cmdWord b 32) 32
             watch := fld (cmdWord b 32) 0 32, ref := { host := 1, dev := 0, dying := false } : Fence } →
      (2 ^ 24 ≤ ct.ref.dev + 1 → ∃ t, exec (.fenceCreate q j) s = .next t ∧ ActsOnly s t q j c 0x0603) ∧
      (ct.ref.dev + 1 < 2 ^ 24 → ct.err = 0 → ct.holds fe.target = false → ∃ t, exec (.fenceCreate q j) s = .next t ∧ Acted s t q j c 0 ∧
        t.fab.tab.fences = tput s.fab.tab.fences (half b 40) fe ∧
        tfind t.fab.tab.ctrs fe.phys = some { ct with ref := { ct.ref with dev := ct.ref.dev + 1 } } ∧
        t = { s with fab := { s.fab with tab := { s.fab.tab with
          queues := t.fab.tab.queues, fences := t.fab.tab.fences, ctrs := t.fab.tab.ctrs, ctxs := t.fab.tab.ctxs } } }) ∧
      (ct.ref.dev + 1 < 2 ^ 24 → ct.err = 0 → ct.holds fe.target = true → ∃ t, exec (.fenceCreate q j) s = .next t ∧ Acted s t q j c 0 ∧
        tfind t.fab.tab.fences (half b 40) = some { fe with errword := errWord 0 0 0 }) ∧
      (ct.ref.dev + 1 < 2 ^ 24 → ct.err ≠ 0 → ∃ t, exec (.fenceCreate q j) s = .next t ∧ Acted s t q j c 0 ∧
        tfind t.fab.tab.fences (half b 40) = some { fe with errword := errWord 1 ct.err ct.errCount }))) ∧
  (∀ fe, Started s q j 0x29 x c → tfind s.fab.tab.fences (half b 16) = some fe → ∃ t, exec (.fenceFail q j) s = .next t ∧ Acted s t q j c 0 ∧
    tfind t.fab.tab.fences (half b 16) = some (if fe.done then fe else { fe with
      errword := errWord 2 (word32 b 20) 0, notifying := (notifyPlace s.fab fe).isSome }) ∧
    (∀ i, i ≠ half b 16 → tfind t.fab.tab.fences i = tfind s.fab.tab.fences i))

/-- 05 R134, 12 R349, 13 R370, R372, R373, R383, R396, R398, R400, 19 R525: CTX_CREATE makes a context whose shares of local memory are free and read zero, and fails with
0x0602 at one in use, 0x0603 beyond the references of its ring's object, 0x0606 beyond 65,536 counters and 0x0604 where the shares find no room; CTX_DESTROY begins its teardown:
with mode 1 its queues stop, with mode 0 TAIL of its open queues is read once more. QUEUE_CREATE opens a queue, and fails with 0x0602 at one in use and 0x0603 as above;
QUEUE_DESTROY, whose host reference is the last, closes a queue, and frees another queue that is empty and that nothing references, once its epoch may advance. PART_RESET, of a quiesced
partition too, begins the reset of its partition with code 0x0506, stops its queues and kills its blocks. -/
def Obligations.ContextAndQueueCommands : Prop := ∀ (s : State) (q j : Nat) (x : Queue) (c : QCmd) (b : List Byte), b = c.bytes →
  (∀ i, Started s q j 0x2C x c → i = half b 16 →
    ((findCtx s.fab i).isSome = true → ∃ t, exec (.ctxCreate q j) s = .next t ∧ ActsOnly s t q j c 0x0602) ∧
    (findCtx s.fab i = none → refsPast s.fab [(.memory, slotOf (cmdAddr b 24))] = true →
      ∃ t, exec (.ctxCreate q j) s = .next t ∧ ActsOnly s t q j c 0x0603) ∧
    (findCtx s.fab i = none → refsPast s.fab [(.memory, slotOf (cmdAddr b 24))] = false → 65536 < (s.fab.tab.ctxs.map fun e => e.2.vcount).sum + half b 18 →
      ∃ t, exec (.ctxCreate q j) s = .next t ∧ ActsOnly s t q j c 0x0606) ∧
    (findCtx s.fab i = none → refsPast s.fab [(.memory, slotOf (cmdAddr b 24))] = false → (s.fab.tab.ctxs.map fun e => e.2.vcount).sum + half b 18 ≤ 65536 →
      placeShares s.keel s.fab x.part (sharePairs b (word32 b 48)) [] = none → ∃ t, exec (.ctxCreate q j) s = .next t ∧ ActsOnly s t q j c 0x0604) ∧
    (∀ shares, findCtx s.fab i = none → refsPast s.fab [(.memory, slotOf (cmdAddr b 24))] = false → (s.fab.tab.ctxs.map fun e => e.2.vcount).sum + half b 18 ≤ 65536 →
      placeShares s.keel s.fab x.part (sharePairs b (word32 b 48)) [] = some shares → ∃ t cx, exec (.ctxCreate q j) s = .next t ∧
      Acted s t q j c 0 ∧ findCtx t.fab i = some cx ∧ (∀ o, o ≠ i → findCtx t.fab o = findCtx s.fab o) ∧
      cx.part = x.part ∧ cx.vcount = half b 18 ∧ cx.admin = bitAt (numAt b 20 1) 0 ∧ cx.handler = bitAt (numAt b 20 1) 1 ∧
      cx.evRing = cmdAddr b 24 ∧ cx.evEntries = word32 b 32 ∧ cx.evWrite = 0 ∧ cx.evSeq = 0 ∧ cx.shares = shares ∧ cx.holds = [] ∧
      cx.ending = none ∧ cx.ref = { host := 1, dev := 0, dying := false } ∧
      (∀ h ∈ shares, ∀ a, h.first * 16384 ≤ a → a < (h.first + h.units) * 16384 → locByte t.fab.mem h.core a = 0))) ∧
  (∀ i cx, Started s q j 0x2D x c → i = half b 16 → findCtx s.fab i = some cx → cx.ending = none → ∃ t cx', exec (.ctxDestroy q j) s = .next t ∧
    Acted s t q j c 0 ∧ findCtx t.fab i = some cx' ∧
    cx'.ending = some { abort := decide (numAt b 18 1 = 1), requester := x.ctx, tag := cmdTag b, die := x.die
                        stopped := decide (numAt b 18 1 = 1), released := false } ∧
    (numAt b 18 1 = 1 → cx' = { cx with ending := cx'.ending } ∧
      ∀ k y, findQueue s.fab k = some y → y.part = cx.part → y.ctx = i → ∃ y', findQueue t.fab k = some y' ∧ y'.state = 1) ∧
    (numAt b 18 1 ≠ 1 → ∀ k y loc, findQueue s.fab k = some y → y.part = cx.part → y.ctx = i → y.state = 0 →
      ringAt s.fab y.part .load y.ring 0 8 = .ok loc → loc.kind ≤ 1 →
      ∃ y', findQueue t.fab k = some y' ∧ y'.reading = true ∧ y'.tailRead = y.reading ∧ y'.state = 0)) ∧
  (∀ i, Started s q j 0x2E x c → i = half b 16 →
    ((findQueue s.fab i).isSome = true → ∃ t, exec (.queueCreate q j) s = .next t ∧ ActsOnly s t q j c 0x0602) ∧
    (findQueue s.fab i = none → refsPast s.fab [(.memory, slotOf (cmdAddr b 24))] = true →
      ∃ t, exec (.queueCreate q j) s = .next t ∧ ActsOnly s t q j c 0x0603) ∧
    (findQueue s.fab i = none → refsPast s.fab [(.memory, slotOf (cmdAddr b 24))] = false → ∃ t y, exec (.queueCreate q j) s = .next t ∧ Acted s t q j c 0 ∧ findQueue t.fab i = some y ∧
      y.ctx = half b 18 ∧ y.part = x.part ∧ y.cls = numAt b 20 1 % 8 ∧ y.admin = bitAt (numAt b 20 1) 3 ∧ y.prio = numAt b 21 1 ∧
      y.unit = half b 22 ∧ y.ring = cmdAddr b 24 ∧ y.entries = word32 b 32 ∧ y.head = 0 ∧ y.retired = 0 ∧ y.tail = 0 ∧ y.state = 0 ∧
      y.cmds = [] ∧ y.reading = false ∧ y.ref = { host := 1, dev := 0, dying := false })) ∧
  (∀ i y, Started s q j 0x2F x c → i = half b 16 → findQueue s.fab i = some y → y.ref.host = 1 →
    (y.ref.dev ≠ 0 ∨ slotReady s.keel s.fab .queue i = false → ∃ t y', exec (.queueDestroy q j) s = .next t ∧ Acted s t q j c 0 ∧
      findQueue t.fab i = some y' ∧ y'.state = 2 ∧ y'.ref = { y.ref with host := 0, dying := true }) ∧
    (y.ref.dev = 0 → y.cmds = [] → i ≠ q → slotReady s.keel s.fab .queue i = true → ∃ t, exec (.queueDestroy q j) s = .next t ∧
      Acted s t q j c 0 ∧ findQueue t.fab i = none)) ∧
  (∀ r, findQueue s.fab q = some x → tfind x.cmds j = some c → c.stage = .started → cmdOp c.bytes = 0x30 → s.keel.power.stopping = false →
    resetting s.fab x.part = false → stoppedCtx s.fab x.ctx = false → partRec s.keel x.part = some r → ∃ t, exec (.partReset q j) s = .next t ∧ Acted s t q j c 0 ∧
    tfind t.fab.tab.resets x.part = some { code := 0x0506, phase := 0, die := x.die } ∧ (∀ p, p ≠ x.part → tfind t.fab.tab.resets p = tfind s.fab.tab.resets p) ∧
    (∀ k y, findQueue s.fab k = some y → y.part = x.part → ∃ y', findQueue t.fab k = some y' ∧ y'.state = if y.state = 2 then 2 else 1) ∧
    (∀ k w, tfind s.fab.cores.blocks k = some w → w.part = x.part → ∃ w', tfind t.fab.cores.blocks k = some w' ∧ w'.killed = true))

/-- 13 R394 to R400, 12 R367, 10 R306: the end of a teardown frees the context and drops its translation entries and no other; the end of a partition's reset clears
its counters, numeric flags and lock masks and ends the reset; an epoch that is due advances, no more than once in 1 ms. The ends are stated of a context or partition
without queues, engine entries, fences or objects left and with no access under way, whose epochs may advance at once. -/
def Obligations.TeardownsAndResets : Prop := ∀ (s : State),
  (∀ i cx td, findCtx s.fab i = some cx → cx.ending = some td → td.released = false → td.stopped = true →
    scopeQuiet s.fab ⟨cx.part, some i⟩ = true → scopeQueues s.fab ⟨cx.part, some i⟩ = [] → cx.holds = [] → cx.retained = [] →
    s.fab.eng.cp = [] → s.fab.eng.rt = [] → s.fab.eng.mx = [] → s.fab.tab.fences = [] → s.fab.tab.ctrs = [] → cx.ref.dev = 0 →
    s.fab.tab.releases = [] → slotReady s.keel s.fab .context i = true → (cx.shares.map (·.core)).Nodup → s.fab.tab.roles = [] → ∃ t, exec (.contextTeardownComplete i) s = .next t ∧ findCtx t.fab i = none ∧
    (∀ e ∈ t.fab.tab.xlate, e.1 / 16384 ≠ i) ∧ (∀ e ∈ s.fab.tab.xlate, e.1 / 16384 ≠ i → e ∈ t.fab.tab.xlate)) ∧
  (∀ part r, tfind s.fab.tab.resets part = some r → r.phase = 0 → scopeQuiet s.fab ⟨part, none⟩ = true → linesQuiet s.fab part = true →
    tetherHeld s.fab part = [] → s.fab.tab.releases = [] → scopeQueues s.fab ⟨part, none⟩ = [] → s.fab.eng.cp = [] → s.fab.eng.rt = [] → s.fab.eng.mx = [] → s.fab.tab.fences = [] →
    s.fab.tab.roles = [] → ∃ t, exec (.partitionResetComplete part) s = .next t ∧ tfind t.fab.tab.resets part = none ∧
    (∀ p ct, tfind s.fab.tab.ctrs p = some ct → tfind t.fab.tab.ctrs p = some (if ct.owner = part then { ct with
      value := 0, err := 0, errCount := 0, paired := false, consumer := false, partner := 0, bound := 0, partnerSeen := 0, cwait := []
      owait := [] } else ct)) ∧
    (∀ key, key % 16 = part → flagsAt t key = 0) ∧ (∀ key, key % 16 ≠ part → flagsAt t key = flagsAt s key) ∧
    (∀ die, part < 16 → lockOf t.fab die part = 0) ∧ t.keel = s.keel) ∧
  (∀ unit key e, (match unit with
      | .copyEngine cl p => key = copyRole cl p ∧ p < 16
      | .routingEngine cl p => key = routeRole cl p ∧ p < 16
      | .coreBinding core => s.fab.tab.roles.filter (fun e => e.1 / 16 == 3 * 4096 + core && e.2.due) = [(key, e)]) →
    tfind s.fab.tab.roles key = some e → e.due = true → (∀ at_, e.lastAt = some at_ → at_ + 200000 ≤ s.keel.time) →
    s.fab.tab.releases = [] → (∀ r ∈ s.fab.tab.resets, r.2.phase ≠ 2) → (∀ x ∈ s.fab.tab.ctxs, x.2.ending = none) → ∃ t, exec (.epochAdvance unit) s = .next t ∧
    tfind t.fab.tab.roles key = some { value := (e.value + 1) % 256, lastAt := some s.keel.time, due := false } ∧
    (∀ o, o ≠ key → tfind t.fab.tab.roles o = tfind s.fab.tab.roles o) ∧
    t = { s with fab := { s.fab with tab := { s.fab.tab with roles := t.fab.tab.roles } } })

/-- 02 R44, 06 R168 to R170, R172, R173, R177, R179, R180, R184, R186 to R188, 07 R200, R203, 13 R372, R395, 14 R405, R414: an array that is on, is not cut and has
one descriptor, in a device whose local memories have no bad word. A descriptor that passes its checks is accepted, refers to its object, takes its stamp and pins the
active bank of its table, and at its partition's slot runs at level 3; a failed check removes it, records the fault on the descriptor's counter, and fails the command
that sent it. At the end of a step the array takes the next ready step, at once where its shape is that of the last and after a bubble otherwise; a working step
ends the gap and the ballast, a skipped one is a beat of the gap. A working step's beats count as work; the step in progress leaves its block open, or, the last of all, closes
it, and a gap begins. A tile is decoded before its step. The bubble counts 64 beats. A gap whose ballast has run GAP_LEN beats, which count as work, begins the
ramp-down, which runs down. A finished descriptor adds INC, with its stamp, and leaves. -/
def Obligations.MatrixArray : Prop := ∀ (s : State) (core : Nat) (a : MxArray) (x : MxEntry) (begun : MxArray),
  a = arrayOf s.fab core → coreOn s.keel core = true → cutOn s.keel core = false → s.fab.mem.badWords = [] → a.queue = [x] →
  begun = { (if (stepBeats x x.step).isNone then enterGap s.keel a else { a with inGap := false, ramp := none, ballast := false }) with
    cur := some x.id, bubble := none, last := some (mxShape x.bytes), lastCtx := tput a.lastCtx x.level x.ctx, queue := [{ x with decoded := false }] } →
  (∀ noSf, x.accepted = false → working s.keel s.fab x.part x.ctx = true →
    (∀ c r e, x.src = .routing c r e → roleOf s.fab (bindRole core x.part) = x.stamp) →
    noSf = (mxM x.bytes != 0 && mxN x.bytes != 0 && mxSfEn x.bytes && (sftFor s.keel s.fab (dieOfCore core) (mxTable x.bytes) x.part).isNone) →
    (∀ r, mxCheck s.fab x.part x.ctx core x.bytes false = .ok r → noSf = false → refsPast s.fab [(.memory, mxObj x.bytes)] = false →
      ∃ t, exec (.matrixDescriptorAccept core) s = .next t ∧ findEntry t.fab core x.id = some { x with
        accepted := true, phys := r.phys, base := r.base, refs := [(.memory, mxObj x.bytes)], ameta := r.am, bmeta := r.bm
        stamp := roleOf s.fab (bindRole core x.part), level := if ownsSlot s.keel s.fab (dieOfCore core) x.part then 3 else x.level
        finished := mxM x.bytes == 0 || mxN x.bytes == 0
        bank := ((tfind s.fab.eng.sft (sftKey (dieOfCore core) (mxTable x.bytes))).map (·.active)).getD 0 } ∧
      OnlyCorrected s t ∧ t.fab.net = s.fab.net ∧
      (∀ o, tfind s.fab.tab.objs (mxObj x.bytes) = some o → tfind t.fab.tab.objs (mxObj x.bytes) =
        some { o with ref := { o.ref with dev := o.ref.dev + 1 } })) ∧
    (∀ code, (match mxCheck s.fab x.part x.ctx core x.bytes false with
        | .error e => some e
        | .ok _ => if noSf then some 0x0108 else if refsPast s.fab [(.memory, mxObj x.bytes)] then some 0x0603 else none) = some code →
      x.refs = [] → ∃ t, exec (.matrixDescriptorAccept core) s = .next t ∧ findEntry t.fab core x.id = none ∧
      (∀ p, translate s.fab x.ctx (mxCid x.bytes) .sig = some p → tfind t.fab.net s.fab.nextId = some (.cnt {
        phys := p, kind := .error, n := code, src := unitLast 2 x.ctx core, reply := .none, stamp := none })) ∧
      (∀ q j c, x.src = .command q j → findCmd s.fab q j = some c → (∀ e, c.stage ≠ .acted e) →
        findCmd t.fab q j = some { c with stage := .acted code }))) ∧
  (a.bubble = none → a.cur = none → mxReady s.keel s.fab a.queue x = true → (stepTile s.fab.mem core x x.step).isSome = true →
    ∃ t, exec (.foldStepEnd core) s = .next t ∧ t = { s with fab := { s.fab with eng := { s.fab.eng with mx := t.fab.eng.mx } } } ∧
    arrayOf t.fab core = (if a.last.all (· == mxShape x.bytes) = true then begun else { a with bubble := some x.id })) ∧
  (a.bubble = none → a.cur = some x.id → resetting s.fab x.part = false → stoppedCtx s.fab x.ctx = false →
    x.step % blockSlots x.bytes + 1 < blockSlots x.bytes → (stepTile s.fab.mem core x (x.step + 1)).isSome = true →
    ∃ t y, exec (.foldStepEnd core) s = .next t ∧ findEntry t.fab core x.id = some y ∧
    y = { x with step := x.step + 1, isOpen := true, acc := y.acc, decoded := y.decoded } ∧ OnlyCorrected s t ∧ t.fab.tab = s.fab.tab ∧
    t.fab.net = s.fab.net ∧ (∀ n, stepBeats x x.step = some n →
      tgetD t.fab.work (unitKey 1 core) 0 = tgetD s.fab.work (unitKey 1 core) 0 + n)) ∧
  (a.bubble = none → a.cur = some x.id → resetting s.fab x.part = false → stoppedCtx s.fab x.ctx = false → x.step + 1 = mxSteps x.bytes →
    ∃ t y, exec (.foldStepEnd core) s = .next t ∧ findEntry t.fab core x.id = some y ∧
    y = { x with step := x.step + 1, isOpen := false, acc := [], finished := true } ∧
    (arrayOf t.fab core).cur = none ∧ (a.last.isSome = true → (arrayOf t.fab core).inGap = true) ∧ t.fab.mem.nm = s.fab.mem.nm ∧
    (∀ k, k ≠ arrayFlagKey core x.part → flagsAt t k = flagsAt s k) ∧
    (∀ b, core < 65536 → stepBeats x x.step = some b → tgetD t.fab.work (unitKey 1 core) 0 = tgetD s.fab.work (unitKey 1 core) 0 + b)) ∧
  (x.accepted = true → x.finished = false → x.decoded = false → a.cur = none → x.step < mxSteps x.bytes → needsDecode x x.step = true →
    ∃ t, exec (.tileDecodeComplete core) s = .next t ∧ arrayOf t.fab core = { a with queue := [{ x with decoded := true }] } ∧
    t = { s with fab := { s.fab with eng := { s.fab.eng with mx := t.fab.eng.mx } } }) ∧
  (a.bubble = some x.id → mxReady s.keel s.fab a.queue x = true → (stepTile s.fab.mem core x x.step).isSome = true →
    ∃ t, exec (.shapeChangeBubbleEnd core) s = .next t ∧ arrayOf t.fab core = begun ∧ t = { s with fab := { s.fab with
      elapsed := tupd s.fab.elapsed (unitKey 1 core) 0 (· + 64), eng := { s.fab.eng with mx := t.fab.eng.mx } } }) ∧
  (∀ n fraction, a.inGap = true → a.ballast = true → a.ramp = none → a.bubble = none → n = gapLen s.keel - a.gapBeats →
    fraction = ((s.keel.image).map (·.power.fraction)).getD 48 → ∃ t, exec (.gapLenExpiry core) s = .next t ∧
    arrayOf t.fab core = (if fraction = 0 then { a with gapBeats := a.gapBeats + n, ballast := false }
      else { a with gapBeats := a.gapBeats + n, ramp := some fraction }) ∧
    t = { s with fab := { s.fab with
      elapsed := tupd s.fab.elapsed (unitKey 1 core) 0 (· + n), work := tupd s.fab.work (unitKey 1 core) 0 (· + n)
      classWork := t.fab.classWork, eng := { s.fab.eng with mx := t.fab.eng.mx } } }) ∧
  (∀ n, a.ramp = some n → ∃ t, exec (.ballastRampStep core) s = .next t ∧
    arrayOf t.fab core = (if n ≤ 1 then { a with ramp := none, ballast := false } else { a with ramp := some (n - 1) }) ∧
    t = { s with fab := { s.fab with eng := { s.fab.eng with mx := t.fab.eng.mx } } }) ∧
  (x.finished = true → resetting s.fab x.part = false → stoppedCtx s.fab x.ctx = false → ∃ t, exec (.matrixComplete core) s = .next t ∧
    (arrayOf t.fab core).queue = [] ∧ t.keel = s.keel ∧ tfind t.fab.net s.fab.nextId = some (.cnt {
      phys := x.phys, kind := .add, n := mxInc x.bytes, src := unitLast 2 x.ctx core, stamp := some (bindRole core x.part, x.stamp)
      reply := match x.src with
        | .command q j => .command q j
        | _ => .none }))

/-- 05 R132, R148, R151 to R156, R545, 13 R372, R384, R395, 14 R403: a copy engine with one descriptor, no gather of a routing run, that has not failed. A copy or a transpose that passes
its checks is accepted, holds a reference on each operand and takes its stamps, and a command that sent it stands accepted; one of a group without rows or bytes ends
at once, with INC; a gather holds its three operands and reads its index list. One whose counter is not mapped is refused with 0x0401, one with an illegal field
records 0x0301 on its counter, and a command that sent it fails. A ready step begins, a gather's with the read of its indices; the step in progress of a copy or transpose
issues its reads and its beats count as work. An acknowledged write is counted, and with the last one of a complete descriptor its INC goes to the counter, with its
stamp, and it leaves. Reads are stated of this device's memory. -/
def Obligations.CopyEngines : Prop := ∀ (s : State) (cluster : Nat) (a : CopyEng) (d : CpDesc), Quiet s → tfind s.fab.eng.cp cluster = some a →
  coreOn s.keel (16 * cluster) = true → a.descs = [d] → d.fault = 0 → (∀ c r e, d.src ≠ .routing c r e) →
  (d.accepted = false → d.readsOut = 0 → d.writesOut = 0 → d.step = 0 → d.refs = [] → working s.keel s.fab d.part d.ctx = true →
    (∀ p o slots passed, translate s.fab d.ctx (cpCid d.bytes) .sig = some p → cpFields s.keel s.fab d.part d.bytes = true →
      cpOperands s.fab d = .ok o → cpOp d.bytes ≤ 2 →
      slots = [slotOf (cpSrc d.bytes), slotOf (cpDst d.bytes)] ++ (if cpOp d.bytes = 2 then [slotOf (cpAux d.bytes)] else []) →
      refsPast s.fab (slots.map fun x => (.memory, x)) = false →
      passed = { d with phys := p, refs := slots.map fun x => (ObjKind.memory, x), source := o.source, dest := o.dest, aux := o.aux, room := o.room } →
      (cpOp d.bytes ≤ 1 → cpEmpty d.bytes = false → cpBounds d o = true → ∃ t, exec (.copyDescriptorAccept cluster) s = .next t ∧
        findDesc t.fab cluster d.id = some { passed with
          accepted := true, stamp := roleOf s.fab (copyRole cluster d.part)
          dstStamp := if o.dest.kind = 2 then roleOf s.fab (bindRole o.dest.core d.part) else 0
          metaStamp := if d.outMeta.kind = 2 then roleOf s.fab (bindRole d.outMeta.core d.part) else 0 } ∧
        (∀ x, slotOf (cpSrc d.bytes) ≠ slotOf (cpDst d.bytes) → tfind s.fab.tab.objs (slotOf (cpSrc d.bytes)) = some x →
          tfind t.fab.tab.objs (slotOf (cpSrc d.bytes)) = some { x with ref := { x.ref with dev := x.ref.dev + 1 } }) ∧
        (∀ q j c, d.src = .command q j → findCmd s.fab q j = some c → c.stage = .checking →
          findCmd t.fab q j = some { c with stage := .accepted }) ∧
        t = { s with fab := { s.fab with
          eng := { s.fab.eng with cp := t.fab.eng.cp }, tab := { s.fab.tab with objs := t.fab.tab.objs, queues := t.fab.tab.queues } } }) ∧
      (∀ gid, d.src = .group gid → cpEmpty d.bytes = true → ∃ t, exec (.copyDescriptorAccept cluster) s = .next t ∧
        findDesc t.fab cluster d.id = none ∧ tfind t.fab.net s.fab.nextId = some (.cnt {
          phys := p, kind := .add, n := cpInc d.bytes, src := unitLast 3 d.ctx cluster, reply := .none
          stamp := some (copyRole cluster d.part, roleOf s.fab (copyRole cluster d.part)) })) ∧
      (cpOp d.bytes = 2 → cpEmpty d.bytes = false → cpBounds d o = true → o.aux.kind ≤ 1 →
        partsOf (shift o.aux 0) (4 * cpRows d.bytes) ≠ [] → ∃ t id, exec (.copyDescriptorAccept cluster) s = .next t ∧
        findDesc t.fab cluster d.id = some { passed with step := 2, readsOut := 1 } ∧
        tfind t.fab.jobs id = some { sink := .copy cluster d.id (sinkStep 0 2), parts := partsOf (shift o.aux 0) (4 * cpRows d.bytes)
                                     die := engDie cluster })) ∧
    (∀ code, code = (if translate s.fab d.ctx (cpCid d.bytes) .sig = none then 0x0401 else 0x0301) →
      translate s.fab d.ctx (cpCid d.bytes) .sig = none ∨ cpFields s.keel s.fab d.part d.bytes = false →
      ∃ t, exec (.copyDescriptorAccept cluster) s = .next t ∧ findDesc t.fab cluster d.id = none ∧
      (∀ p, translate s.fab d.ctx (cpCid d.bytes) .sig = some p → tfind t.fab.net s.fab.nextId = some (.cnt {
        phys := p, kind := .error, n := code, src := unitLast 3 d.ctx cluster, reply := .none, stamp := none })) ∧
      (∀ q j c, d.src = .command q j → findCmd s.fab q j = some c → (∀ e, c.stage ≠ .acted e) →
        findCmd t.fab q j = some { c with stage := .acted code }))) ∧
  (d.accepted = true → a.cur = none → d.step < cpSteps d → working s.keel s.fab d.part d.ctx = true → d.src.runs s.fab = true →
    (indexed d = true ∨ stepRows d d.step = [] → ∃ t, exec (.copyStepEnd cluster) s = .next t ∧
      tfind t.fab.eng.cp cluster = some { a with cur := some d.id, lastCtx := tput a.lastCtx d.level d.ctx } ∧
      t = { s with fab := { s.fab with eng := { s.fab.eng with cp := t.fab.eng.cp } } }) ∧
    (∀ ps, indexed d = false → stepRows d d.step ≠ [] → d.aux.kind ≤ 1 → ps ≠ [] →
      ps = partsOf (shift d.aux (4 * (stepRows d d.step).headD 0)) (4 * (stepRows d d.step).length) →
      ∃ t id, exec (.copyStepEnd cluster) s = .next t ∧ findDesc t.fab cluster d.id = some { d with readsOut := d.readsOut + 1 } ∧
      tfind t.fab.jobs id = some { sink := .copy cluster d.id (sinkStep d.step 1), parts := ps, die := engDie cluster } ∧ t.keel = s.keel)) ∧
  (∀ ps, d.accepted = true → a.cur = some d.id → mayRun s.keel d.part = true → cpOp d.bytes ≤ 1 → d.source.kind ≤ 1 →
    ps = (stepReads d d.step).flatMap (fun p => partsOf (shift d.source p.1) p.2) → ps ≠ [] →
    ∃ t id, exec (.copyStepEnd cluster) s = .next t ∧
    findDesc t.fab cluster d.id = some { d with step := d.step + 1, readsOut := d.readsOut + 1 } ∧
    tfind t.fab.jobs id = some { sink := .copy cluster d.id (sinkStep d.step 0), parts := ps, die := engDie cluster } ∧
    tgetD t.fab.work (unitKey 5 cluster) 0 = tgetD s.fab.work (unitKey 5 cluster) 0 + copyBeats d d.step ∧ t.keel = s.keel) ∧
  (∀ m, tfind s.fab.net m = some (.copyAck cluster d.id 0) → d.accepted = true →
    (d.readsOut ≠ 0 ∨ 1 < d.writesOut ∨ d.step < cpSteps d → ∃ t, exec (.copyWriteAck m) s = .next t ∧
      findDesc t.fab cluster d.id = some { d with writesOut := d.writesOut - 1 } ∧
      t = { s with fab := { s.fab with net := tdel s.fab.net m, eng := { s.fab.eng with cp := t.fab.eng.cp } } }) ∧
    (d.readsOut = 0 → d.writesOut = 1 → cpSteps d ≤ d.step → d.src.runs s.fab = true → ∃ t, exec (.copyWriteAck m) s = .next t ∧
      findDesc t.fab cluster d.id = none ∧ (d.refs = [] → t.fab.mem = s.fab.mem) ∧
      tfind t.fab.net s.fab.nextId = some (.cnt {
        phys := d.phys, kind := .add, n := cpInc d.bytes, src := unitLast 3 d.ctx cluster
        reply := match d.src with
          | .command q j => .command q j
          | _ => .none
        stamp := some (copyRole cluster d.part, d.stamp) })))

/-- 05 R132, 07 R212, R213, R215 to R218, R223, R227, R228, R547, 13 R372, R384, R395: a routing engine with one run that has not failed. A run without exchange that passes
its checks holds references on what it names, takes its stamps and is accepted with its acceptance beats as work, and begins with its scores (stated of one without templates);
an empty one has nothing to do; one with a table of capacities reads it first; a command that sent an accepted one stands accepted. One whose counter is not mapped is
refused with 0x0401, one with an illegal field records 0x0301 on its counter, one whose SSTRIDE is misaligned 0x0204, and a command that sent it fails. A ready step
begins; a step of scores reads the scores of as many tokens as 512 beats take, which count as work. When the capacities are decided, no expert's list exceeds its
capacity, and a run fails only under the fail policy with an overflow. An expert whose gathers are done enters its array with its count for M, or waits for one of
the engine's 8 or the array's 40 entries. A run whose work is done adds INC, with its stamp, and leaves; one that the fail policy ended records 0x0303. -/
def Obligations.RoutingEngines : Prop := ∀ (s : State) (cluster : Nat) (a : RouteEng) (r : RtRun), Quiet s → tfind s.fab.eng.rt cluster = some a →
  coreOn s.keel (16 * cluster) = true → a.runs = [r] → r.fault = 0 → r.readsOut = 0 → working s.keel s.fab r.part r.ctx = true → r.inbox = [] →
  (r.accepted = false → r.phase = 0 → r.places = [] → r.rooms = [] → r.refs = [] →
    (∀ p scores xs r1, translate s.fab r.ctx (rtCid r.bytes) .sig = some p → rtFields r.bytes = true → rtExch r.bytes = false →
      rtOperands s.fab r ((rtNamed r.bytes).take 1) = .ok scores → rtSstride r.bytes % rtScoreBytes r.bytes = 0 →
      rtOperands s.fab r ((rtNamed r.bytes).drop 1) = .ok xs → r1 = { r with
        phys := p, places := (scores ++ xs).map (·.1), rooms := (scores ++ xs).map (·.2)
        refs := ((rtNamed r.bytes).filter (·.2.2.2)).map fun x => (.memory, slotOf x.2.1) } → refsPast s.fab r1.refs = false →
      (rtEmpty r.bytes = true → ∃ t r', exec (.routeDescriptorAccept cluster) s = .next t ∧ findRun t.fab cluster r.id = some r' ∧ r' = { r1 with
        accepted := true, phase := 7, next := 0, spoilt := [], stamp := roleOf s.fab (routeRole cluster r.part)
        binds := (List.range 16).map fun c => roleOf s.fab (bindRole (16 * cluster + c) r.part) }) ∧
      (∀ r2, rtEmpty r.bytes = false → rtCaptab r.bytes = false → rtLaunch r.bytes = false → 4 * rtCap r.bytes ≤ rtLstride r.bytes →
        r2 = { r1 with caps := List.replicate (rtExperts r.bytes) (rtCap r.bytes) } → rtBounds r2 = true →
        ∃ t r', exec (.routeDescriptorAccept cluster) s = .next t ∧ findRun t.fab cluster r.id = some r' ∧ r' = { r2 with
          accepted := true, phase := 0, next := 0, spoilt := r'.spoilt, stamp := roleOf s.fab (routeRole cluster r.part)
          binds := (List.range 16).map fun c => roleOf s.fab (bindRole (16 * cluster + c) r.part) } ∧
        tgetD t.fab.work (unitKey 6 cluster) 0 = tgetD s.fab.work (unitKey 6 cluster) 0 + 16 ∧
        (∀ q j c, r.src = .command q j → findCmd s.fab q j = some c → c.stage = .checking →
          findCmd t.fab q j = some { c with stage := .accepted }) ∧
        t = { s with fab := { s.fab with
          eng := { s.fab.eng with rt := t.fab.eng.rt }, tab := { s.fab.tab with objs := t.fab.tab.objs, queues := t.fab.tab.queues }
          work := t.fab.work, elapsed := t.fab.elapsed } }) ∧
      (rtEmpty r.bytes = false → rtCaptab r.bytes = true → 4 * rtExperts r.bytes ≤ r1.rooms.getD 1 0 → (rtPlace r1 1).kind ≤ 1 →
        ∃ t id, exec (.routeDescriptorAccept cluster) s = .next t ∧ findRun t.fab cluster r.id = some { r1 with phase := 2, readsOut := 1 } ∧
        tfind t.fab.jobs id = some { sink := .route cluster r.id 0, parts := partsOf (shift (rtPlace r1 1) 0) (4 * rtExperts r.bytes)
                                     die := engDie cluster })) ∧
    (∀ code scores, translate s.fab r.ctx (rtCid r.bytes) .sig = none ∧ code = 0x0401 ∨
      translate s.fab r.ctx (rtCid r.bytes) .sig ≠ none ∧ rtFields r.bytes = false ∧ code = 0x0301 ∨
      translate s.fab r.ctx (rtCid r.bytes) .sig ≠ none ∧ rtFields r.bytes = true ∧ rtOperands s.fab r ((rtNamed r.bytes).take 1) = .ok scores ∧
        rtSstride r.bytes % rtScoreBytes r.bytes ≠ 0 ∧ code = 0x0204 → ∃ t, exec (.routeDescriptorAccept cluster) s = .next t ∧
      findRun t.fab cluster r.id = none ∧
      (∀ p, translate s.fab r.ctx (rtCid r.bytes) .sig = some p → tfind t.fab.net s.fab.nextId = some (.cnt {
        phys := p, kind := .error, n := code, src := unitLast 4 r.ctx cluster, reply := .none, stamp := none })) ∧
      (∀ q j c, r.src = .command q j → findCmd s.fab q j = some c → (∀ e, c.stage ≠ .acted e) →
        findCmd t.fab q j = some { c with stage := .acted code }))) ∧
  (r.accepted = true → a.cur = none → r.toLaunch = [] → r.phase = 0 → r.next < rtTokens r.bytes → r.src.runs s.fab = true → ∃ t, exec (.routingStepEnd cluster) s = .next t ∧
    tfind t.fab.eng.rt cluster = some { a with cur := some r.id, lastCtx := tput a.lastCtx r.level r.ctx } ∧
    t = { s with fab := { s.fab with eng := { s.fab.eng with rt := t.fab.eng.rt } } }) ∧
  (∀ next cut beats, r.accepted = true → a.cur = some r.id → r.toLaunch = [] → r.phase = 0 → r.next < rtTokens r.bytes → 0 < rtExperts r.bytes →
    (rtPlace r 0).kind ≤ 1 → stepEnd r = (next, cut, beats) → ∃ t, exec (.routingStepEnd cluster) s = .next t ∧
    findRun t.fab cluster r.id = some { r with next := next, cut := cut, readsOut := next - r.next } ∧ next ≤ rtTokens r.bytes ∧ beats ≤ 512 ∧
    (r.next < next ∨ cut = r.cut + 512) ∧ tgetD t.fab.work (unitKey 6 cluster) 0 = tgetD s.fab.work (unitKey 6 cluster) 0 + beats ∧
    (∀ i, r.next ≤ i → i < next → ∃ id, tfind t.fab.jobs id = some { sink := .route cluster r.id i, die := engDie cluster
                                                                     parts := partsOf (shift (rtPlace r 0) (i * rtSstride r.bytes))
                                                                       (rtExperts r.bytes * rtScoreBytes r.bytes) })) ∧
  (r.accepted = true → a.cur = none → r.toLaunch = [] → r.phase = 1 → rtNorm r.bytes = 0 → r.next = 0 → rtTokens r.bytes ≠ 0 →
    ∃ t r', exec (.routingStepEnd cluster) s = .next t ∧ findRun t.fab cluster r.id = some r' ∧
    r' = { r with phase := 2, next := 0, assigns := r'.assigns, ovf := r'.ovf, failed := r'.failed, demand := r'.demand, emptyRanks := r'.emptyRanks } ∧
    (∀ e, (r'.assigns.filter fun x => x.expert == e).length ≤ r.caps.getD e 0) ∧
    (r'.failed = true → rtPolicy r.bytes = 2 ∧ r'.ovf ≠ [])) ∧
  (∀ expert core, r.gathers.contains (expert, 0) = true → r.gwait = [] → r.toLaunch = [expert] →
    core = 16 * cluster + tmCore (tmplAt (rtTable r 2) expert) →
    (routedEntries s.fab core < 8 → arrayFull s.fab core = false → ∃ t, exec (.gatherComplete cluster expert) s = .next t ∧
      findRun t.fab cluster r.id = some { r with
        gathers := r.gathers.filter (·.1 != expert), ready := r.ready ++ [expert], toLaunch := [], launched := r.launched + 1 } ∧
      (arrayOf t.fab core).queue = (arrayOf s.fab core).queue ++ [MxEntry.fresh s.fab.nextId (.routing cluster r.id expert) r.ctx r.part r.level
        (BitVec.ofNat 64 (slotOf (cmdAddr r.bytes 96) * 2 ^ 48 + (offOf (cmdAddr r.bytes 96) + 128 * expert) % 2 ^ 48))
        (withM (tmplAt (rtTable r 2) expert) (countOf r expert)) (r.binds.getD (tmCore (tmplAt (rtTable r 2) expert)) 0)] ∧
      t = { s with fab := { s.fab with nextId := s.fab.nextId + 1, eng := { s.fab.eng with rt := t.fab.eng.rt, mx := t.fab.eng.mx } } }) ∧
    (8 ≤ routedEntries s.fab core ∨ arrayFull s.fab core = true → ∃ t, exec (.gatherComplete cluster expert) s = .next t ∧
      findRun t.fab cluster r.id = some { r with gathers := r.gathers.filter (·.1 != expert), ready := r.ready ++ [expert] } ∧
      t = { s with fab := { s.fab with eng := { s.fab.eng with rt := t.fab.eng.rt } } })) ∧
  (r.accepted = true → 7 ≤ r.phase → rtQuiet r = true → r.toLaunch = [] → r.src.runs s.fab = true → ∃ t, exec (.routingComplete cluster) s = .next t ∧
    findRun t.fab cluster r.id = none ∧
    (r.failed = false → tfind t.fab.net s.fab.nextId = some (.cnt {
      phys := r.phys, kind := .add, n := rtInc r.bytes, src := unitLast 4 r.ctx cluster, stamp := some (routeRole cluster r.part, r.stamp)
      reply := match r.src with
        | .command q j => .command q j
        | _ => .none })) ∧
    (∀ p, r.failed = true → translate s.fab r.ctx (rtCid r.bytes) .sig = some p → tfind t.fab.net s.fab.nextId = some (.cnt {
      phys := p, kind := .error, n := 0x0303, src := unitLast 4 r.ctx cluster, reply := .none, stamp := none })))

/-- 15 R422 to R427, 00 R15: downstream requests. A flit of a broken form, or a request whose tag is in use, is discarded and counted. A
control-space access of a wrong size, alignment or attachment is answered with STATUS 1 and changes nothing, any other is performed and answered; with
DMA writes before it that are not performed it waits for them. A DMA access whose mark reaches no memory or whose operands are no legal ones is answered
with STATUS 1, one that the object check refuses with STATUS 2 and its code; what the data units of a refusal hold is open (log 71). Any other access to
near memory or LPDDR6 goes out: a read and a write as one access for every line they touch, with a hint to place where the target is present, and an
atomic as one. -/
def Obligations.ControlSpaceAndDma : Prop := ∀ (s : State) (att : Nat) (fl : Flit), Quiet s →
  (∀ e ∈ [(0x01, Instr.csRd att fl), (0x02, .csWr att fl), (0x03, .dmaRd att fl), (0x04, .dmaWr att fl), (0x05, .dmaWrp att fl),
      (0x06, .dmaAtom att fl), (0x10, .coRds att fl), (0x11, .coOwn att fl), (0x12, .coWb att fl), (0x13, .coEvict att fl),
      (0x18, .snpRsp att fl), (0x20, .memRdata att fl), (0x21, .memWcmp att fl)], FlitArrives s e.1 att fl →
    (flitOk fl = false ∨ (isResponse e.1 = false ∧ s.fab.link.quiescing = false ∧ s.fab.link.downTags.contains (att, fl.tag) = true)) →
    exec e.2 s = .next { s with fab := { s.fab with link := { s.fab.link with protoErr := min 65535 (s.fab.link.protoErr + 1) } } }) ∧
  (∀ a size, a = fl.w1.toNat % 2 ^ 32 → size = (if fl.sub = 2 then 4 else if fl.sub = 3 then 8 else 0) → dmaWrites s.fab att = [] →
    (∀ e ∈ [(0x01, Instr.csRd att fl), (0x02, .csWr att fl)], FlitTaken s e.1 att fl →
      (csAligned a size = false ∨ (∃ x, attOf a = some x ∧ x ≠ att)) → ∃ t, exec e.2 s = .next t ∧ Answers s t att fl 0x81 1 0 0 0) ∧
    (FlitTaken s 0x01 att fl → csAligned a size = true → (∀ x, attOf a = some x → x = att) → ∃ t, exec (.csRd att fl) s = .next t ∧
      Answers s t att fl 0x81 0 (BitVec.ofNat 64 (csRead s.keel (taken s att fl) (markOf fl) a size)) 0 1) ∧
    (∀ r, FlitTaken s 0x02 att fl → csAligned a size = true → (∀ x, attOf a = some x → x = att) →
      r = csWrite s.keel (taken s att fl) (markOf fl) a size (fl.w2.toNat % 2 ^ (8 * size)) →
      exec (.csWr att fl) s = .next { s with keel := r.1, fab := respond r.2 att fl 0x81 0 0 0 0 [] })) ∧
  (∀ e ∈ [(0x01, Instr.csRd att fl), (0x02, .csWr att fl)], FlitTaken s e.1 att fl → dmaWrites s.fab att ≠ [] →
    exec e.2 s = .next { s with fab := { s.fab with link := { s.fab.link with
      downTags := s.fab.link.downTags ++ [(att, fl.tag)], csWait := [(att, dmaWrites s.fab att, fl)] } } }) ∧
  (∀ e ∈ [(0x03, Instr.dmaRd att fl, (0x83, max 1 (min 8 fl.sub)), Use.load, 32, 32 * fl.sub, decide (1 ≤ fl.sub ∧ fl.sub ≤ 8)),
      (0x04, .dmaWr att fl, (0x84, 0), .store, 32, 32 * fl.len, fl.hint != 3), (0x05, .dmaWrp att fl, (0x84, 0), .store, 32, 32, fl.hint != 3),
      (0x06, .dmaAtom att fl, (0x83, 1), .both, if bitAt fl.sub 7 then 8 else 4, if bitAt fl.sub 7 then 8 else 4,
        fld fl.sub 5 2 == 0 && decide (0x08 ≤ fld fl.sub 0 5 ∧ fld fl.sub 0 5 ≤ 0x11))], FlitTaken s e.1 att fl →
    (reachOf s.keel fl = .none ∨ e.2.2.2.2.2.2 = false → ∃ t, exec e.2.1 s = .next t ∧ Refused s t att fl e.2.2.1.1 e.2.2.1.2 1 0) ∧
    (∀ code, reachOf s.keel fl ≠ .none → e.2.2.2.2.2.2 = true →
      tetherCheck s.keel s.fab fl e.2.2.2.1 e.2.2.2.2.1 e.2.2.2.2.2.1 = .error code →
      ∃ t, exec e.2.1 s = .next t ∧ Refused s t att fl e.2.2.1.1 e.2.2.1.2 2 code)) ∧
  (∀ loc, FlitTaken s 0x03 att fl → 1 ≤ fl.sub → fl.sub ≤ 8 → DmaReaches s fl .load 32 (32 * fl.sub) loc → ∃ t, exec (.dmaRd att fl) s = .next t ∧
    tfind t.fab.jobs s.fab.nextId = some { sink := .dma att fl.tag, parts := partsOf loc (32 * fl.sub), die := att } ∧
    (∀ i p, (partsOf loc (32 * fl.sub))[i]? = some p → tfind t.fab.net (s.fab.nextId + 1 + i) =
      some (if cached s.keel p.loc then .home (lineOf p.loc) (.readOnce s.fab.nextId i) else .memRead p.loc p.len (.job s.fab.nextId i))) ∧
    t.fab.link = { (taken s att fl).link with dma := tput s.fab.link.dma (att * 4096 + fl.tag) { f := fl, left := 1, fault := 0 } } ∧
    t = { s with fab := { s.fab with link := t.fab.link, jobs := t.fab.jobs, net := t.fab.net, nextId := t.fab.nextId } }) ∧
  (∀ loc, ∀ e ∈ [(0x04, Instr.dmaWr att fl, 32 * fl.len, fl.data.map some),
      (0x05, .dmaWrp att fl, 32, fl.data.mapIdx fun i b => if fl.w2.getLsbD i then some b else none)], ∀ ws, FlitTaken s e.1 att fl → fl.hint ≠ 3 →
    DmaReaches s fl .store 32 e.2.2.1 loc →
    ws = writesOf (.dma att fl.tag) (if (fl.hint = 1 ∧ fl.target < 48 * s.keel.sails) ∨ (fl.hint = 2 ∧ corePresent s.keel fl.target = true)
      then fl.hint else 0) fl.target loc e.2.2.2 → ∃ t, exec e.2.1 s = .next t ∧
    (∀ (i : Nat) (w : AgentWrite), ws[i]? = some w → tfind t.fab.net (s.fab.nextId + i) =
      some (if cached s.keel w.loc then .home (lineOf w.loc) (.write w) else .uncWrite w)) ∧
    t.fab.link = { (taken s att fl).link with dma := tput s.fab.link.dma (att * 4096 + fl.tag) { f := fl, left := ws.length, fault := 0 } } ∧
    t = { s with fab := { s.fab with link := t.fab.link, net := t.fab.net, nextId := s.fab.nextId + ws.length } }) ∧
  (∀ loc size a, FlitTaken s 0x06 att fl → size = (if bitAt fl.sub 7 then 8 else 4) → fld fl.sub 5 2 = 0 → 0x08 ≤ fld fl.sub 0 5 →
    fld fl.sub 0 5 ≤ 0x11 → DmaReaches s fl .both size size loc →
    a = { loc := loc, op := fld fl.sub 0 5, size := size, who := none, sink := .dma att fl.tag
          a := BitVec.ofNat 128 (if fld fl.sub 0 5 = 0x11 then numAt fl.data 0 8 else fl.w2.toNat)
          b := BitVec.ofNat 128 (numAt fl.data 8 8) } →
    ∃ t, exec (.dmaAtom att fl) s = .next t ∧
    t.fab.net = tput s.fab.net s.fab.nextId (if cached s.keel loc then .home (lineOf loc) (.atomic a) else .farAt a) ∧
    t.fab.link = { (taken s att fl).link with dma := tput s.fab.link.dma (att * 4096 + fl.tag) { f := fl, left := 1, fault := 0 } } ∧
    t = { s with fab := { s.fab with link := t.fab.link, net := t.fab.net, nextId := s.fab.nextId + 1 } })

/-- 15 R424, R425, 11 R318 to R323: the tether die as a coherent agent. CO_RDS and CO_OWN ask the line's home for agent 4. What the mark or the
object check refuses is answered with STATUS 1 or 2, by CO_DATA, but a CO_OWN of a line that the tether die holds by CO_CMP; the bytes of a refusal are
open (log 71). CO_WB sends the dirty sectors of a line that the tether die owns to the home, CO_EVICT the eviction; a line that the tether die has
not asked for, and for CO_WB one that it does not own, is answered at once. A response ends the request under its tag: a snoop gives the home the data
that it brings, or gives them to the requester and tells the home, a forward without data goes on from memory, a read gives its lane the bytes, and a
write acknowledges its store; one under a tag that nothing waits for does nothing. -/
def Obligations.CoherentFlits : Prop := ∀ (s : State) (att : Nat) (fl : Flit), Quiet s →
  (∀ e ∈ [(0x10, Instr.coRds att fl, Use.load, HomeReq.read 4), (0x11, .coOwn att fl, .store, .own 4 true)], ∀ holds, FlitTaken s e.1 att fl →
    holds = (e.1 == 0x11 && (heldLine s.fab fl).any fun l => (findDir s.fab.mem l).any (·.present.getLsbD 4)) →
    (reachOf s.keel fl = .none ∨ s.keel.power.retention ≠ 0 →
      ∃ t, exec e.2.1 s = .next t ∧ Refused s t att fl (if holds then 0x91 else 0x90) (if holds then 0 else 4) 1 0) ∧
    (∀ code, reachOf s.keel fl ≠ .none → s.keel.power.retention = 0 → coCheck s.keel s.fab fl e.2.2.1 = .error code →
      ∃ t, exec e.2.1 s = .next t ∧ Refused s t att fl (if holds then 0x91 else 0x90) (if holds then 0 else 4) 2 code) ∧
    (∀ l, reachOf s.keel fl ≠ .none → s.keel.power.retention = 0 → coCheck s.keel s.fab fl e.2.2.1 = .ok l → ∃ t, exec e.2.1 s = .next t ∧
      t = { s with fab := { s.fab with
        net := tput s.fab.net s.fab.nextId (.home l e.2.2.2), nextId := s.fab.nextId + 1
        link := { (taken s att fl).link with
          coPend := s.fab.link.coPend ++ [(l, att, fl)], coAddr := s.fab.link.coAddr.filter (·.1 != l) ++ [(l, fl.w1)] } } })) ∧
  (∀ e ∈ [(0x12, Instr.coWb att fl), (0x13, .coEvict att fl)], FlitTaken s e.1 att fl → heldLine s.fab fl = none →
    ∃ t, exec e.2 s = .next t ∧ Answers s t att fl 0x91 0 0 0 0) ∧
  (∀ l, FlitTaken s 0x12 att fl → heldLine s.fab fl = some l →
    (∀ e, findDir s.fab.mem l = some e → e.owner = some 4 → ∃ t, exec (.coWb att fl) s = .next t ∧ t = { s with fab := { s.fab with
      net := tput s.fab.net s.fab.nextId (.wb l 4 (homeOf s.keel l).slice { bytes := fl.data, valid := 0xF, dirty := fl.w2.truncate 4, poison := 0 })
      nextId := s.fab.nextId + 1, link := { (taken s att fl).link with coPend := s.fab.link.coPend ++ [(l, att, fl)] } } }) ∧
    ((∀ e, findDir s.fab.mem l = some e → e.owner ≠ some 4) → ∃ t, exec (.coWb att fl) s = .next t ∧ Answers s t att fl 0x91 0 0 0 0)) ∧
  (∀ l, FlitTaken s 0x13 att fl → heldLine s.fab fl = some l → ∃ t, exec (.coEvict att fl) s = .next t ∧ t = { s with fab := { s.fab with
    net := tput s.fab.net s.fab.nextId (.evict l 4), nextId := s.fab.nextId + 1
    link := { (taken s att fl).link with coPend := s.fab.link.coPend ++ [(l, att, fl)] } } }) ∧
  (∀ e ∈ [(0x18, Instr.snpRsp att fl), (0x20, .memRdata att fl), (0x21, .memWcmp att fl)], FlitTaken s e.1 att fl →
    tfind s.fab.link.upReq (att * 4096 + fl.tag) = none → exec e.2 s = .next s) ∧
  (∀ l, FlitTaken s 0x18 att fl → Completes s att fl (.snoopInv l) → exec (.snpRsp att fl) s = .next { s with fab := { s.fab with
    net := tput s.fab.net s.fab.nextId (.invAck l 4 (if fl.len = 4 then
      some { bytes := fl.data, valid := 0xF, dirty := fl.w2.truncate 4, poison := 0 } else none))
    nextId := s.fab.nextId + 1, link := withoutUp s att fl } }) ∧
  (∀ l r e, r < 4 → FlitTaken s 0x18 att fl → Completes s att fl (.snoopFwd l r) → findDir s.fab.mem l = some e →
    (fl.len = 4 → ∃ t, exec (.snpRsp att fl) s = .next t ∧ t.fab.net = tput (tput s.fab.net s.fab.nextId
        (.fill l (tetherEntry r) r .S { bytes := fl.data, valid := 0xF, dirty := 0, poison := 0 } none)) (s.fab.nextId + 1) (.fwdNotify l 4) ∧
      findDir t.fab.mem l = some { e with
        owner := if (fl.w2.truncate 4 : BitVec 4) = 0 then none else e.owner
        present := if fl.sub = 0 then e.present &&& ~~~(bit5 4) else e.present } ∧ t.fab.link = withoutUp s att fl) ∧
    (fl.len = 0 → ∃ t e', exec (.snpRsp att fl) s = .next t ∧
      t.fab.net = tput s.fab.net s.fab.nextId (.memRead (locOfLine l) 128 (.fill r .S)) ∧ findDir t.fab.mem l = some e' ∧ e'.owner = none ∧
      t.fab.link = withoutUp s att fl)) ∧
  (∀ id p ld x, FlitTaken s 0x20 att fl → Completes s att fl (.piece id p) → findLoad s.fab id = some ld → ld.pieces[p]? = some x → x.data = none →
    ∃ t ld', exec (.memRdata att fl) s = .next t ∧ t.fab.link = withoutUp s att fl ∧ findLoad t.fab id = some ld' ∧
    ld'.pieces[p]? = some { x with data := some (slice fl.data (x.loc.off % 32) x.size), fault := respFault fl }) ∧
  (∀ core sub entry, FlitTaken s 0x21 att fl → Completes s att fl (.write (.store core sub entry)) →
    exec (.memWcmp att fl) s = .next { s with fab := { s.fab with
      net := tput s.fab.net s.fab.nextId (.storeAck core sub entry (respFault fl == 0)), nextId := s.fab.nextId + 1
      link := withoutUp s att fl } })

/-- 15 R433, R435, R436, R438, R439: the tether link. It trains with two modules on each attachment; a start without two fails with 0x23. Probing
ends with an answer that verifies or, 50 ms after PROBE, without a tether die, and partitions that need one fail with 0x84. QUIESCE_DONE follows QUIESCE
once the tether die owns no line and no request of the device is outstanding. A retrain, which the adapter, the sideband or TL_CTRL asks for, stops an
attachment until it completes. Below two modules on an attachment, at a device request without response for 1 ms, and where modules leave after
QUIESCE_DONE, the link is lost with its cause; a read without response for 1 ms ends with 0x0501, and a line that the tether die owned is a fatal loss
of its partition. -/
def Obligations.TetherLink : Prop := ∀ (s : State),
  (linkUp s.fab = true → exec .quiesce s = .next { s with fab := { s.fab with link := { s.fab.link with quiescing := true } } }) ∧
  (s.fab.link.quiescing = true → s.fab.link.quiesced = false → tetherIdle s.fab = true → exec .quiesceDone s = .next { s with
    keel := { s.keel with out := s.keel.out ++ [.quiesceDone] }
    fab := { s.fab with link := { s.fab.link with quiesced := true, lossCause := 3 } } }) ∧
  (s.fab.link.quiescing = true → tetherIdle s.fab = false → exec .quiesceDone s = .next s) ∧
  (∀ m att v, linkUp s.fab = true → att < 2 → s.fab.link.retraining.contains att = false → ∀ e ∈ [Instr.adapterRetryThreshold m,
      .sidebandRetrainRequest att, .linkRetrain { act := 0, part := 0, i3c := false } v],
    (e = .adapterRetryThreshold m → m < 8 ∧ s.fab.link.modUp.getLsbD m = true ∧ m / 4 = att) →
    (e = .linkRetrain { act := 0, part := 0, i3c := false } v → s.keel.on = true ∧ s.fab.link.quiescing = false ∧ v.getLsbD 0 = true ∧
      fld v.toNat 1 1 = att ∧ s.fab.link.att = att) →
    ∃ t, exec e s = .next t ∧ Rings s.keel t.keel (if s.fab.link.state = 1 then [0x01] else []) ∧ t.keel = { s.keel with out := t.keel.out } ∧
    t.fab = { s.fab with link := { s.fab.link with
      state := 2, retraining := s.fab.link.retraining ++ [att], retrains := min 65535 (s.fab.link.retrains + 1) } }) ∧
  (∀ att failed repaired mine, linkUp s.fab = true → s.fab.link.retraining = [att] → s.fab.link.outWait = [] → s.fab.link.upWait = [] →
    s.fab.link.notes = [] → s.fab.link.quiesced = false → attUp s.fab.link.modUp 0 = true → attUp s.fab.link.modUp 1 = true →
    mine = (if att = 0 then 0x0F else 0xF0) → failed &&& mine = 0 → ∃ t, exec (.retrainComplete att failed repaired) s = .next t ∧
    Rings s.keel t.keel [0x01] ∧ t.keel = { s.keel with out := t.keel.out } ∧
    t.fab = { s.fab with link := { s.fab.link with
      state := 1, retraining := [], modRepaired := ((s.fab.link.modRepaired &&& ~~~mine) ||| (repaired &&& mine)) &&& s.fab.link.modUp } }) ∧
  (∀ mask up, linkUp s.fab = true → up = s.fab.link.modUp &&& ~~~mask →
    (s.fab.link.quiesced = false ∨ up = s.fab.link.modUp → attUp up 0 = true → attUp up 1 = true → exec (.modulesDown mask) s = .next { s with
      fab := { s.fab with link := { s.fab.link with modUp := up, modRepaired := s.fab.link.modRepaired &&& up } } }) ∧
    (Quiet s → s.fab.mem.dir = [] → s.fab.net = [] → s.fab.link.upReq = [] → s.fab.link.upWait = [] →
      (s.fab.link.quiesced = true → up ≠ s.fab.link.modUp → ∃ t, exec (.modulesDown mask) s = .next t ∧ LinkLost s t 3 s.fab.link.timeouts) ∧
      (s.fab.link.quiesced = false → attUp up 0 = false ∨ attUp up 1 = false → sideCtxs s.fab = [] → ∃ t, exec (.modulesDown mask) s = .next t ∧
        LinkLost s t 1 s.fab.link.timeouts ∧ t.fab.cores = s.fab.cores ∧ t.fab.tab = s.fab.tab ∧ t.fab.mem = s.fab.mem))) ∧
  ((∀ r ∈ s.fab.link.upReq, s.fab.link.upTime < r.2.sent + 1000 * usec) → exec .tetherResponseTimeout s = .next s) ∧
  (∀ id p ld x tag u, s.fab.link.state = 1 → Quiet s → s.fab.mem.dir = [] → s.fab.net = [] → s.fab.link.upWait = [] →
    s.fab.link.upReq = [(tag, u)] → u.what = .piece id p → u.sent + 1000 * usec ≤ s.fab.link.upTime → findLoad s.fab id = some ld → ld.pieces[p]? = some x → x.data = none →
    ∃ t ld', exec .tetherResponseTimeout s = .next t ∧ LinkLost s t 2 (min 65535 (s.fab.link.timeouts + 1)) ∧ Rings s.keel t.keel [0x01] ∧
    findLoad t.fab id = some ld' ∧ ld'.pieces[p]? = some { x with data := some [], fault := 0x0501 }) ∧
  (∀ mask e r, linkUp s.fab = true → Quiet s → s.fab.link.quiesced = false → s.fab.net = [] → s.fab.link.upReq = [] → s.fab.link.upWait = [] →
    attUp (s.fab.link.modUp &&& ~~~mask) 0 = false → s.fab.mem.dir = [e] → e.owner = some 4 → e.txn = none →
    partRec s.keel e.line.part = some r → s.fab.tab.resets = [] → ∃ t, exec (.modulesDown mask) s = .next t ∧
    (tfind t.fab.tab.resets e.line.part).map (·.code) = some 0x0504 ∧
    (memErrOf t.fab (homeOf s.keel e.line).die e.line.part).lost = min 65535 ((memErrOf s.fab (homeOf s.keel e.line).die e.line.part).lost + 1)) ∧
  (∀ up repaired, domainOn s.keel 1 = true → s.keel.power.stopping = false →
    (∀ att, s.keel.start.running = true → s.keel.start.probeDone = true → s.keel.start.linkDone = false →
      (att = 0 ∧ attUp up 0 = false) ∨ (att = 1 ∧ attUp up 0 = true ∧ attUp up 1 = false) →
      ∃ t, exec (.linkTrainingComplete up repaired) s = .next t ∧ t.keel.boot.code = 0x23 ∧ t.keel.boot.detail = att ∧ t.keel.power.on = 1) ∧
    (s.keel.start.running = false → s.fab.link.state = 3 → attUp up 0 = true → attUp up 1 = true → s.fab.tab.ctxs = [] → Quiet s →
      ∃ t, exec (.linkTrainingComplete up repaired) s = .next t ∧ Rings s.keel t.keel [0x01] ∧ t.fab = { s.fab with link := { s.fab.link with
        state := 1, lossCause := 0, modUp := up, modRepaired := repaired &&& up, quiescing := false, quiesced := false } })) ∧
  (∀ record sig, s.keel.start.running = true → s.keel.start.imageDone = true → s.keel.start.probeDone = false → s.keel.start.linkDone = false →
    (probeOk s.keel record sig = true → ∃ t, exec (.probeAnswer record sig) s = .next t ∧ t.keel.start.probeDone = true ∧
      t.keel.tetherDone = true ∧ t.keel.tetherKind = (if s.keel.fuse.variant = .kx7240O then 2 else 1) ∧ t.keel.sec.mTether = Crypto.sha512 record) ∧
    (probeOk s.keel record sig = false → exec (.probeAnswer record sig) s = .next s) ∧
    (s.keel.time < s.keel.start.probedAt + 50 * msec → exec .probeTimeout s = .next s) ∧
    (s.keel.start.probedAt + 50 * msec ≤ s.keel.time → ∃ t, exec .probeTimeout s = .next t ∧ t.keel.start.probeDone = true ∧ t.keel.start.linkDone = true ∧
      t.keel.tetherDone = true ∧ t.keel.tetherKind = 0 ∧ t.fab = s.fab ∧
      ∀ p ∈ configured s.keel, needsTether s.keel p = true → s.keel.boot.ready.getLsbD p = false → s.keel.boot.failed.getLsbD p = false →
        tfind t.keel.boot.partCause p = some (0x84, 0) ∧ t.keel.boot.failed.getLsbD p = true))

/-- 16 R447 to R449, R451 to R459, R464: frames that arrive. One of a broken form is discarded and counted. One for another address leaves by the
longest match of the port's input table with HOPS one lower, and is discarded where nothing matches, HOPS would reach 0, or it would go back. A
request that a check of R455 refuses is answered with STATUS 1 and the code; one whose EPOCH is not the slot's is counted in ROLE_DROPS. WR and XWR write
their bytes, RD reads, ATOM goes to its line, SIG adds N to its counter, recorded with KIND 5, the port and the sender. An XWR opens its transfer or
joins it, and is discarded where 512 are open; an XEND of a transfer that lost frames or is not open is answered with 0x0508, any other makes its checks
and waits for the writes; once all are acknowledged the signal is raised, or XACK carries the first refusal's code or none. -/
def Obligations.GlinenRequests : Prop := ∀ (s : State) (port : Nat) (fr : Frame), Quiet s →
  (∀ e ∈ [(0x00, Instr.linkctl port fr), (0x01, .glinenWr port fr), (0x02, .glinenRd port fr), (0x03, .glinenAtom port fr),
      (0x04, .glinenSig port fr), (0x05, .xwr port fr), (0x06, .xend port fr), (0x07, .glinenFrame port fr), (0x81, .wack port fr),
      (0x82, .rdata port fr), (0x84, .sigack port fr), (0x86, .xack port fr)], portUp s.keel s.fab port = true → fr.ty = e.1 →
    (frameOk fr = false → ∃ t, exec e.2 s = .next t ∧ t = { s with fab := discardFrame (came s port fr) port } ∧
      (portOf t.fab port).discarded = min 255 ((portOf s.fab port).discarded + 1)) ∧
    (∀ table x, frameOk fr = true → e.1 ≠ 0x00 → e.1 ≠ 0x07 → fr.dst ≠ selfOf s.keel →
      table = ((((s.keel.image.bind (·.routes)).map (·.inputs)).getD [])[port]?).getD [] →
      (longest 0 table fr.dst = none → exec e.2 s = .next { s with fab := discardFrame (came s port fr) port }) ∧
      (longest 0 table fr.dst = some x → fr.hops ≤ 1 ∨ entryPort x.2 = port → exec e.2 s = .next { s with fab := discardFrame (came s port fr) port }) ∧
      (longest 0 table fr.dst = some x → 1 < fr.hops → entryPort x.2 ≠ port → ∃ t out, exec e.2 s = .next t ∧ t = { s with fab := enqueue s.keel (came s port fr) (entryPort x.2) out } ∧
        out = { fr with w0 := out.w0 } ∧ out.hops = fr.hops - 1 ∧ out.vc = fr.vc / 2 * 2 + (if x.2.getLsbD 62 then 1 else fr.vc % 2) ∧
        out.ty = fr.ty ∧ fld out.w0.toNat 0 46 = fld fr.w0.toNat 0 46))) ∧
  (∀ e ∈ [(0x01, Instr.glinenWr port fr, 0x81, (fun o => o.w : MemObj → Bool), 1), (0x02, .glinenRd port fr, 0x82, (·.r), 1),
      (0x03, .glinenAtom port fr, 0x82, (fun o => o.r && o.w && o.a), if fr.a64 then 8 else 4), (0x04, .glinenSig port fr, 0x84, (·.w), 1)],
    ∀ code, ForUs s e.1 port fr → admitFrame s.keel s.fab fr e.2.2.2.1 e.2.2.2.2 = .error code → exec e.2.1 s = .next { s with
      fab := sendResponse s.keel (if code = 0x0503 then
          roleDrop (came s port fr) (2 + port / 3) (((tfind s.fab.tab.objs fr.slot).map (·.part)).getD 0) 4 else came s port fr)
        (respFrame s.keel e.2.2.1 fr 1 code []) }) ∧
  (∀ loc o ws, ForUs s 0x01 port fr → admitFrame s.keel s.fab fr (·.w) 1 = .ok (loc, o) → loc.kind ≤ 1 →
      ws = frameWrites s.keel (.glinen port fr) fr loc →
    (ws = [] → exec (.glinenWr port fr) s = .next { s with fab := sendResponse s.keel (came s port fr) (respFrame s.keel 0x81 fr 0 0 []) }) ∧
    (ws ≠ [] → ∃ t, exec (.glinenWr port fr) s = .next t ∧ OnlyGlinen s t ws.length ∧
      (portOf t.fab port).inReq = (portOf s.fab port).inReq ++ [(fr, ws.length, 0)] ∧
      ∀ (i : Nat) (w : AgentWrite), ws[i]? = some w → tfind t.fab.net (s.fab.nextId + i) =
        some (if cached s.keel w.loc then .home (lineOf w.loc) (.write w) else .uncWrite w))) ∧
  (∀ loc o ps, ForUs s 0x02 port fr → admitFrame s.keel s.fab fr (·.r) 1 = .ok (loc, o) → loc.kind ≤ 1 → 0 < fr.bytes → ps = partsOf loc fr.bytes →
    ∃ t, exec (.glinenRd port fr) s = .next t ∧ t.fab.jobs = [(s.fab.nextId, { sink := .glinen port fr, parts := ps, die := portSail port })] ∧
    (∀ (i : Nat) (p : ReadPart), ps[i]? = some p → tfind t.fab.net (s.fab.nextId + 1 + i) =
      some (if cached s.keel p.loc then .home (lineOf p.loc) (.readOnce s.fab.nextId i) else .memRead p.loc p.len (.job s.fab.nextId i)))) ∧
  (∀ loc o, ForUs s 0x02 port fr → admitFrame s.keel s.fab fr (·.r) 1 = .ok (loc, o) → loc.kind ≤ 1 → fr.bytes = 0 →
    ∃ t, exec (.glinenRd port fr) s = .next t ∧ OnlyGlinen s t 1 ∧ t.fab.net = s.fab.net ∧
      t.fab.gln = (sendResponse s.keel (came s port fr) (respFrame s.keel 0x82 fr 0 0 [])).gln) ∧
  (∀ loc o size, ForUs s 0x03 port fr → size = (if fr.a64 then 8 else 4) →
    admitFrame s.keel s.fab fr (fun o => o.r && o.w && o.a) size = .ok (loc, o) → o.len < fr.off + size → exec (.glinenAtom port fr) s = .next { s with
      fab := sendResponse s.keel (came s port fr) (respFrame s.keel 0x82 fr 1 0x0205 []) }) ∧
  (∀ loc o size a, ForUs s 0x03 port fr → size = (if fr.a64 then 8 else 4) →
    admitFrame s.keel s.fab fr (fun o => o.r && o.w && o.a) size = .ok (loc, o) → loc.kind ≤ 1 → fr.off + size ≤ o.len →
    a = { loc := loc, op := fr.aop, size := size, a := BitVec.ofNat 128 (numAt fr.data 0 8), b := BitVec.ofNat 128 (numAt fr.data 8 8)
          who := none, sink := .glinen port fr } → ∃ t, exec (.glinenAtom port fr) s = .next t ∧ OnlyGlinen s t 1 ∧
    t.fab.net = tput s.fab.net s.fab.nextId (if cached s.keel loc then .home (lineOf loc) (.atomic a) else .farAt a)) ∧
  (∀ loc o, ForUs s 0x04 port fr → admitFrame s.keel s.fab fr (·.w) 1 = .ok (loc, o) →
    (∀ p, translate s.fab o.owner (frCid fr) .sig = some p → ∃ t, exec (.glinenSig port fr) s = .next t ∧ OnlyGlinen s t 1 ∧
      t.fab.net = tput s.fab.net s.fab.nextId (.cnt { phys := p, kind := .add, n := frN fr, reply := .glinen fr, stamp := none
                                                      src := { noLast with kind := 5, unit := port, source := fr.src } })) ∧
    (translate s.fab o.owner (frCid fr) .sig = none → exec (.glinenSig port fr) s = .next { s with
      fab := sendResponse s.keel (came s port fr) (respFrame s.keel 0x84 fr 1 0x0401 []) })) ∧
  (ForUs s 0x05 port fr →
    (∀ r n, findXfer s.fab port fr.src fr.xfer = some r ∧ n = 0 ∨ findXfer s.fab port fr.src fr.xfer = none ∧ n = 1 ∧
        (portOf s.fab port).rx.length < 512 ∧ r = { id := s.fab.nextId, src := fr.src, xfer := fr.xfer, frames := 0, left := 0, refused := 0
                                                    xend := none, sig := none } →
      (∀ loc o ws, admitFrame s.keel s.fab fr (·.w) 1 = .ok (loc, o) → loc.kind ≤ 1 → ws = frameWrites s.keel (.xfer port fr.src r.id) fr loc →
        ∃ t, exec (.xwr port fr) s = .next t ∧ OnlyGlinen s t (n + ws.length) ∧
        findXfer t.fab port fr.src fr.xfer = some { r with frames := r.frames + 1, left := r.left + ws.length } ∧
        ∀ (i : Nat) (w : AgentWrite), ws[i]? = some w → tfind t.fab.net (s.fab.nextId + n + i) =
          some (if cached s.keel w.loc then .home (lineOf w.loc) (.write w) else .uncWrite w)) ∧
      (∀ code, admitFrame s.keel s.fab fr (·.w) 1 = .error code → ∃ t, exec (.xwr port fr) s = .next t ∧ t.fab.net = s.fab.net ∧
        findXfer t.fab port fr.src fr.xfer = some { r with frames := r.frames + 1, refused := if r.refused = 0 then code else r.refused })) ∧
    (findXfer s.fab port fr.src fr.xfer = none → 512 ≤ (portOf s.fab port).rx.length →
      exec (.xwr port fr) s = .next { s with fab := discardFrame (came s port fr) port })) ∧
  (ForUs s 0x06 port fr →
    (∀ r x, findXfer s.fab port fr.src fr.xfer = some r → frXcount fr ≤ r.frames →
      x = admitFrame s.keel s.fab fr (fun _ => true) 1 →
      (∀ loc o sig, x = .ok (loc, o) → sig = (if frSigEn fr then translate s.fab o.owner (frCid fr) .sig else none) →
        (frSigEn fr = true → sig ≠ none) → ∃ t, exec (.xend port fr) s = .next t ∧ OnlyGlinen s t 0 ∧ t.fab.net = s.fab.net ∧
        findXfer t.fab port fr.src fr.xfer = some { r with xend := some fr, sig := sig }) ∧
      (∀ code, x = .error code ∨ code = 0x0401 ∧ (∃ loc o, x = .ok (loc, o) ∧ frSigEn fr = true ∧ translate s.fab o.owner (frCid fr) .sig = none) →
        ∃ t, exec (.xend port fr) s = .next t ∧ t.fab.net = s.fab.net ∧
        findXfer t.fab port fr.src fr.xfer = some { r with xend := some fr, refused := if r.refused = 0 then code else r.refused })) ∧
    (∀ r, findXfer s.fab port fr.src fr.xfer = some r → r.frames < frXcount fr → exec (.xend port fr) s = .next { s with
      fab := sendResponse s.keel (closeXfer (came s port fr) port r.id) (respFrame s.keel 0x86 fr 1 0x0508 []) }) ∧
    (findXfer s.fab port fr.src fr.xfer = none → exec (.xend port fr) s = .next { s with
      fab := sendResponse s.keel (came s port fr) (respFrame s.keel 0x86 fr 1 0x0508 []) })) ∧
  (∀ src xfer r, findXfer s.fab port src xfer = some r → r.xend = some fr →
    (r.left ≠ 0 → exec (.transferComplete port src xfer) s = .next s) ∧
    (r.left = 0 → r.refused ≠ 0 ∨ r.sig = none → exec (.transferComplete port src xfer) s = .next { s with
      fab := sendResponse s.keel (closeXfer s.fab port r.id) (respFrame s.keel 0x86 fr (if r.refused = 0 then 0 else 1) r.refused []) }) ∧
    (∀ p, r.left = 0 → r.refused = 0 → r.sig = some p → exec (.transferComplete port src xfer) s = .next { s with
      fab := send (closeXfer s.fab port r.id) (.cnt { phys := p, kind := .add, n := frN fr, reply := .glinen fr, stamp := none
                                                      src := { noLast with kind := 5, unit := port, source := fr.src } }) })) ∧
  (FrameDue s 0x07 port fr → ∃ t, exec (.glinenFrame port fr) s = .next t ∧ OnlyGlinen s t 1 ∧
    t.fab.net = tput s.fab.net s.fab.nextId (.frame (.glinen port)))

/-- 16 R442 to R445, R453, R458, R460 to R463: the ports and routes. A response of its kind ends the entry under its TAG on the route to its sender and
restarts the route's timer. One from a route that is down is counted in LATE, and one that no entry of the route awaits is discarded. LINKCTL acknowledges
codewords and asks for a replay; a frame taken in returns its credits with the next codeword. Errors lead to a replay, and more than 16 within 1 ms, or
a lost lane lock, to a retrain; training brings a port up or leaves it down. A route whose timer has run for TIMEOUT times 10 µs since its last response,
with something outstanding, is down: what is outstanding on it ends with 0x0501; it may be enabled 26 ms later, with an empty timer. A frame that has
waited 100 µs in the transmit queue or the replay store is discarded. Credits let waiting frames leave, while no more than 2,048 codewords are
unacknowledged. -/
def Obligations.GlinenPorts : Prop := ∀ (s : State) (port : Nat) (p : Port), p = portOf s.fab port →
  (∀ fr x w, Quiet s → p.waitq = [] → tfind p.outst fr.tag = some x → routeOf s.keel fr.src = some (x.route, w) →
    (routeSt s.fab x.route).down = false →
    (∀ e ∈ [(0x81, Instr.wack port fr, OutWhat.write), (0x84, .sigack port fr, .signal)], ForUs s e.1 port fr →
      ∀ core sub entry, x.what = e.2.2 (.store core sub entry) → ∃ t, exec e.2.1 s = .next t ∧ OnlyGlinen s t 1 ∧
      (portOf t.fab port).outst = tdel p.outst fr.tag ∧
      routeSt t.fab x.route = { routeSt s.fab x.route with timer := s.keel.time } ∧
      t.fab.net = tput s.fab.net s.fab.nextId (.storeAck core sub entry (fr.status == 0 || fr.code == 0))) ∧
    (∀ id i ld y, ForUs s 0x82 port fr → x.what = .piece id i → findLoad s.fab id = some ld → ld.pieces[i]? = some y → y.data = none →
      ∃ t ld', exec (.rdata port fr) s = .next t ∧ (portOf t.fab port).outst = tdel p.outst fr.tag ∧
      routeSt t.fab x.route = { routeSt s.fab x.route with timer := s.keel.time } ∧ findLoad t.fab id = some ld' ∧
      ld'.pieces[i]? = some { y with data := some (fr.data.take fr.bytes), fault := if fr.status = 0 then 0 else fr.code }) ∧
    (∀ c d, ForUs s 0x86 port fr → x.what = .xferCopy c d → ∃ t, exec (.xack port fr) s = .next t ∧ OnlyGlinen s t 1 ∧
      (portOf t.fab port).outst = tdel p.outst fr.tag ∧ routeSt t.fab x.route = { routeSt s.fab x.route with timer := s.keel.time } ∧
      t.fab.net = tput s.fab.net s.fab.nextId (.copyAck c d (if fr.status = 0 then 0 else fr.code)))) ∧
  (∀ fr r w, Quiet s → routeOf s.keel fr.src = some (r, w) → ∀ e ∈ [(0x81, Instr.wack port fr), (0x82, .rdata port fr), (0x84, .sigack port fr),
      (0x86, .xack port fr)], ForUs s e.1 port fr →
    ((routeSt s.fab r).down = true → ∃ t, exec e.2 s = .next t ∧ OnlyGlinen s t 0 ∧ t.fab.net = s.fab.net ∧
      routeSt t.fab r = { routeSt s.fab r with late := min 65535 ((routeSt s.fab r).late + 1) } ∧ ∀ o, o ≠ r → routeSt t.fab o = routeSt s.fab o) ∧
    ((routeSt s.fab r).down = false → (∀ x, tfind p.outst fr.tag = some x → x.route ≠ r) →
      exec e.2 s = .next { s with fab := discardFrame (came s port fr) port })) ∧
  (∀ fr, FrameDue s 0x00 port fr → p.txq = [] → (p.rxSeq + 1) / 640 = p.rxSeq / 640 → ∃ t left, exec (.linkctl port fr) s = .next t ∧
    left = p.sent.filter (fun x => decide (2048 ≤ (fld fr.w5.toNat 0 12 + 4096 - x.2.1) % 4096)) ∧ PortIs s t port { p with
      rxSeq := p.rxSeq + 1, ackSeq := fld fr.w5.toNat 0 12, sent := left
      replayed := if fr.w5.getLsbD 15 then min 65535 (p.replayed + 1) else p.replayed } ∧
    t.fab.sent = s.fab.sent ++ [.credit port (seqOfUnit p.unitsSent) fr.vc 1] ++
      (if fr.w5.getLsbD 15 then left.map (fun x => Sent.frame port x.2.2) else []) ∧ OnlyGlinen s t 0 ∧ t.fab.net = s.fab.net) ∧
  (portUp s.keel s.fab port = true →
    (∀ us, us = (p.uncorrectable.filter fun x => decide (s.keel.time < x + 200000)) ++ [s.keel.time] → ∃ t,
      exec (.codewordUncorrectable port) s = .next t ∧ t = { s with
        fab := enqueue s.keel (modPort s.fab port fun q => { q with uncorrectable := us }) port (linkctlFrame s.keel true (lastSeq p.rxSeq)) }) ∧
    (16 < (p.uncorrectable.filter fun x => decide (s.keel.time < x + 200000)).length → ∃ t, exec (.portRetrainTrigger port) s = .next t ∧
      PortIs s t port { p with state := 3, retrains := min 255 (p.retrains + 1), uncorrectable := [] }) ∧
    ((p.uncorrectable.filter fun x => decide (s.keel.time < x + 200000)).length ≤ 16 → exec (.portRetrainTrigger port) s = .next s) ∧
    (∀ lane, lane < 8 → ∃ t, exec (.laneLockLost port lane) s = .next t ∧ PortIs s t port { p with
      state := 3, retrains := min 255 (p.retrains + 1), uncorrectable := [], locked := p.locked &&& ~~~(BitVec.ofNat 8 (2 ^ lane)) })) ∧
  (p.state = 3 → ∀ ok, p.txq = [] → ∃ t, exec (.portRetrainComplete port ok) s = .next t ∧
    PortIs s t port { p with state := if ok then 2 else 0, locked := if ok then 0xFF else 0 } ∧
    t.fab.sent = s.fab.sent ++ (if ok then p.sent.map (fun x => Sent.frame port x.2.2) else [])) ∧
  (portOn s.keel port = true → p.state = 1 → ∀ ok, p.txq = [] → ∃ t, exec (.portTrainingComplete port ok) s = .next t ∧
    PortIs s t port { p with state := if ok then 2 else 0, locked := if ok then 0xFF else 0 } ∧ t.fab.sent = s.fab.sent) ∧
  (∀ m v, csOpen s.keel s.fab m = true → systemMark m = true → portOn s.keel port = true → p.state = 0 → v.getLsbD 0 = true →
    ∃ t, exec (.portTrain m port v) s = .next t ∧ PortIs s t port { p with state := 1 }) ∧
  (∀ r e id i ld y, (originOf s.keel)[r]? = some e → e.getLsbD 63 = true → entryPort e = port → Quiet s → p.waitq = [] →
    (routeSt s.fab r).down = false → s.fab.tab.fences = [] → p.outst = [(0, { route := r, what := .piece id i })] →
    findLoad s.fab id = some ld → ld.pieces[i]? = some y → y.data = none →
    (s.keel.time < (routeSt s.fab r).timer + fld e.toNat 42 14 * 2000 → exec (.routeTimeout r) s = .next s) ∧
    ((routeSt s.fab r).timer + fld e.toNat 42 14 * 2000 ≤ s.keel.time → ∃ t ld', exec (.routeTimeout r) s = .next t ∧
    routeSt t.fab r = { routeSt s.fab r with down := true, downAt := s.keel.time, failed := min 65535 ((routeSt s.fab r).failed + 1) } ∧
    (portOf t.fab port).outst = [] ∧ findLoad t.fab id = some ld' ∧ ld'.pieces[i]? = some { y with data := some [], fault := 0x0501 })) ∧
  (∀ m x, p.txq[m]? = some x → (s.keel.time < x.1 + 100 * usec → exec (.frameAgeExpiry port m) s = .next s) ∧
    (x.1 + 100 * usec ≤ s.keel.time → ∃ t, exec (.frameAgeExpiry port m) s = .next t ∧
      PortIs s t port { p with txq := p.txq.eraseIdx m, discarded := min 255 (p.discarded + 1) } ∧ OnlyGlinen s t 0 ∧ t.fab.net = s.fab.net)) ∧
  (∀ m x, p.sent[m]? = some x → (s.keel.time < x.1 + 100 * usec → exec (.frameAgeExpiry port (p.txq.length + m)) s = .next s) ∧
    (x.1 + 100 * usec ≤ s.keel.time → ∃ t, exec (.frameAgeExpiry port (p.txq.length + m)) s = .next t ∧
      PortIs s t port { p with sent := p.sent.eraseIdx m, discarded := min 255 (p.discarded + 1) } ∧ OnlyGlinen s t 0 ∧ t.fab.net = s.fab.net)) ∧
  (∀ m pdie v r st, csOpen s.keel s.fab m = true → systemMark m = true → s.keel.fuse.variant.ports = true → pdie < 2 → v.getLsbD 0 = true →
    v.getLsbD 31 = false → r = (routeSel s.fab pdie).2 → st = routeSt s.fab r →
    (routeHere s.keel s.fab pdie = true → st.down = true → st.downAt + 26 * 200000 ≤ s.keel.time →
      (portOf s.fab (entryPort (((originOf s.keel)[r]?).getD 0))).state = 2 → ∃ t, exec (.routeEnable m pdie v) s = .next t ∧
      routeSt t.fab r = { st with down := false, timer := s.keel.time } ∧ ∀ o, o ≠ r → routeSt t.fab o = routeSt s.fab o) ∧
    (routeHere s.keel s.fab pdie = false ∨ (st.down = true ∧ s.keel.time < st.downAt + 26 * 200000) → ∃ t, exec (.routeEnable m pdie v) s = .next t ∧
      (if pdie = 0 then t.fab.gln.errA else t.fab.gln.errB) = true ∧ ∀ o, routeSt t.fab o = routeSt s.fab o)) ∧
  (∀ vc units, portUp s.keel s.fab port = true → vc < 4 → units < 64 →
    (p.txq = [] → ∃ t, exec (.creditReturn port vc units) s = .next t ∧
      PortIs s t port { p with credits := tput p.credits vc (min 256 (tgetD p.credits vc 0 + units)) } ∧ t.fab.sent = s.fab.sent) ∧
    (∀ at_ fr c, p.txq = [(at_, fr)] → fr.vc = vc → c = min 256 (tgetD p.credits vc 0 + units) → 1 + fr.len ≤ c →
      (seqOfUnit (p.unitsSent + fr.len) + 4096 - p.ackSeq) % 4096 ≤ 2048 → ∃ t, exec (.creditReturn port vc units) s = .next t ∧
      t.fab.sent = s.fab.sent ++ [.frame port fr] ∧ (portOf t.fab port).txq = [] ∧ (portOf t.fab port).unitsSent = p.unitsSent + 1 + fr.len ∧
      tgetD (portOf t.fab port).credits vc 0 = c - (1 + fr.len) ∧
      (portOf t.fab port).sent = p.sent ++ [(at_, seqOfUnit (p.unitsSent + fr.len), fr)]))

/-- 17 R468 to R478, R480 to R482, 20 R541: samples and levels. An AVSBus sample whose reads are all good gives each rail its voltage and current and
the package its measured power, and one rail out of range on two samples stops the device with cause 4; beyond the absolute maximum the model stops
with a fault (log 14). PMBus keeps what it reads of each rail; a failed read of a fixed rail's power counts as the last good one, after ten as the
maximum. A voltage step is 5 mV towards its bound, 2 us and more after the last one, and in retention the next one follows until the voltage is
reached. The estimate of a rail is its domains' activity since the last update at the fused energies, in a unit that is the model's choice (log 20), and
moves tracked power. Excess power lowers every active target by the steps that the estimate asks for, and power below 98 percent of the limit raises
each target once per sample. PCAP_TRANS exceeded for 1 ms at V_MIN stops the device with cause 6. Levels move by 1; a droop trip cuts the level to 0, or
within 8 us of the last cut halves it; a cut ends at level 4. The hottest sensor of each field and DRAM die is taken: temperatures throttle with
hysteresis, and stop the device at 105 and 100 degrees, or after 1 ms above 95 degrees of a DRAM die. -/
def Obligations.PowerLevels : Prop := ∀ (s : State),
  (∀ r, railBeyond s.keel r = true → exec (.avsbusSample r) s = .fault .beyondAbsoluteMaximum) ∧
  (∀ r (rd : Nat → Nat × Nat), railBeyond s.keel r = false → liveRails s.keel ≠ [] → s.keel.power.stopping = false →
    (∀ x ∈ liveRails s.keel, r.rails[x]? = some (some (rd x))) →
    ((∀ x ∈ liveRails s.keel, 580 ≤ (rd x).1 ∧ (rd x).1 ≤ 870 ∧ (railOf s.keel x).est = false) → ∃ t, exec (.avsbusSample r) s = .next t ∧
      (∀ x ∈ liveRails s.keel, (railOf t.keel x).voutMv = (rd x).1 ∧ (railOf t.keel x).ioutA = (rd x).2) ∧
      t.keel.power.measW = ((liveRails s.keel).map fun x => (rd x).1 * (rd x).2 / 1000).sum + s.keel.power.fixedW.sum ∧
      t.keel.power.trackW = t.keel.power.measW ∧ t.keel.power.levels = s.keel.power.levels ∧ t.fab = s.fab) ∧
    ((∃ x ∈ liveRails s.keel, 1 ≤ (railOf s.keel x).outOfRange ∧ ((rd x).1 < 580 ∨ 870 < (rd x).1)) → NoStop s →
      ∃ t, exec (.avsbusSample r) s = .next t ∧ StopsWith s t 4)) ∧
  (∀ r, s.keel.on = true → ∃ t, exec (.pmbusSample r) s = .next t ∧ t.fab = s.fab ∧ ∀ i live, i < 6 →
    live = (decide (4 ≤ i) || s.keel.railReq.getLsbD (i + 4)) →
    (live = false → t.keel.power.fixedW[i]? = some 0) ∧
    (∀ x, live = true → r.rails[i + 4]? = some (some x) → t.keel.power.fixedW[i]? = some (x.mv * x.ma / 1000000)) ∧
    (∀ j x, j < 4 ∧ s.keel.railReq.getLsbD j = true ∨ j = i + 4 ∧ live = true → r.rails[j]? = some (some x) →
      t.keel.power.pmbus[j]? = some (some x)) ∧
    (live = true → r.rails[i + 4]? = some none → t.keel.power.fixedBad[i]? = some (estOf s.keel.power.fixedBad i + 1) ∧
      t.keel.power.fixedW[i]? = some (if 9 ≤ estOf s.keel.power.fixedBad i then estOf [165, 40, 100, 80, 8, 1] i else estOf s.keel.power.fixedW i))) ∧
  (∀ rail up, (∃ at_, (railOf s.keel rail).stepAt = some at_ ∧ s.keel.time < at_ + 2 * usec) → exec (.voltageStep rail up) s = .next s) ∧
  (∀ rail up mv goal, (railOf s.keel rail).due = some up → (∀ at_, (railOf s.keel rail).stepAt = some at_ → at_ + 2 * usec ≤ s.keel.time) →
    dieCut s.keel rail = false → s.keel.power.stopping = false →
    mv = (if up then min (railCfg s.keel rail).vTarget ((railOf s.keel rail).reqMv + 5)
      else max (railCfg s.keel rail).vMin ((railOf s.keel rail).reqMv - 5)) →
    goal = (if s.keel.power.retention = 2 then (railCfg s.keel rail).vMin else if s.keel.power.retention = 3 then (railCfg s.keel rail).vTarget else mv) →
    ∃ t, exec (.voltageStep rail up) s = .next t ∧
    railOf t.keel rail = { railOf s.keel rail with
      reqMv := mv, due := if mv < goal then some true else if goal < mv then some false else none, stepAt := some s.keel.time } ∧
    (∀ o, o ≠ rail → railOf t.keel o = railOf s.keel o) ∧ t.keel.out = s.keel.out ++ [.setVoltage rail mv] ∧
    t.keel.power.event = (if up = true ∨ s.keel.power.retention ≠ 0 then s.keel.power.event else s.keel.power.event ||| 0x80) ∧ t.fab = s.fab) ∧
  (∀ e now est worth k' n, liveRails s.keel ≠ [] → s.keel.power.stopping = false → now = activity s.keel s.fab →
    est = (List.range s.keel.sails).map (fun x => ([3 * x, 3 * x + 1, 3 * x + 2, 3 * s.keel.sails + x].map fun d =>
      ((List.range 7).map fun i => (activityAt now d i - activityAt s.keel.power.seen d i) * energyOf s.keel x i).sum).sum / 1000000) →
    worth = stepWorth s.keel now (activeDoms s.keel s.fab) → k' = { s.keel with power := { s.keel.power with
      estNow := est, worth := worth, seen := now, trackW := s.keel.power.measW + est.sum - s.keel.power.estAtSample.sum } } →
    n = (if worth = 0 then 64 else ceilDiv (excess k') worth) → ∃ t, exec (.estimatorUpdate e) s = .next t ∧ t.fab = s.fab ∧
    t.keel.power.trackW = k'.power.trackW ∧
    (0 < excess k' → ∀ d, levelOf t.keel d = if d ∈ activeDoms k' s.fab ∧ 4 < (levelOf s.keel d).target then
      { levelOf s.keel d with tPower := max 4 ((levelOf s.keel d).target - n) } else levelOf s.keel d) ∧
    (excess k' = 0 → k'.power.trackW * 100 ≤ 98 * (powerCfg s.keel).pcapSust → s.keel.power.raised = false → t.keel.power.raised = true ∧
      ∀ d, levelOf t.keel d = if d ∈ levelsOn s.keel then { levelOf s.keel d with tPower := min 64 ((levelOf s.keel d).tPower + 1) }
        else levelOf s.keel d) ∧
    (excess k' = 0 → s.keel.power.raised = true → t.keel = k')) ∧
  (∀ at_, s.keel.power.vMinSince = some at_ → at_ + msec ≤ s.keel.time → (powerCfg s.keel).pcapTrans < s.keel.power.measW →
    s.keel.power.stopping = false → NoStop s → ∃ t, exec .powerLimitTimeout s = .next t ∧ StopsWith s t 6) ∧
  (∀ die x d l, x < 3 → d = 3 * die + x → l = levelOf s.keel d → domainOn s.keel (levelDom d) = true → s.keel.power.stopping = false →
    (l.cut = false → ∃ t, exec (.levelSlopeStep die x) s = .next t ∧ t.fab = s.fab ∧ LevelIs s.keel t.keel d { l with
      level := if l.level < l.target then l.level + 1 else if l.target < l.level then l.level - 1 else l.level }) ∧
    (l.cut = true → exec (.levelSlopeStep die x) s = .next s ∧ ∃ t, exec (.droopCutEnd die x) s = .next t ∧
      LevelIs s.keel t.keel d { l with cut := false, level := 4 }) ∧
    (∃ t, exec (.droopTrip die x) s = .next t ∧ t.keel.power.event = s.keel.power.event ||| 0x40 ∧ LevelIs s.keel t.keel d
      (if l.cut = true then { l with droops := min 255 (l.droops + 1) }
       else if l.lastCut.any (fun c => decide (s.keel.time < c + 8 * usec)) = true then
         { l with droops := min 255 (l.droops + 1), level := max 4 (l.level / 2), tPower := max 4 (l.level / 2) }
       else { l with droops := min 255 (l.droops + 1), level := 0, cut := true, lastCut := some s.keel.time }))) ∧
  (∀ x, tempBeyond s.keel x = true → exec (.temperatureSample x) s = .fault .beyondAbsoluteMaximum) ∧
  (∀ x, tempBeyond s.keel x = false → sailsOn s.keel ≠ [] → s.keel.power.stopping = false →
    (∀ y ∈ sailsOn s.keel, hotT x y < 105) → (∀ j ∈ dramsOn s.keel, dramT x j < 100) → ∃ t, exec (.temperatureSample x) s = .next t ∧ t.fab = s.fab ∧
    (∀ y ∈ sailsOn s.keel, tfind t.keel.power.sailT y = some (fieldT x y 0, fieldT x y 1, fieldT x y 2) ∧
      t.keel.power.sailHot.getLsbD y = latched (s.keel.power.sailHot.getLsbD y) (hotT x y) (powerCfg s.keel).tHot) ∧
    (∀ j ∈ dramsOn s.keel, tfind t.keel.power.dramT j = some (dramT x j) ∧ 
      tfind t.keel.power.dramOver j = (if 95 < dramT x j then some ((tfind s.keel.power.dramOver j).getD s.keel.time) else none) ∧
      t.keel.power.dramDouble.getLsbD j = (if 85 < dramT x j then true else if dramT x j ≤ 83 then false else s.keel.power.dramDouble.getLsbD j)) ∧
    (∀ d ∈ levelsOn s.keel, levelOf t.keel d = { levelOf s.keel d with
      tSail := heatTarget (t.keel.power.sailHot.getLsbD (d / 3)) (domActive s.keel s.fab d) (levelOf s.keel d).target (levelOf s.keel d).tSail
      tDram := heatTarget (t.keel.power.dramHot.getLsbD (6 * (d / 3) + 2 * (d % 3)) || t.keel.power.dramHot.getLsbD (6 * (d / 3) + 2 * (d % 3) + 1))
        (domActive s.keel s.fab d) (levelOf s.keel d).target (levelOf s.keel d).tDram })) ∧
  (∀ x, tempBeyond s.keel x = false → s.keel.power.stopping = false → NoStop s →
    ((∃ y ∈ sailsOn s.keel, 105 ≤ hotT x y) → (∀ j ∈ dramsOn s.keel, dramT x j < 100) →
      ∃ t, exec (.temperatureSample x) s = .next t ∧ StopsWith s t 2) ∧
    ((∃ j ∈ dramsOn s.keel, 100 ≤ dramT x j) → (∀ y ∈ sailsOn s.keel, hotT x y < 105) →
      ∃ t, exec (.temperatureSample x) s = .next t ∧ StopsWith s t 3)) ∧
  (∀ j at_, tfind s.keel.power.dramOver j = some at_ → s.keel.time < at_ + msec → exec (.dramOvertempExpiry j) s = .next s) ∧
  (∀ j at_, tfind s.keel.power.dramOver j = some at_ → at_ + msec ≤ s.keel.time → s.keel.power.stopping = false → j ∈ dramsOn s.keel → NoStop s →
    ∃ t, exec (.dramOvertempExpiry j) s = .next t ∧ StopsWith s t 3)

/-- 17 R466, R470, R484 to R488, 20 R531 to R536: pins, stops and retention. COOLANT_OK low, and a power-good that falls while its rail is requested, stop
the device with causes 1 and 5. With RESET_N low and no domain but the keel's on COOLANT_OK stops nothing, unless RESET_N fell in the same us: then the
reset counts no failed start. A power-good that does not come within 10 ms ends the start with 0x21. A stop completes with every domain but the keel's
off and no rail requested. COOLANT_OK and each power-good let the start request the next rails. Without VDD_KEEL everything but the fuses and the NVM is
lost, and it comes back at reset. An idle device in state 1 goes into retention, from where its core rails move to V_MIN, and back once they have moved
to V_TARGET again; DROOPS stays. -/
def Obligations.PowerStops : Prop := ∀ (s : State),
  (s.keel.coolantOk = true →
    (s.keel.resetN = true ∨ s.keel.power.on ≠ 1 ∨ (sameFall s.keel).isSome = true → NoStop s → ∃ t, exec .coolantOkFall s = .next t ∧ StopsWith s t 1 ∧ t.keel.coolantOk = false) ∧
    (∀ r, s.keel.resetN = false → s.keel.resetFall = some r → s.keel.time < r.time + usec → r.running = true → s.keel.start.running = false → NoStop s →
      ∃ t, exec .coolantOkFall s = .next t ∧ StopsWith s t 1 ∧ t.keel.boot.fails = s.keel.boot.fails - 1 ∧ t.keel.boot.moored = false ∧
      t.keel.boot.code = 0x24) ∧
    (s.keel.resetN = false → s.keel.power.on = 1 → (∀ r, s.keel.resetFall = some r → r.time + usec ≤ s.keel.time) →
      exec .coolantOkFall s = .next { s with keel := { s.keel with coolantOk := false } })) ∧
  (∀ r, r < 8 → s.keel.pg.getLsbD r = true →
    (s.keel.railReq.getLsbD r = true → NoStop s → ∃ t, exec (.powerGoodFall r) s = .next t ∧ StopsWith s t 5 ∧
      t.keel.pg.getLsbD r = false) ∧
    (s.keel.railReq.getLsbD r = false → ∃ t, exec (.powerGoodFall r) s = .next t ∧ t = { s with keel := { s.keel with pg := t.keel.pg } } ∧
      ∀ i, i < 8 → t.keel.pg.getLsbD i = (s.keel.pg.getLsbD i && i != r))) ∧
  (∀ r at_, s.keel.start.running = true → tfind s.keel.start.asked r = some at_ → s.keel.time < at_ + 10 * msec →
    exec (.powerGoodTimeout r) s = .next s) ∧
  (∀ r at_, s.keel.start.running = true → s.keel.railReq.getLsbD r = true → s.keel.pg.getLsbD r = false →
    tfind s.keel.start.asked r = some at_ → at_ + 10 * msec ≤ s.keel.time →
    ∃ t, exec (.powerGoodTimeout r) s = .next t ∧ FailsWith s t 0x21 0xFF (railDomain r)) ∧
  (s.keel.power.stopping = true → ∃ t, exec .stopComplete s = .next t ∧ t.fab = darkFab s.fab ∧ t.keel.power.on = 1 ∧ t.keel.power.levels = [] ∧
    t.keel.power.stopping = false ∧ t.keel.railReq = 0 ∧
    Rings { s.keel with out := s.keel.out ++ ((List.range 8).filter (fun r => s.keel.railReq.getLsbD r)).map .railOff } t.keel
      (if readiness s.keel s.fab = readiness t.keel t.fab then [] else [0x01])) ∧
  (s.keel.on = true → (∃ t, exec .coolantOkRise s = .next t ∧ t.fab = s.fab ∧ RequestsRails { s.keel with coolantOk := true } t.keel) ∧
    ∀ r k', r < 8 → k' = { s.keel with pg := s.keel.pg ||| BitVec.ofNat 8 (2 ^ r) } → ∃ t, exec (.powerGoodRise r) s = .next t ∧ t.fab = s.fab ∧
    RequestsRails k' t.keel) ∧
  (∃ t, exec .vddKeelLoss s = .next t ∧ t.keel.on = false ∧ t.keel.power.on = 0 ∧ t.keel.fuse = s.keel.fuse ∧ t.keel.nvm = s.keel.nvm ∧
    t.keel.image = none ∧ t.fab.tab = Fab.reset.tab ∧ t.fab.mem = Fab.reset.mem ∧ t.fab.cores = Fab.reset.cores ∧ t.fab.net = []) ∧
  (s.keel.on = false → exec .vddKeelBringUp s = .next { s with keel := { State.reset.keel with
    fuse := s.keel.fuse, nvm := s.keel.nvm, time := s.keel.time, addrSel := s.keel.addrSel, out := s.keel.out } }) ∧
  (∀ m v, csOpen s.keel s.fab m = true → systemMark m = true → v.toNat % 4 = 1 → v.getLsbD 31 = false →
    (s.keel.power.state = 1 → s.keel.power.stopping = false → s.keel.power.retention = 0 → s.keel.sec.devStep = 0 → idle s.fab = true →
      ∃ t, exec (.retentionEnter m v) s = .next t ∧ t.keel.power = { s.keel.power with retention := 1 } ∧ t.keel.sec.psess = 0 ∧
      t.keel.sec.device = false ∧ t.fab = noteMark s.keel s.fab m) ∧
    (s.keel.power.state ≠ 1 ∨ idle s.fab = false ∨ s.keel.power.stopping = true → ∃ t, exec (.retentionEnter m v) s = .next t ∧
      t.keel = { s.keel with power := { s.keel.power with ctrlErr := true } })) ∧
  (s.keel.power.retention = 1 → memQuiet s.fab = false → ∃ t, exec .retentionEntered s = .next t ∧ t.keel = s.keel) ∧
  (s.keel.power.retention = 1 → memQuiet s.fab = true → (∀ p, p < 16 → tetherHeld s.fab p = []) → ∃ t, exec .retentionEntered s = .next t ∧ t.keel.power.retention = 2 ∧
    t.keel.power.state = 2 ∧ (∀ e ∈ t.keel.power.levels, e.2 = { Level.reset with level := 0, droops := (levelOf s.keel e.1).droops }) ∧ t.keel.boot.compute = 0 ∧ t.fab.mem.l2 = [] ∧ t.fab.mem.l1 = [] ∧ t.fab.mem.dir = [] ∧
    t.fab.eng.mx = [] ∧ t.fab.cores.flags = [] ∧ t.fab.tab = s.fab.tab ∧
    (∀ x ∈ liveRails s.keel, ∀ r, r = railOf s.keel x → railOf t.keel x = { r with
      due := if r.reqMv < (railCfg s.keel x).vMin then some true else if (railCfg s.keel x).vMin < r.reqMv then some false else none }) ∧
    (∀ i, i < 20 → domainOn t.keel i = ((i < 2 && domainOn s.keel i) || (sailsOn s.keel).any (fun y => i == memDom y)))) ∧
  (∀ m v, csOpen s.keel s.fab m = true → systemMark m = true → v.toNat % 4 = 2 → v.getLsbD 31 = false → s.keel.power.retention = 2 →
    s.keel.power.stopping = false → ∃ t, exec (.retentionExit m v) s = .next t ∧ t.fab = noteMark s.keel s.fab m ∧
    t.keel = { s.keel with power := { s.keel.power with retention := 3, rails := t.keel.power.rails } } ∧
    ∀ x ∈ liveRails s.keel, ∀ r, r = railOf s.keel x → railOf t.keel x = { r with
      due := if r.reqMv < (railCfg s.keel x).vTarget then some true else if (railCfg s.keel x).vTarget < r.reqMv then some false else none }) ∧
  ((∃ x ∈ liveRails s.keel, (railOf s.keel x).reqMv < (railCfg s.keel x).vTarget) → exec .retentionExitComplete s = .next s) ∧
  (s.keel.power.retention = 3 → (∀ x ∈ liveRails s.keel, (railCfg s.keel x).vTarget ≤ (railOf s.keel x).reqMv) → Quiet s → (∀ q ∈ s.fab.tab.queues, q.2.held = false) → ∃ t, exec .retentionExitComplete s = .next t ∧
    t.keel.power.retention = 0 ∧ t.keel.power.state = 1 ∧
    Rings s.keel t.keel [0x01] ∧
    (∀ d, d < 3 * s.keel.sails → bitAt (powerCfg s.keel).parked d = false → domainOn t.keel (levelDom d) = true ∧
      levelOf t.keel d = { Level.reset with level := 4, droops := (levelOf s.keel d).droops }) ∧ t.fab.mem = s.fab.mem ∧ t.fab.tab = s.fab.tab)

/-- 18 R489 to R502, 19 R507, 20 R534, 01 R26, R31, 10 R291, R292, R298, 17 R466: the start. RESET_N high begins it; the slots are read in order, and
the first whose image passes is bound; domains report on, the bridges are tested, channels answer and train, partitions are scrubbed and get their
admin objects, in ascending order where their channels are the same (log 55); the device is ready once all has ended. A broken step ends the start with
its code, a missing channel only its partitions, and 2 s without an end with 0x26; a start that failed is begun anew 100 ms later. RESET_N low stops
without a cause, ends a start with 0x25, and holds the NVM in reset. Where a row could also end the start, the statement is of a start whose link still
trains. -/
def Obligations.StartSteps : Prop := ∀ (s : State) (st : Start) (b : Boot), st = s.keel.start → b = s.keel.boot →
  (s.keel.on = true → s.keel.resetN = false → s.keel.power.stopping = false → ∃ t, exec .resetNRise s = .next t ∧ t.keel.resetN = true ∧
    KeelOut.nvmRst true ∈ t.keel.out ∧ (b.moored = true → t.keel.boot.moored = true ∧ t.keel.image = s.keel.image ∧ t.keel.start = st ∧ t.fab = s.fab) ∧
    (b.moored = false → StartBegins { s.keel with out := s.keel.out ++ [.nvmRst true] } t.keel s.fab t.fab)) ∧
  (s.keel.on = true → s.keel.resetN = true → s.keel.power.stopping = false → ∃ t, exec .resetNFall s = .next t ∧ t.keel.resetN = false ∧
    t.keel.start.retryAt = none ∧ t.keel.resetFall = some { time := s.keel.time, running := st.running } ∧ t.keel.boot.ready = 0 ∧ t.keel.boot.device = false ∧ t.keel.sec.psess = 0 ∧ t.keel.sec.device = false ∧
    t.keel.power.stopCause = s.keel.power.stopCause ∧ t.keel.power.stopValid = s.keel.power.stopValid ∧ KeelOut.nvmRst false ∈ t.keel.out ∧
    (st.running = true → t.keel.start.running = false ∧ t.keel.boot.code = 0x25 ∧ t.keel.boot.detail = openStep s.keel s.fab ∧
      t.keel.boot.fails = min 3 (b.fails + 1) ∧ (2 ≤ b.fails → t.keel.boot.moored = true)) ∧
    (s.keel.power.on ≠ 1 → t.keel.power.stopping = true ∧ (∀ e ∈ t.keel.power.levels, e.2.level = 0) ∧ t.fab = haltFab s.fab) ∧
    (s.keel.power.on = 1 → t.keel.power.stopping = false ∧ t.keel.railReq = 0 ∧ t.fab = s.fab)) ∧
  (∀ slot rest, st.running = true → st.imageDone = false → s.keel.nvm.answers = true →
    (slotOrder s.keel).filter (fun x => !st.tried.contains x) = slot :: rest →
    (slotBad s.keel slot = none → ∃ t im, exec (.nvmImageRead slot) s = .next t ∧ im = bindImage s.keel slot (imageBytes s.keel slot) ∧
      t.keel.image = some im ∧ t.keel.start.imageDone = true ∧ t.keel.start.probedAt = s.keel.time ∧ t.keel.boot.slot = slot ∧ t.keel.boot.slotValid = true ∧
      t.keel.boot.imageOk = true ∧ t.keel.boot.fallback = st.firstFail.isSome ∧ t.keel.boot.seq = im.seq ∧ t.keel.boot.svn = im.svn ∧
      t.keel.sec.mImage = im.mImage ∧ t.keel.sec.mPtab = im.mPtab ∧ KeelOut.probe t.keel.sec.probeNonce ∈ t.keel.out ∧
      t.fab = { s.fab with free := s.fab.free + 4 }) ∧
    (∀ x, slotBad s.keel slot = some x → rest ≠ [] → ∃ t, exec (.nvmImageRead slot) s = .next t ∧ t.keel.image = s.keel.image ∧
      t.keel.start = { st with tried := st.tried ++ [slot], firstFail := some x.code } ∧ t.keel.out = s.keel.out ++ [.nvmReset] ∧ t.fab = s.fab) ∧
    (∀ x, slotBad s.keel slot = some x → rest = [] → ∃ t, exec (.nvmImageRead slot) s = .next t ∧ FailsWith s t x.code x.sectionIx x.detail)) ∧
  (∀ slot, st.running = true → st.imageDone = false →
    (s.keel.nvm.answers = false → ∃ t, exec (.nvmImageRead slot) s = .next t ∧ FailsWith s t 0x05 0xFF 0) ∧
    (s.keel.nvm.answers = true → slotOrder s.keel = [] → ∃ t, exec (.nvmImageRead slot) s = .next t ∧ FailsWith s t 0x01 0xFF 0)) ∧
  (∀ failed, st.running = true → memsOn s.keel = true → st.bridgesDone = false →
    (∀ i rest, (setBits 4 failed.toNat).filter (bridgeThere s.keel) = i :: rest →
      ∃ t, exec (.bridgeTestComplete failed) s = .next t ∧ FailsWith s t 0x20 0xFF i) ∧
    ((setBits 4 failed.toNat).filter (bridgeThere s.keel) = [] → st.linkDone = false →
      exec (.bridgeTestComplete failed) s = .next { s with keel := { s.keel with start := { st with bridgesDone := true } } })) ∧
  (∀ d, mayTurnOn s.keel d = true → d < 20 → st.linkDone = false → ∃ t, exec (.domainOn d) s = .next t ∧
    (∀ i, i < 20 → domainOn t.keel i = (domainOn s.keel i || i == d)) ∧
    (2 ≤ d → d < 4 → t.keel.boot.portDie.getLsbD (d - 2) = true ∧ ∀ n, n < 3 → portOf t.fab (3 * (d - 2) + n) = { Port.fresh with state := 1 }) ∧
    (4 ≤ d → (d - 4) % 4 = 3 → t.keel.boot.mem.getLsbD ((d - 4) / 4) = true) ∧
    (4 ≤ d → (d - 4) % 4 ≠ 3 → t.keel.boot.compute.getLsbD (3 * ((d - 4) / 4) + (d - 4) % 4) = true ∧
      levelOf t.keel (3 * ((d - 4) / 4) + (d - 4) % 4) = { Level.reset with level := 4 } ∧ t.fab = s.fab)) ∧
  (∀ as answers, st.running = true → memsOn s.keel = true → s.keel.lpddrDone = false → as = answers.take (8 * s.keel.sails) →
    (∀ ch rest, overCapacity s.keel as = ch :: rest → ∃ t, exec (.lpddrProbeComplete answers) s = .next t ∧
      FailsWith s t 0x14 ((s.keel.image.map (·.partIx)).getD 0xFF) ch ∧
      t.keel.lpddrDone = true ∧ t.keel.chan = chanWord as) ∧
    (∀ ch rest, overCapacity s.keel as = [] → populationBad as = ch :: rest → ∃ t, exec (.lpddrProbeComplete answers) s = .next t ∧
      FailsWith s t 0x22 0xFF ch ∧ t.keel.lpddrDone = true ∧ t.keel.chan = chanWord as) ∧
    (overCapacity s.keel as = [] → populationBad as = [] → st.linkDone = false → ∃ t, exec (.lpddrProbeComplete answers) s = .next t ∧
      t.keel.lpddrDone = true ∧ (∀ (ch : Nat) (x : ChannelAnswer), as[ch]? = some x → t.keel.chan.getLsbD ch = x.answers ∧
        (x.answers = true → (chanOf t.fab ch).cap = x.cap ∧ (chanOf t.fab ch).ranks = x.ranks)) ∧
      ∀ p ∈ configured s.keel, ∀ r ch rest, partRec s.keel p = some r →
        (setBits 32 r.lpdMask).filter (fun c => !t.keel.chan.getLsbD c) = ch :: rest → PartFailed s.keel t.keel p 0x82 ch)) ∧
  (∀ ch ok, st.running = true → s.keel.lpddrDone = true → s.keel.chan.getLsbD ch = true → trainedOrFailed s.fab ch = false → st.linkDone = false →
    ∃ t, exec (.lpddrTrainingComplete ch ok) s = .next t ∧
    (ok = true → chanOf t.fab ch = { chanOf s.fab ch with trained := true, rate := (s.keel.image.map (·.lpdRate)).getD 0 } ∧ t.keel = s.keel) ∧
    (ok = false → chanOf t.fab ch = { chanOf s.fab ch with failed := true } ∧ ∀ p ∈ partsOnChan s.keel ch, PartFailed s.keel t.keel p 0x81 ch)) ∧
  (∀ p r, p < 16 → partRec s.keel p = some r → st.running = true → b.ready.getLsbD p = false → b.failed.getLsbD p = false → scrubbed s.keel s.fab p = true →
    progsOf s.keel p = [] → Quiet s → (∀ o ∈ configured s.keel, scrubsFirst s.keel s.fab o p = false) → ∃ t c q, exec (.partitionScrubComplete p) s = .next t ∧ t.keel.boot.failed = b.failed ∧
    findCtx t.fab r.adminCtx = some c ∧ c.part = p ∧ c.admin = true ∧ c.vcount = r.adminVcount ∧ c.evEntries = 512 ∧
    findQueue t.fab r.adminQueue = some q ∧ q.ctx = r.adminCtx ∧ q.cls = 4 ∧ q.entries = 256 ∧ q.state = 0 ∧ q.head = 0 ∧ q.tail = 0 ∧
    tfind t.fab.tab.objs r.adminSlot = some {
      part := p, kind := r.adminKind, base := r.adminOff, len := 65536, c := false, a := false, x := false, w := true, r := true, kdata := 0
      owner := r.adminCtx, ref := { host := 1, dev := 2, dying := false } } ∧
    t = { s with keel := t.keel, fab := { s.fab with tab := { s.fab.tab with
      objs := t.fab.tab.objs, ctxs := t.fab.tab.ctxs, queues := t.fab.tab.queues } } } ∧
    (st.linkDone = false → t.keel.boot.ready.getLsbD p = true ∧ t.keel.start = st) ∧
    (st.linkDone = true → st.imageDone = true → st.probeDone = true → st.bridgesDone = true → lpdEnded s.keel s.fab = true → allOn s.keel = true →
      (∀ o ∈ configured s.keel, o ≠ p → b.ready.getLsbD o = true ∨ b.failed.getLsbD o = true) → t.keel.boot.device = true ∧ t.keel.boot.code = 0 ∧
      t.keel.boot.fails = 0 ∧ t.keel.power.state = 1 ∧ t.keel.start.running = false ∧ t.keel.boot.ready.getLsbD p = true)) ∧
  (∀ p, (∃ o ∈ configured s.keel, scrubsFirst s.keel s.fab o p = true) → exec (.partitionScrubComplete p) s = .next s) ∧
  (∀ at_, st.retryAt = some at_ → s.keel.time < at_ + 100 * msec → exec .startRetryTimer s = .next s) ∧
  (∀ at_, st.retryAt = some at_ → at_ + 100 * msec ≤ s.keel.time → s.keel.resetN = true → st.running = false → ∃ t, exec .startRetryTimer s = .next t ∧
    StartBegins s.keel t.keel s.fab t.fab) ∧
  (s.keel.time < st.began + 2000 * msec → exec .startTimeout s = .next s) ∧
  (st.running = true → st.began + 2000 * msec ≤ s.keel.time → ∃ t, exec .startTimeout s = .next t ∧ FailsWith s t 0x26 0xFF (openStep s.keel s.fab))

/-- 15 R434, 18 R504, 19 R506, R507, R510, R517, R523: the requests of the mailbox. While the keel reads the NVM every request is answered busy
(STATUS 2), and so is one of the NVM while an erase or a write runs. An erase leaves FFH, a write clears bits (log 9), and both are answered once the NVM
is done; a message with wrong operands is answered 4, and the slot of the running image is refused with 1. RESTART leaves moored mode and begins a start.
CHALLENGE gives a new nonce, which voids the one before it, and clears the staging buffer. A lifecycle operation is refused in a wrong lifecycle, and
else consumes the nonce and the staging buffer; with a signature that verifies it waits for the next start, RAISE_DBG_SVN acts at once and closes the
sessions below the new minimum; with any other it is answered 3. The keel sends one message at a time. -/
def Obligations.MailboxRequests : Prop := ∀ (s : State) (msg : List Byte) (k : Keel), k = s.keel →
  (∀ e ∈ [(0x01, Instr.getStatus msg), (0x02, .nvmErase msg), (0x03, .nvmWrite msg), (0x04, .nvmRead msg), (0x05, .nvmVerify msg),
      (0x06, .restart msg), (0x07, .commitSvn msg), (0x10, .challenge msg), (0x11, .stage msg), (0x12, .takeOwnership msg),
      (0x13, .releaseOwnership msg), (0x14, .retire msg), (0x15, .raiseDbgSvn msg), (0x16, .getCert msg)], Asks s e.1 msg → readingNvm k = true →
    ∃ t, exec e.2 s = .next t ∧ OnlyReplies s t msg 2 []) ∧
  (readingNvm k = false →
    (∀ e ∈ [(0x02, Instr.nvmErase msg), (0x03, .nvmWrite msg), (0x04, .nvmRead msg), (0x05, .nvmVerify msg)], Asks s e.1 msg →
      k.nvmReply.isSome = true → ∃ t, exec e.2 s = .next t ∧ OnlyReplies s t msg 2 []) ∧
    (∀ e ∈ [(0x03, Instr.nvmWrite msg, decide (msg.length < 24 ∨ k.nvm.size / 2 < nvmOff msg + (msg.length - 16))),
        (0x04, .nvmRead msg, decide (msg.length < 16 ∨ fld (numAt msg 8 8) 48 8 = 0 ∨ 48 < fld (numAt msg 8 8) 48 8 ∨
          k.nvm.size / 2 < nvmOff msg + fld (numAt msg 8 8) 48 8)),
        (0x05, .nvmVerify msg, decide (msg.length < 16 ∨ 1 < numAt msg 8 1))], Asks s e.1 msg → k.nvmReply = none →
      (e.2.2 = true → ∃ t, exec e.2.1 s = .next t ∧ OnlyReplies s t msg 4 []) ∧
      (e.2.2 = false → e.1 = 0x03 ∧ (k.nvm.answers = false ∨ slotRuns k (nvmSlot msg) = true) ∨ e.1 = 0x04 ∧ k.nvm.answers = false →
        ∃ t, exec e.2.1 s = .next t ∧ OnlyReplies s t msg 1 [])) ∧
    (Asks s 0x01 msg → ∃ t, exec (.getStatus msg) s = .next t ∧
      OnlyReplies s t msg 0 (bytesLE 8 (bootCause k) ++ bytesLE 4 (readyReg k s.fab))) ∧
    (∀ a len, Asks s 0x02 msg → k.nvmReply = none → a = slotBase k.nvm (nvmSlot msg) + nvmOff msg → len = numAt msg 16 8 →
      (msg.length < 24 ∨ nvmOff msg % 65536 ≠ 0 ∨ len % 65536 ≠ 0 ∨ k.nvm.size / 2 < nvmOff msg + len →
        ∃ t, exec (.nvmErase msg) s = .next t ∧ OnlyReplies s t msg 4 []) ∧
      (24 ≤ msg.length → nvmOff msg % 65536 = 0 → len % 65536 = 0 → nvmOff msg + len ≤ k.nvm.size / 2 →
        (k.nvm.answers = false ∨ slotRuns k (nvmSlot msg) = true → ∃ t, exec (.nvmErase msg) s = .next t ∧ OnlyReplies s t msg 1 []) ∧
        (k.nvm.answers = true → slotRuns k (nvmSlot msg) = false → ∃ t, exec (.nvmErase msg) s = .next t ∧
          (∀ x, nvmByte t.keel.nvm x = if a ≤ x ∧ x < a + len then 0xFF else nvmByte k.nvm x) ∧
          t = { s with keel := { k with
            out := k.out ++ [.mboxAck], nvmReply := some (false, answerBytes msg 0 []), nvm := { k.nvm with cells := t.keel.nvm.cells } } }))) ∧
    (∀ a data, Asks s 0x03 msg → k.nvmReply = none → a = slotBase k.nvm (nvmSlot msg) + nvmOff msg → data = msg.drop 16 →
      24 ≤ msg.length → nvmOff msg + data.length ≤ k.nvm.size / 2 → k.nvm.answers = true → slotRuns k (nvmSlot msg) = false →
      ∃ t, exec (.nvmWrite msg) s = .next t ∧
      (∀ x, nvmByte t.keel.nvm x = match (if a ≤ x then data[x - a]? else none) with
        | some b => nvmByte k.nvm x &&& b
        | none => nvmByte k.nvm x) ∧
      t = { s with keel := { k with
        out := k.out ++ [.mboxAck], nvmReply := some (false, answerBytes msg 0 []), nvm := { k.nvm with cells := t.keel.nvm.cells } } }) ∧
    (∀ len, Asks s 0x04 msg → k.nvmReply = none → len = fld (numAt msg 8 8) 48 8 → 16 ≤ msg.length → 1 ≤ len → len ≤ 48 →
      nvmOff msg + len ≤ k.nvm.size / 2 → k.nvm.answers = true → ∃ t, exec (.nvmRead msg) s = .next t ∧
      OnlyReplies s t msg 0 (zeros 8 ++ nvmBytes k.nvm (slotBase k.nvm (nvmSlot msg) + nvmOff msg) len)) ∧
    (Asks s 0x05 msg → k.nvmReply = none → 16 ≤ msg.length → numAt msg 8 1 ≤ 1 → ∃ t, exec (.nvmVerify msg) s = .next t ∧
      OnlyReplies s t msg 0 (bytesLE 8 (if keyed k = false then 0x04 else if k.nvm.answers = false then 0x05 else
        ((slotBad k (numAt msg 8 1)).map (·.code)).getD 0))) ∧
    (Asks s 0x06 msg → k.boot.moored = false → ∃ t, exec (.restart msg) s = .next t ∧ OnlyReplies s t msg 1 []) ∧
    (Asks s 0x06 msg → k.boot.moored = true → ∃ t k', exec (.restart msg) s = .next t ∧ Replies k k' msg 0 [] ∧
      k' = { k with out := k'.out, mboxOut := k'.mboxOut, mboxWait := k'.mboxWait, boot := { k.boot with moored := false, fails := 2 } } ∧
      (k.resetN = true → StartBegins k' t.keel s.fab t.fab) ∧ (k.resetN = false → t = { s with keel := k' })) ∧
    (Asks s 0x07 msg →
      (k.boot.device = false → ∃ t, exec (.commitSvn msg) s = .next t ∧ OnlyReplies s t msg 1 []) ∧
      (k.boot.device = true → ∃ t, exec (.commitSvn msg) s = .next t ∧ Replies k t.keel msg 0 [] ∧
        t.keel.fuse = { k.fuse with minSvn := max k.fuse.minSvn k.boot.svn } ∧ t.fab = s.fab)) ∧
    (Asks s 0x10 msg → ∃ t n, exec (.challenge msg) s = .next t ∧ n.length = 32 ∧ Replies k t.keel msg 0 n ∧
      t.keel.sec = { k.sec with nonce := some n, voided := k.sec.voided ++ k.sec.nonce.toList, staging := zeros 512 } ∧ t.fab = { s.fab with free := s.fab.free + 4 }) ∧
    (Asks s 0x11 msg →
      (msg.length < 24 ∨ numAt msg 8 2 % 8 ≠ 0 ∨ 512 < numAt msg 8 2 + (msg.drop 16).length → ∃ t, exec (.stage msg) s = .next t ∧
        OnlyReplies s t msg 4 []) ∧
      (24 ≤ msg.length → numAt msg 8 2 % 8 = 0 → numAt msg 8 2 + (msg.drop 16).length ≤ 512 → ∃ t, exec (.stage msg) s = .next t ∧
        RepliesWith s t msg 0 [] { k.sec with staging := splice k.sec.staging (numAt msg 8 2) (msg.drop 16) })) ∧
    (∀ x g, g = k.sec.staging →
      ∀ e ∈ [(0x12, Instr.takeOwnership msg, decide (k.fuse.lifecycle = 1 ∧ k.fuse.slots.length < 4), some Config.provisioningDebugKey, slice g 0 64,
          slice g 64 64, PendOp.takeOwnership { imageKey := slice g 0 32, debugKey := slice g 32 32 }),
        (0x13, .releaseOwnership msg, decide (k.fuse.lifecycle = 2), debugKey k, [0x13], slice g 0 64, .releaseOwnership),
        (0x14, .retire msg, keyed k, debugKey k, [0x14], slice g 0 64, .retire)], Asks s e.1 msg →
      (e.2.2.1 = false → ∃ t, exec e.2.1 s = .next t ∧ OnlyReplies s t msg 1 []) ∧
      (∀ n, e.2.2.1 = true → k.sec.nonce = some n → e.2.2.2.1 = some x →
        Crypto.ed25519Verify x (n ++ k.sec.deviceId ++ e.2.2.2.2.1) e.2.2.2.2.2.1 = true → ∃ t, exec e.2.1 s = .next t ∧
        RepliesWith s t msg 0 [] { k.sec with nonce := none, staging := zeros 512, pend := some e.2.2.2.2.2.2 }) ∧
      (e.2.2.1 = true → (∀ n y, k.sec.nonce = some n → e.2.2.2.1 = some y →
          Crypto.ed25519Verify y (n ++ k.sec.deviceId ++ e.2.2.2.2.1) e.2.2.2.2.2.1 = false) → ∃ t, exec e.2.1 s = .next t ∧
        RepliesWith s t msg 3 [] { k.sec with nonce := none, staging := zeros 512 })) ∧
    (Asks s 0x15 msg → keyed k = false → ∃ t, exec (.raiseDbgSvn msg) s = .next t ∧ OnlyReplies s t msg 1 []) ∧
    (∀ v x n, Asks s 0x15 msg → v = numAt msg 8 1 → keyed k = true →
      (msg.length < 16 ∨ v ≤ k.fuse.dbgMin ∨ 63 < v → ∃ t, exec (.raiseDbgSvn msg) s = .next t ∧ OnlyReplies s t msg 4 []) ∧
      (16 ≤ msg.length → k.fuse.dbgMin < v → v ≤ 63 → k.sec.nonce = some n → debugKey k = some x →
        Crypto.ed25519Verify x (n ++ k.sec.deviceId ++ [0x15, BitVec.ofNat 8 v]) (slice k.sec.staging 0 64) = true →
        ∃ t, exec (.raiseDbgSvn msg) s = .next t ∧ Replies k t.keel msg 0 [] ∧ t.keel.fuse = { k.fuse with dbgMin := v } ∧
        (∀ p, p < 16 → t.keel.sec.psess.getLsbD p = (k.sec.psess.getLsbD p && decide (v ≤ tgetD k.sec.pTsvn p 0))) ∧
        t.keel.sec.device = (k.sec.device && decide (v ≤ k.sec.dTsvn)) ∧ t.keel.sec.nonce = none) ∧
      (16 ≤ msg.length → k.fuse.dbgMin < v → v ≤ 63 → k.sec.nonce = some n → debugKey k = some x →
        Crypto.ed25519Verify x (n ++ k.sec.deviceId ++ [0x15, BitVec.ofNat 8 v]) (slice k.sec.staging 0 64) = false →
        ∃ t, exec (.raiseDbgSvn msg) s = .next t ∧ RepliesWith s t msg 3 [] { k.sec with nonce := none, staging := zeros 512 })) ∧
    (Asks s 0x16 msg → msg.length < 16 → ∃ t, exec (.getCert msg) s = .next t ∧ OnlyReplies s t msg 4 []) ∧
    (∀ c, Asks s 0x16 msg → 16 ≤ msg.length → c = slice (certBytes k) (numAt msg 8 4) 48 → ∃ t, exec (.getCert msg) s = .next t ∧
      OnlyReplies s t msg 0 (zeros 8 ++ c ++ zeros (48 - c.length)))) ∧
  (∀ bytes, k.nvmReply = some (false, bytes) → k.mboxOut = false → exec .nvmOperationComplete s = .next { s with keel := { k with
    nvmReply := none, mboxOut := true, out := k.out ++ [.mbox bytes] } }) ∧
  (k.mboxOut = true → (k.mboxWait = [] → exec .mboxAck s = .next { s with keel := { k with mboxOut := false } }) ∧
    ∀ o rest, k.mboxWait = o :: rest → exec .mboxAck s = .next { s with keel := { k with mboxWait := rest, out := k.out ++ [o] } })

/-- 19 R513 to R525: debug access and attestation. While an OPEN runs, a write of KEEL_DBG_CTRL only sets ERR. CHALLENGE gives a fresh nonce, which voids
the one before it; OPEN consumes it and makes checks 1 to 5 of R518 in order, where one made for a voided nonce ends with 4, and one in retention with 11
(log 72). A partition-scoped session opens for a ready partition, a device session only after every partition was reset with 0x0506, its memory zeroed and
the tether die has zeroed its part, or after 1 s does not open, with 10. Closing a session ends its quiesces, and with none open ends with 2. QUIESCE and
RESUME need a session that reaches the partition. GO, while the bank is not busy, has a report built in the partition's own bank. -/
def Obligations.DebugAndAttestation : Prop := ∀ (s : State) (m : Mark) (v : Word32) (k : Keel) (p : Nat), k = s.keel → p = fld v.toNat 8 4 →
  (DbgWrite s m v 1 → ∃ t n, exec (.dbgChallenge m v) s = .next t ∧ n.length = 32 ∧
    t = { s with keel := { k with sec := { dbgDone k.sec v 1 with
                   nonce := some n, voided := k.sec.voided ++ k.sec.nonce.toList, staging := zeros 512 } }
                 fab := { noteMark k s.fab m with free := s.fab.free + 4 } }) ∧
  (∀ r level over_ code, DbgWrite s m v 2 → r = response k → level = numAt r 2 1 →
    over_ = (fun n : List Byte => Crypto.ed25519Verify (slice r 24 32) (n ++ r.take 64) (slice r 128 64)) →
    code = (if (k.fuse.lifecycle ≠ 1 ∧ k.fuse.lifecycle ≠ 2) ∨ k.boot.imageOk = false then 3 else if k.power.retention ≠ 0 then 11
      else match k.sec.nonce with
        | none => 4
        | some n => if over_ n = false ∧ k.sec.voided.any over_ = true then 4
          else if numAt r 0 2 ≠ 1 ∨ (level ≠ 1 ∧ level ≠ 2) ∨ slice r 5 3 ≠ zeros 3 ∨ slice r 56 8 ≠ zeros 8 ∨
            (slice r 8 16 ≠ zeros 16 ∧ slice r 8 16 ≠ k.sec.deviceId) then 5
          else if (debugKey k).any (fun key => Crypto.ed25519Verify key (r.take 64) (slice r 64 64)) = false ∨ over_ n = false then 6
          else if numAt r 4 1 < k.fuse.dbgMin then 7 else 0) → ∃ t, exec (.dbgOpen m v) s = .next t ∧ t = { s with
    keel := { k with sec := { dbgDone k.sec v k.sec.result with
      nonce := none, voided := [], busy := true, openReq := some { level := level, part := numAt r 3 1, tsvn := numAt r 4 1, result := code } } }
    fab := noteMark k s.fab m }) ∧
  (∀ e ∈ [Instr.dbgChallenge m v, .dbgOpen m v, .dbgClose m v, .closeDevice m v, .dbgQuiesce m v, .dbgResume m v],
    (match e with
      | .dbgChallenge .. => v.toNat % 8 = 1 | .dbgOpen .. => v.toNat % 8 = 2 | .dbgClose .. => v.toNat % 8 = 3
      | .closeDevice .. => v.toNat % 8 = 4 | .dbgQuiesce .. => v.toNat % 8 = 5 | _ => v.toNat % 8 = 6) →
    KeelWrite s m → k.sec.busy = true → exec e s = .next { s with
      keel := { k with sec := { k.sec with err := true } }, fab := noteMark k s.fab m }) ∧
  (∀ r, k.sec.openReq = some r → k.sec.devStep = 0 →
    (openLast k r ≠ 0 → exec .openChecksComplete s = .next { s with
      keel := { k with sec := { k.sec with openReq := none, busy := false, result := openLast k r, zeroWait := 0 } } }) ∧
    (r.result = 0 → r.level = 1 → r.part < 16 → (partRec k r.part).isSome = true → k.boot.ready.getLsbD r.part = true →
      k.sec.psess.getLsbD r.part = false → ∃ t, exec .openChecksComplete s = .next t ∧ t.fab = s.fab ∧ t.keel.sec = { k.sec with
        openReq := none, busy := false, result := 1, zeroWait := 0, pTsvn := tput k.sec.pTsvn r.part r.tsvn
        psess := k.sec.psess ||| BitVec.ofNat 16 (2 ^ r.part), pdebug := k.sec.pdebug ||| BitVec.ofNat 16 (2 ^ r.part) }) ∧
    (r.result = 0 → r.level = 2 → k.sec.device = false → ∃ t, exec .openChecksComplete s = .next t ∧ t.keel.sec = { k.sec with devStep := 1 } ∧
      ∀ q ∈ configured k, tfind s.fab.tab.resets q = none → (tfind t.fab.tab.resets q).map (·.code) = some 0x0506)) ∧
  (k.sec.devStep = 1 → s.fab.tab.resets = [] → (∀ q ∈ configured k, linesQuiet s.fab q = true) →
    (∀ q ∈ s.fab.tab.queues, q.2.held = false) → ∃ t, exec .deviceSessionScrubComplete s = .next t ∧
    t.fab.mem.nm = [] ∧ t.fab.mem.lpd = [] ∧ t.fab.mem.loc = [] ∧ t.fab.mem.badWords = [] ∧ t.fab.mem.softWords = [] ∧ t.fab.mem.l2 = [] ∧ t.fab.mem.dir = [] ∧ t.fab.mem.l1 = [] ∧
    ((∀ q ∈ configured k, ∀ r, partRec k q = some r → r.tetherBytes = 0) →
      t.keel.sec.device = true ∧ t.keel.sec.ddebug = true ∧ t.keel.sec.busy = false ∧ t.keel.sec.result = 1 ∧ t.keel.sec.devStep = 0 ∧
      ∀ e ∈ t.fab.eng.sft, e.2.loaded = false) ∧
    (∀ q r, q ∈ configured k → partRec k q = some r → r.tetherBytes ≠ 0 → t.keel.sec.device = k.sec.device ∧ t.keel.sec.devStep = 4 ∧
      t.keel.sec.zeroAt = k.time ∧ t.keel.sec.zeroWait.getLsbD q = true)) ∧
  (∀ q, q < 16 → k.sec.devStep = 4 → k.sec.zeroWait.getLsbD q = true → (∀ x ∈ s.fab.tab.queues, x.2.held = false) →
    ∃ t, exec (.tetherZeroAck q) s = .next t ∧ ((∀ o, o < 16 → o ≠ q → k.sec.zeroWait.getLsbD o = false) → t.keel.sec.device = true ∧
      t.keel.sec.devStep = 0 ∧ t.keel.sec.result = 1) ∧
    ((∃ o, o < 16 ∧ o ≠ q ∧ k.sec.zeroWait.getLsbD o = true) → t.keel.sec.device = k.sec.device ∧ t.keel.sec.devStep = 4 ∧ t.fab = s.fab)) ∧
  (k.time < k.sec.zeroAt + 1000 * msec → exec .tetherZeroTimeout s = .next s) ∧
  (k.sec.devStep = 4 → k.sec.zeroAt + 1000 * msec ≤ k.time → (∀ x ∈ s.fab.tab.queues, x.2.held = false) → ∃ t, exec .tetherZeroTimeout s = .next t ∧ t.fab = s.fab ∧
    t.keel = { k with sec := { k.sec with openReq := none, busy := false, result := 10, devStep := 0, zeroWait := 0 } }) ∧
  (DbgWrite s m v 3 →
    (k.sec.psess.getLsbD p = false → exec (.dbgClose m v) s = .next { s with keel := { k with sec := dbgDone k.sec v 2 }, fab := noteMark k s.fab m }) ∧
    (k.sec.psess.getLsbD p = true → ∃ t, exec (.dbgClose m v) s = .next t ∧ t.keel.sec.psess.getLsbD p = false ∧
      (∀ q, q ≠ p → t.keel.sec.psess.getLsbD q = k.sec.psess.getLsbD q) ∧ t.keel.sec.heldByPart.getLsbD p = false ∧
      t.keel.sec.heldByDev = k.sec.heldByDev ∧ t.keel.sec.device = k.sec.device ∧ t.keel.sec.result = 1)) ∧
  (DbgWrite s m v 4 →
    (k.sec.device = false → exec (.closeDevice m v) s = .next { s with keel := { k with sec := dbgDone k.sec v 2 }, fab := noteMark k s.fab m }) ∧
    (k.sec.device = true → ∃ t, exec (.closeDevice m v) s = .next t ∧ t.keel.sec.device = false ∧ t.keel.sec.heldByDev = 0 ∧
      t.keel.sec.psess = k.sec.psess ∧ t.keel.sec.heldByPart = k.sec.heldByPart ∧ t.keel.sec.result = 1)) ∧
  (DbgWrite s m v 5 →
    (debugsFor k m p = false → exec (.dbgQuiesce m v) s = .next { s with keel := { k with sec := dbgDone k.sec v 2 }, fab := noteMark k s.fab m }) ∧
    (debugsFor k m p = true → ∃ t, exec (.dbgQuiesce m v) s = .next t ∧ t.keel.sec.held.getLsbD p = true ∧ t.keel.sec.result = 1 ∧
      (∀ q, q ≠ p → t.keel.sec.held.getLsbD q = k.sec.held.getLsbD q) ∧ t.fab = noteMark k s.fab m)) ∧
  (∀ q, q < 16 → k.sec.held.getLsbD q = true → partAtRest s.fab q = true → exec (.partitionQuiesced q) s = .next { s with
    keel := { k with sec := { k.sec with quiesced := k.sec.quiesced ||| BitVec.ofNat 16 (2 ^ q) } } }) ∧
  (∀ q, partAtRest s.fab q = false → exec (.partitionQuiesced q) s = .next s) ∧
  (DbgWrite s m v 6 → debugsFor k m p = false → exec (.dbgResume m v) s = .next { s with
    keel := { k with sec := dbgDone k.sec v 2 }, fab := noteMark k s.fab m }) ∧
  (DbgWrite s m v 6 → debugsFor k m p = true → ∃ t, exec (.dbgResume m v) s = .next t ∧ t.keel.sec.held.getLsbD p = false ∧
    t.keel.sec.quiesced.getLsbD p = false ∧ t.keel.sec.result = 1 ∧ ∀ q, q ≠ p → t.keel.sec.held.getLsbD q = k.sec.held.getLsbD q) ∧
  (∀ q, csOpen k s.fab m = true → bankOf k m = some q → v.getLsbD 0 = true → v.getLsbD 29 = false →
    ((attBank k q).busy = true → ∃ t, exec (.attGo m v) s = .next t ∧ attBank t.keel q = { attBank k q with err := true }) ∧
    ((attBank k q).busy = false → k.boot.ready.getLsbD q = false → ∃ t, exec (.attGo m v) s = .next t ∧
      attBank t.keel q = { attBank k q with done := false, result := 2 }) ∧
    ((attBank k q).busy = false → k.boot.ready.getLsbD q = true → k.power.retention = 0 → ∃ t, exec (.attGo m v) s = .next t ∧
      attBank t.keel q = { attBank k q with busy := true, done := false, result := 0 } ∧ ∀ o, o ≠ q → attBank t.keel o = attBank k o)) ∧
  (∀ q, k.sec.devStep ≠ 0 → exec (.attReportDone q) s = .next s) ∧
  (∀ q, (attBank k q).busy = true → k.sec.devStep = 0 → ∃ t, exec (.attReportDone q) s = .next t ∧
    attBank t.keel q = { attBank k q with busy := false, done := true, result := 1, report := buildReport k q } ∧
    ∀ o, o ≠ q → attBank t.keel o = attBank k o)

/-- 20 R537, 18 R503, 00 R12 to R15: the I3C target and writes of registers. A target without dynamic address takes the one assigned, by SETDASA at its
static address; RSTDAA ends it; ENEC and DISEC let in-band interrupts leave or not. With a dynamic address the characteristics are answered highest byte
first, a private write of four bytes sets the address that is read, and a longer one is a request; without one the target answers none of these. A
register write of a wrong size or alignment does nothing; aligned ones are performed on the register at their address, here SAIL_PARK_SEL,
KEEL_PWR_ALERT_EN and KEEL_DBG_RESP, and over I3C none outside the keel's region. -/
def Obligations.I3cAndRegisters : Prop := ∀ (s : State) (k : Keel), k = s.keel → k.on = true →
  (∀ a, k.i3c.dyn = none →
    exec (.entdaa a) s = .next { s with keel := { k with
      out := k.out ++ [.i3c (bytesLE 6 provisionalId).reverse], i3c := { k.i3c with dyn := some a } } } ∧
    exec (.setdasa a) s = .next { s with keel := { k with
      out := k.out ++ [.i3cAck (BitVec.ofNat 7 (0x30 + k.addrSel % 4))], i3c := { k.i3c with dyn := some a } } } ∧ exec (.setnewda a) s = .next s) ∧
  (∀ a b, k.i3c.dyn = some b → exec (.entdaa a) s = .next s ∧ exec (.setdasa a) s = .next s ∧
    exec (.setnewda a) s = .next { s with keel := { k with i3c := { k.i3c with dyn := some a } } }) ∧
  exec .rstdaa s = .next { s with keel := { k with i3c := { k.i3c with dyn := none } } } ∧
  (∀ e, e.getLsbD 0 = true → exec (.enec e) s = .next { s with keel := { k with i3c := { k.i3c with ibi := true } } } ∧
    exec (.disec e) s = .next { s with keel := { k with i3c := { k.i3c with ibi := false } } }) ∧
  (∀ e ∈ [(Instr.getpid, 6, 2 ^ 32 + Config.serial.toNat), (.getbcr, 1, (Config.i3cCharacteristic 0).toNat),
      (.getdcr, 1, (Config.i3cCharacteristic 1).toNat), (.getstatus, 2, (Config.i3cCharacteristic 2).toNat), (.getmwl, 2, 64), (.getmrl, 2, 64)],
    exec e.1 s = .next (if k.i3c.dyn.isSome then { s with keel := { k with out := k.out ++ [.i3c (bytesLE e.2.1 e.2.2).reverse] } } else s)) ∧
  (∀ bytes, k.i3c.dyn = none → exec (.i3cPrivateWrite bytes) s = .next s) ∧
  (∀ bytes a, k.i3c.dyn.isSome = true → bytes.length = 4 → a = leNat bytes → ∃ t r, exec (.i3cPrivateWrite bytes) s = .next t ∧
    t = { s with keel := { k with i3c := { k.i3c with addr := a }, out := k.out ++ [.i3c r] } } ∧
    (a % 8 = 0 → a < 0x10_0000 → r = bytesLE 8 (csRead k s.fab { act := 0, part := 0, i3c := true } a 8)) ∧
    (a % 8 = 4 → a < 0x10_0000 → r = bytesLE 4 (csRead k s.fab { act := 0, part := 0, i3c := true } a 4)) ∧
    (0x10_0000 ≤ a → r = bytesLE (if a % 8 = 0 then 8 else 4) 0xAB5EAB5E_AB5EAB5E)) ∧
  (∀ msg, k.i3c.dyn.isSome = true → msgForm msg = true → numAt msg 0 1 = 0x01 → readingNvm k = false → exec (.i3cPrivateWrite msg) s = .next { s with
    keel := { k with out := k.out ++ [.i3c (answerBytes msg 0 (bytesLE 8 (bootCause k) ++ bytesLE 4 (readyReg k s.fab)))] } }) ∧
  (∀ (m : Mark) addr size v, csOpen k s.fab m = true →
    (csAligned addr size = false → exec (.registerWrite m addr size v) s = .next { s with fab := noteMark k s.fab m }) ∧
    (∀ die, size = 4 → die < k.sails → addr = 0x100_0000 * (die + 1) + 0x3000 → Quiet s → exec (.registerWrite m addr size v) s = .next { s with
      fab := modDie (noteMark k s.fab m) die fun d => { d with
        parkSlot := fld v.toNat 10 4, parkSub := fld v.toNat 8 2, parkCore := fld v.toNat 0 8 } }) ∧
    (size = 4 → addr = 0x2108 → systemMark m = true → Quiet s → exec (.registerWrite m addr size v) s = .next { s with
      keel := { k with power := { k.power with alertEn := v.truncate 8 } }, fab := noteMark k s.fab m }) ∧
    (∀ i, i < 24 → size = 8 → addr = 0x3200 + 8 * i → Quiet s → ∃ t, exec (.registerWrite m addr size v) s = .next t ∧
      tgetD t.keel.sec.resp i 0 = v ∧ ∀ o, o ≠ i → tgetD t.keel.sec.resp o 0 = tgetD k.sec.resp o 0)) ∧
  (∀ addr size v, 0x10_0000 ≤ addr → csOpen k s.fab { act := 0, part := 0, i3c := true } = false ∧
    exec (.registerWrite { act := 0, part := 0, i3c := true } addr size v) s = .next s)

/-- A step takes the command at the front of the queue and runs it on the state with the queue's rest; with no command waiting, a period of the keel's
oscillator passes, in which units' beats count, no unit's WORK by more than its ELAPSED, the timer of the tether link runs while it is up, ports that are
up send and take in codewords, and an error may strike check bits (log 1, 6, 61: the queue and the idle step are the model's own). While VDD_KEEL is
off nothing changes. -/
def Obligations.StepRunsFront : Prop :=
  (∀ (c : Instr) (s : State), step { s with pending := c :: s.pending } = exec c s) ∧
  ∀ s : State, s.pending = [] → (s.keel.on = false → step s = .next s) ∧
    (s.keel.on = true → s.fab.link.csWait = [] → s.fab.mem.fatal = [] → ∃ t, step s = .next t ∧ t.keel = { s.keel with time := s.keel.time + 1 } ∧
      t = { s with keel := t.keel, fab := { s.fab with
        elapsed := t.fab.elapsed, work := t.fab.work, classWork := t.fab.classWork, dies := t.fab.dies, mem := t.fab.mem, gln := t.fab.gln
        sent := t.fab.sent, link := { s.fab.link with upTime := s.fab.link.upTime + (if s.fab.link.state = 1 then 1 else 0) } } } ∧
      ((∀ port, port < 6 → portUp s.keel s.fab port = false) → t.fab.gln = s.fab.gln ∧ t.fab.sent = s.fab.sent) ∧
      (∀ port, ∀ p, p = portOf t.fab port → p = { portOf s.fab port with
        unitsSent := p.unitsSent, rxSeq := p.rxSeq, txq := p.txq, sent := p.sent, credits := p.credits }) ∧
      t.fab.mem = { s.fab.mem with
        softWords := t.fab.mem.softWords, badWords := t.fab.mem.badWords, l1 := t.fab.mem.l1, l2 := t.fab.mem.l2, evb := t.fab.mem.evb } ∧
      t.fab.mem.l1.map (fun x => { x with bad := 0 }) = s.fab.mem.l1.map (fun x => { x with bad := 0 }) ∧
      t.fab.mem.l2.map (fun x => { x with flaw := .ok }) = s.fab.mem.l2.map (fun x => { x with flaw := .ok }) ∧
      t.fab.mem.evb.map (fun x => { x with flaw := false }) = s.fab.mem.evb.map (fun x => { x with flaw := false }) ∧
      (∀ w ∈ s.fab.mem.badWords, w ∈ t.fab.mem.badWords) ∧
      ∀ key, tgetD s.fab.elapsed key 0 ≤ tgetD t.fab.elapsed key 0 ∧ tgetD t.fab.work key 0 + tgetD s.fab.elapsed key 0 ≤ tgetD t.fab.elapsed key 0 + tgetD s.fab.work key 0)

/-- No command touches the queue (log 1), and the one thing that stops a command is a reading beyond the absolute maximum ratings (20 R540, R541;
log 14): every other command answers a next state, in every state. -/
def Obligations.OnlyFaults : Prop := ∀ (c : Instr) (s : State),
  (∃ t, exec c s = .next t ∧ t.pending = s.pending) ∨
  (exec c s = .fault .beyondAbsoluteMaximum ∧ ((∃ r, c = .avsbusSample r ∧ railBeyond s.keel r = true) ∨
    ∃ x, c = .temperatureSample x ∧ tempBeyond s.keel x = true))

/-- 02 R42, 17 R466, R475, 18 R499, 19 R505, 20 R531: what reset leaves. The keel domain alone is on, no rail is requested, RESET_N is low, no group
runs and no object exists, every level stands at 0 with its target at 64, and the reset state is sound. -/
def Obligations.ResetSound : Prop :=
  State.reset.keel.sound ∧ State.reset.fab.mem.wf = true ∧ State.reset.pending = [] ∧ State.reset.keel.power.on = 1 ∧
  State.reset.keel.railReq = 0 ∧ State.reset.keel.resetN = false ∧ State.reset.keel.boot.code = 0 ∧ State.reset.keel.boot.ready = 0 ∧
  State.reset.keel.power.alertEn = 0x03 ∧ State.reset.fab.cores.groups = [] ∧ State.reset.fab.tab.objs = [] ∧ State.reset.fab.tab.queues = [] ∧
  State.reset.fab.link.state = 0 ∧ State.reset.keel.image = none ∧
  (∀ d, levelOf State.reset.keel d = { tPower := 64, tSail := 64, tDram := 64, level := 0, cut := false, droops := 0, lastCut := none }) ∧
  (∀ i, i < 20 → domainOn State.reset.keel i = (i == 0))

/-- 19 R505 to R507, 18 R502: an invariant that every step keeps. The fuses lie within their lifecycle, an operation that waits still finds the
lifecycle that admitted it, FAILS stays within its width, and the memories and the NVM keep their canonical form. -/
def Obligations.StepKeepsSound : Prop := ∀ (s t : State), s.keel.sound → s.fab.mem.wf = true → step s = .next t → t.keel.sound ∧ t.fab.mem.wf = true

/-- 19 R505, R506, R523, 18 R492: what is fused stays fused. No step takes back an owner slot, lowers DBG_MIN or the minimum security version, or
leaves BLANK or RETIRED. -/
def Obligations.FusesOnlyGrow : Prop := ∀ (s t : State), s.keel.sound → step s = .next t → s.keel.fuse.grows t.keel.fuse
end

