-- ==== Sys2Proof/Laws/Word.lean ====
section
/-!
SUPPORT. Laws/Word.lean: the laws of tables and of cells: finding what was put, and the canonical form that every write keeps.
-/
namespace Sys2Proof

/-- Keys strictly rising, each above `lo`. -/
def Above {α : Type} (lo : Nat) : Table α → Prop
  | [] => True
  | (k, _) :: t => lo < k ∧ Above k t

/-- A table whose keys rise strictly. -/
def Rising {α : Type} : Table α → Prop
  | [] => True
  | (k, _) :: t => Above k t

theorem Above.mono {α : Type} {lo lo' : Nat} (h : lo' ≤ lo) : ∀ {t : Table α}, Above lo t → Above lo' t
  | [], _ => trivial
  | (_, _) :: _, ⟨h1, h2⟩ => ⟨by omega, h2⟩

theorem above_rising {α : Type} {lo : Nat} : ∀ {t : Table α}, Above lo t → Rising t
  | [], _ => trivial
  | (_, _) :: _, ⟨_, h⟩ => h

theorem tfind_above {α : Type} {lo k : Nat} (hk : k ≤ lo) : ∀ {t : Table α}, Above lo t → tfind t k = none
  | [], _ => rfl
  | (k', v) :: t, ⟨h1, h2⟩ => by
    have hne : k ≠ k' := by omega
    simp only [tfind, hne, if_false]
    exact tfind_above (by omega) h2

theorem tput_above {α : Type} {lo k : Nat} {v : α} (hk : lo < k) : ∀ {t : Table α}, Above lo t → Above lo (tput t k v)
  | [], _ => ⟨hk, trivial⟩
  | (k', v') :: t, ⟨h1, h2⟩ => by
    unfold tput
    split
    · next h => subst h; exact ⟨h1, h2⟩
    · split
      · next h => exact ⟨hk, h, h2⟩
      · next h1' h2' => exact ⟨h1, tput_above (by omega) h2⟩

theorem tdel_above {α : Type} {lo k : Nat} : ∀ {t : Table α}, Above lo t → Above lo (tdel t k)
  | [], _ => trivial
  | (k', v') :: t, ⟨h1, h2⟩ => by
    unfold tdel
    split
    · exact tdel_above (h2.mono (by omega))
    · exact ⟨h1, tdel_above h2⟩

theorem tput_rising {α : Type} {k : Nat} {v : α} : ∀ {t : Table α}, Rising t → Rising (tput t k v)
  | [], _ => trivial
  | (k', v') :: t, h => by
    unfold tput
    split
    · next e => subst e; exact h
    · split
      · next h' => exact ⟨h', h⟩
      · next h1' h2' => exact tput_above (t := t) (by omega) h

theorem tdel_rising {α : Type} {k : Nat} : ∀ {t : Table α}, Rising t → Rising (tdel t k)
  | [], _ => trivial
  | (k', v') :: t, h => by
    unfold tdel
    split
    · exact tdel_rising (above_rising h)
    · exact tdel_above (t := t) h

/-- What was put under a key is found there, and every other key is as before. -/
theorem tfind_tput {α : Type} (k j : Nat) (v : α) : ∀ (t : Table α), tfind (tput t k v) j = if j = k then some v else tfind t j
  | [] => rfl
  | (k', v') :: t => by
    unfold tput
    split
    · next e => subst e; by_cases hj : j = k <;> simp [tfind, hj]
    · split
      · next h => by_cases hj : j = k <;> simp [tfind, hj]
      · next h1 h2 =>
        by_cases hj : j = k'
        · subst hj; simp [tfind, Ne.symm h1]
        · simp [tfind, hj, tfind_tput k j v t]

theorem tfind_tput_self {α : Type} (k : Nat) (v : α) (t : Table α) : tfind (tput t k v) k = some v := by simp [tfind_tput]

theorem tfind_tput_ne {α : Type} {k j : Nat} (h : j ≠ k) (v : α) (t : Table α) : tfind (tput t k v) j = tfind t j := by
  simp [tfind_tput, h]

/-- A deleted key is gone, and every other key is as before. -/
theorem tfind_tdel {α : Type} (k j : Nat) : ∀ (t : Table α), tfind (tdel t k) j = if j = k then none else tfind t j
  | [] => by simp [tdel, tfind]
  | (k', v') :: t => by
    unfold tdel
    split
    · next e =>
      subst e
      rw [tfind_tdel k j t]
      by_cases hj : j = k <;> simp [tfind, hj]
    · next hne =>
      by_cases hj : j = k'
      · subst hj; simp [tfind, Ne.symm hne]
      · simp only [tfind, hj, if_false]; exact tfind_tdel k j t

theorem tgetD_tput_self {α : Type} (k : Nat) (v d : α) (t : Table α) : tgetD (tput t k v) k d = v := by simp [tgetD, tfind_tput]

theorem tgetD_tput_ne {α : Type} {k j : Nat} (h : j ≠ k) (v d : α) (t : Table α) : tgetD (tput t k v) j d = tgetD t j d := by
  simp [tgetD, tfind_tput, h]

/-! ### Cells -/

/-- No entry holds the default. -/
def NoDefault {n : Nat} (d : BitVec n) (m : Cells n) : Prop := ∀ e ∈ m, e.2 ≠ d

theorem cwf_cons {n : Nat} (d : BitVec n) (a : Nat) (v : BitVec n) : ∀ (m : Cells n),
    cwf d ((a, v) :: m) = true ↔ v ≠ d ∧ Above a m ∧ cwf d m = true
  | [] => by simp [cwf, Above]
  | (a', v') :: t => by
    simp only [cwf, Bool.and_eq_true, decide_eq_true_eq, bne_iff_ne, ne_eq, Above]
    constructor
    · rintro ⟨⟨h1, h2⟩, h3⟩
      exact ⟨h2, ⟨h1, ((cwf_cons d a' v' t).mp h3).2.1⟩, h3⟩
    · rintro ⟨h2, ⟨h1, _⟩, h3⟩
      exact ⟨⟨h1, h2⟩, h3⟩

theorem cwf_iff {n : Nat} (d : BitVec n) : ∀ (m : Cells n), cwf d m = true ↔ Rising m ∧ NoDefault d m
  | [] => by simp [cwf, Rising, NoDefault]
  | (a, v) :: t => by
    rw [cwf_cons, cwf_iff d t]
    constructor
    · rintro ⟨h1, h2, _, h4⟩
      exact ⟨h2, by intro e he; cases he with | head => exact h1 | tail _ h => exact h4 e h⟩
    · rintro ⟨h1, h2⟩
      exact ⟨h2 (a, v) (List.mem_cons_self ..), h1, above_rising h1, fun e he => h2 e (List.mem_cons_of_mem _ he)⟩

theorem mem_tput {α : Type} {k : Nat} {v : α} {e : Nat × α} : ∀ {t : Table α}, e ∈ tput t k v → e = (k, v) ∨ e ∈ t
  | [], h => by simpa [tput] using h
  | (k', v') :: t, h => by
    unfold tput at h
    split at h
    · rcases List.mem_cons.mp h with h | h
      · exact .inl h
      · exact .inr (List.mem_cons_of_mem _ h)
    · split at h
      · rcases List.mem_cons.mp h with h | h
        · exact .inl h
        · exact .inr h
      · rcases List.mem_cons.mp h with h | h
        · exact .inr (h ▸ List.mem_cons_self ..)
        · exact (mem_tput h).imp_right (List.mem_cons_of_mem _)

theorem mem_tdel {α : Type} {k : Nat} {e : Nat × α} : ∀ {t : Table α}, e ∈ tdel t k → e ∈ t
  | [], h => by simp [tdel] at h
  | (k', v') :: t, h => by
    unfold tdel at h
    split at h
    · exact List.mem_cons_of_mem _ (mem_tdel h)
    · rcases List.mem_cons.mp h with h | h
      · exact h ▸ List.mem_cons_self ..
      · exact List.mem_cons_of_mem _ (mem_tdel h)

/-- Writing one cell keeps the canonical form. -/
theorem cwf_cwrite {n : Nat} {d : BitVec n} {m : Cells n} (a : Nat) (v : BitVec n) (h : cwf d m = true) :
    cwf d (cwrite d m a v) = true := by
  rw [cwf_iff] at h ⊢
  unfold cwrite
  split
  · exact ⟨tdel_rising h.1, fun e he => h.2 e (mem_tdel he)⟩
  · next hv =>
    refine ⟨tput_rising h.1, fun e he => ?_⟩
    rcases mem_tput he with rfl | he
    · exact hv
    · exact h.2 e he

/-- A cell reads as what was last written to it, and every other cell as before. -/
theorem cread_cwrite {n : Nat} (d : BitVec n) (m : Cells n) (a b : Nat) (v : BitVec n) :
    cread d (cwrite d m a v) b = if b = a then v else cread d m b := by
  unfold cread cwrite tgetD
  split
  · next hv => rw [tfind_tdel a b m]; split <;> simp [hv]
  · rw [tfind_tput]; split <;> simp

/-- Leaving out cells keeps the canonical form. -/
theorem above_filter {α : Type} (p : Nat × α → Bool) : ∀ {t : Table α} {lo : Nat}, Above lo t → Above lo (t.filter p)
  | [], _, _ => trivial
  | (k, v) :: t, lo, ⟨h1, h2⟩ => by
    rw [List.filter_cons]
    split
    · exact ⟨h1, above_filter p h2⟩
    · exact (above_filter p h2).mono (by omega)

theorem rising_filter {α : Type} (p : Nat × α → Bool) : ∀ {t : Table α}, Rising t → Rising (t.filter p)
  | [], _ => trivial
  | (k, v) :: t, h => by
    rw [List.filter_cons]
    split
    · exact above_filter p h
    · exact above_rising (above_filter p h)

theorem cwf_filter {n : Nat} {d : BitVec n} {m : Cells n} (p : Nat × BitVec n → Bool) (h : cwf d m = true) :
    cwf d (m.filter p) = true := by
  rw [cwf_iff] at h ⊢
  exact ⟨rising_filter p h.1, fun e he => h.2 e (List.mem_of_mem_filter he)⟩

end Sys2Proof
end

