-- ==== Sys2Proof/Laws/Memory.lean ====
section
/-!
SUPPORT. Laws/Memory.lean: every operation on a memory keeps its canonical form, a byte reads as what was last written to it, and
every other byte reads as before.
-/
namespace Sys2Proof.Machine

theorem writeCells_wf : ∀ (bs : List (Option Byte)) (cs : List Host.Cell) (a : Nat),
    cwf Mem.unlisted cs = true → cwf Mem.unlisted (writeCells cs a bs) = true
  | [], _, _, h => h
  | none :: bs, cs, a, h => writeCells_wf bs cs (a + 1) h
  | some b :: bs, cs, a, h => writeCells_wf bs _ (a + 1) (cwf_cwrite a b h)

/-- A cell before the first written address reads as before. -/
theorem cread_writeCells_lt : ∀ (bs : List (Option Byte)) (cs : List Host.Cell) (a x : Nat), x < a →
    cread Mem.unlisted (writeCells cs a bs) x = cread Mem.unlisted cs x
  | [], _, _, _, _ => rfl
  | none :: bs, cs, a, x, hx => cread_writeCells_lt bs cs (a + 1) x (by omega)
  | some b :: bs, cs, a, x, hx => by
    show cread _ (writeCells (cwrite _ cs a b) (a + 1) bs) x = _
    rw [cread_writeCells_lt bs _ (a + 1) x (by omega), cread_cwrite, if_neg (by omega)]

/-- A cell at or beyond the end of what is written reads as before. -/
theorem cread_writeCells_ge : ∀ (bs : List (Option Byte)) (cs : List Host.Cell) (a x : Nat), a + bs.length ≤ x →
    cread Mem.unlisted (writeCells cs a bs) x = cread Mem.unlisted cs x
  | [], _, _, _, _ => rfl
  | none :: bs, cs, a, x, hx => by
    have : bs.length + 1 = (none :: bs : List (Option Byte)).length := rfl
    exact cread_writeCells_ge bs cs (a + 1) x (by omega)
  | some b :: bs, cs, a, x, hx => by
    have : bs.length + 1 = (some b :: bs).length := rfl
    show cread _ (writeCells (cwrite _ cs a b) (a + 1) bs) x = _
    rw [cread_writeCells_ge bs _ (a + 1) x (by omega), cread_cwrite, if_neg (by omega)]

/-- A cell reads as the byte written to it, or as before where none was. -/
theorem cread_writeCells : ∀ (bs : List (Option Byte)) (cs : List Host.Cell) (a i : Nat), i < bs.length →
    cread Mem.unlisted (writeCells cs a bs) (a + i) = ((bs[i]?).getD none).getD (cread Mem.unlisted cs (a + i))
  | [], _, _, i, hi => by simp at hi
  | b :: bs, cs, a, 0, _ => by
    cases b with
    | none => simpa [writeCells] using cread_writeCells_lt bs cs (a + 1) a (by omega)
    | some b => simpa [writeCells, cread_cwrite] using cread_writeCells_lt bs (cwrite Mem.unlisted cs a b) (a + 1) a (by omega)
  | b :: bs, cs, a, i + 1, hi => by
    have hi' : i < bs.length := by simpa using hi
    have e : a + (i + 1) = a + 1 + i := by omega
    rw [e]
    cases b with
    | none => simpa [writeCells] using cread_writeCells bs cs (a + 1) i hi'
    | some b =>
      have := cread_writeCells bs (cwrite Mem.unlisted cs a b) (a + 1) i hi'
      rw [cread_cwrite, if_neg (by omega : ¬ a + 1 + i = a)] at this
      simpa [writeCells] using this

theorem Mem.wf_iff (m : Mem) :
    m.wf = true ↔ cwf Mem.unlisted m.nm = true ∧ cwf Mem.unlisted m.lpd = true ∧ cwf Mem.unlisted m.loc = true := by
  simp [Mem.wf, and_assoc]

/-- What does not touch the three memories keeps their form. -/
theorem Mem.wf_congr {m m' : Mem} (h1 : m'.nm = m.nm) (h2 : m'.lpd = m.lpd) (h3 : m'.loc = m.loc) : m'.wf = m.wf := by
  simp [Mem.wf, h1, h2, h3]

theorem memWrite_wf {m : Mem} (kind part off : Nat) (bs : List (Option Byte)) (h : m.wf = true) : (memWrite m kind part off bs).wf = true := by
  rw [Mem.wf_iff] at h ⊢
  unfold memWrite
  split
  · exact ⟨writeCells_wf _ _ _ h.1, h.2.1, h.2.2⟩
  · exact ⟨h.1, writeCells_wf _ _ _ h.2.1, h.2.2⟩

/-- A correction changes no byte of the three memories. -/
theorem locCorrect_same (m : Mem) (core : Nat) (ws : List Nat) :
    (locCorrect m core ws).nm = m.nm ∧ (locCorrect m core ws).lpd = m.lpd ∧ (locCorrect m core ws).loc = m.loc := by
  by_cases h : (m.softWords.filter ws.contains).length = 0 <;> simp [locCorrect, h]

/-- A write of local memory writes its cells and no byte of the other memories. -/
theorem locWrite_nm (m : Mem) (core a : Nat) (bs : List (Option Byte)) : (locWrite m core a bs).nm = m.nm := (locCorrect_same m core _).1
theorem locWrite_lpd (m : Mem) (core a : Nat) (bs : List (Option Byte)) : (locWrite m core a bs).lpd = m.lpd :=
  (locCorrect_same m core _).2.1
theorem locWrite_loc (m : Mem) (core a : Nat) (bs : List (Option Byte)) :
    (locWrite m core a bs).loc = writeCells m.loc (locKey core a) bs := congrArg (writeCells · _ _) (locCorrect_same m core _).2.2

theorem locWrite_wf {m : Mem} (core a : Nat) (bs : List (Option Byte)) (h : m.wf = true) : (locWrite m core a bs).wf = true := by
  rw [Mem.wf_iff] at h ⊢
  rw [locWrite_nm, locWrite_lpd, locWrite_loc]
  exact ⟨h.1, h.2.1, writeCells_wf _ _ _ h.2.2⟩

theorem memWrite_loc (m : Mem) (kind part off : Nat) (bs : List (Option Byte)) : (memWrite m kind part off bs).loc = m.loc := by
  unfold memWrite; split <;> rfl

/-- A byte of a carve-out reads as what was last written to it. -/
theorem memByte_memWrite (m : Mem) (kind part off i : Nat) (bs : List (Option Byte)) (hi : i < bs.length) :
    memByte (memWrite m kind part off bs) kind part (off + i) = ((bs[i]?).getD none).getD (memByte m kind part (off + i)) := by
  unfold memByte memWrite cellKey
  split
  · simpa [cellKey, ← Nat.add_assoc] using cread_writeCells bs m.nm (cellKey part off) i hi
  · simpa [cellKey, ← Nat.add_assoc] using cread_writeCells bs m.lpd (cellKey part off) i hi

/-- Every other byte of the same memory reads as before. -/
theorem memByte_memWrite_other (m : Mem) (kind part off part' x : Nat) (bs : List (Option Byte))
    (hx : cellKey part' x < cellKey part off ∨ cellKey part off + bs.length ≤ cellKey part' x) :
    memByte (memWrite m kind part off bs) kind part' x = memByte m kind part' x := by
  unfold memByte memWrite
  rcases hx with hx | hx <;> split
  · exact cread_writeCells_lt bs m.nm _ _ hx
  · exact cread_writeCells_lt bs m.lpd _ _ hx
  · exact cread_writeCells_ge bs m.nm _ _ hx
  · exact cread_writeCells_ge bs m.lpd _ _ hx

/-- A byte of local memory reads as what was last written to it. -/
theorem locByte_locWrite (m : Mem) (core a i : Nat) (bs : List (Option Byte)) (hi : i < bs.length) :
    locByte (locWrite m core a bs) core (a + i) = ((bs[i]?).getD none).getD (locByte m core (a + i)) := by
  simpa [locByte, locWrite_loc, locKey, ← Nat.add_assoc] using cread_writeCells bs m.loc (locKey core a) i hi

/-- Every other byte of local memory reads as before. -/
theorem locByte_locWrite_other (m : Mem) (core a core' x : Nat) (bs : List (Option Byte))
    (hx : locKey core' x < locKey core a ∨ locKey core a + bs.length ≤ locKey core' x) :
    locByte (locWrite m core a bs) core' x = locByte m core' x := by
  unfold locByte
  rw [locWrite_loc]
  rcases hx with hx | hx
  · exact cread_writeCells_lt bs m.loc _ _ hx
  · exact cread_writeCells_ge bs m.loc _ _ hx

theorem foldl_wf {α : Type} (g : Mem → α → Mem) (hg : ∀ m x, m.wf = true → (g m x).wf = true) :
    ∀ (xs : List α) (m : Mem), m.wf = true → (xs.foldl g m).wf = true
  | [], _, h => h
  | x :: xs, m, h => foldl_wf g hg xs (g m x) (hg m x h)

/-- A write-back keeps the form of the memories. -/
theorem writeBack_wf {m : Mem} (l : Line) (d : LineData) (h : m.wf = true) : (writeBack m l d).wf = true := by
  unfold writeBack
  split
  · refine foldl_wf _ (fun m i hm => ?_) _ _ (memWrite_wf _ _ _ _ h)
    split
    · exact hm
    · exact hm
  · exact memWrite_wf _ _ _ _ h

/-- The scrub of a device session leaves the memories in form. -/
theorem zeroAll_wf (f : Fab) : (zeroAll f).mem.wf = true := rfl

theorem reset_mem_wf : State.reset.fab.mem.wf = true := rfl
theorem reset_nvm_wf : State.reset.keel.nvm.wf = true := rfl

/-- Erasing and programming keep the form of the NVM. -/
theorem nvm_erase_wf {n : Nvm} (p : Host.Cell → Bool) (h : n.wf = true) : Nvm.wf { n with cells := n.cells.filter p } = true := cwf_filter p h

theorem nvm_program_wf (a : Nat) : ∀ (bs : List (Byte × Nat)) (n : Nvm), n.wf = true →
    (bs.foldl (fun n b => { n with cells := cwrite Nvm.erased n.cells (a + b.2) (nvmByte n (a + b.2) &&& b.1) }) n).wf = true
  | [], _, h => h
  | b :: bs, n, h => nvm_program_wf a bs { n with cells := cwrite Nvm.erased n.cells (a + b.2) (nvmByte n (a + b.2) &&& b.1) } (cwf_cwrite _ _ h)

end Sys2Proof.Machine
end

