-- ==== Sys2Proof/Laws/State.lean ====
section
/-!
SUPPORT. Laws/State.lean: one lemma per field for each update of a part of the state, true by rfl.
-/
namespace Sys2Proof.Machine

@[simp] theorem push_pending (s : State) (c : Instr) : (s.push c).pending = c :: s.pending := rfl
@[simp] theorem push_keel (s : State) (c : Instr) : (s.push c).keel = s.keel := rfl
@[simp] theorem push_fab (s : State) (c : Instr) : (s.push c).fab = s.fab := rfl

@[simp] theorem onMem_free (f : Fab) (g : Mem → Mem) : (onMem f g).free = f.free := rfl
@[simp] theorem onMem_net (f : Fab) (g : Mem → Mem) : (onMem f g).net = f.net := rfl
@[simp] theorem onMem_nextId (f : Fab) (g : Mem → Mem) : (onMem f g).nextId = f.nextId := rfl
@[simp] theorem onMem_jobs (f : Fab) (g : Mem → Mem) : (onMem f g).jobs = f.jobs := rfl
@[simp] theorem onMem_mem (f : Fab) (g : Mem → Mem) : (onMem f g).mem = g f.mem := rfl
@[simp] theorem onMem_tab (f : Fab) (g : Mem → Mem) : (onMem f g).tab = f.tab := rfl
@[simp] theorem onMem_cores (f : Fab) (g : Mem → Mem) : (onMem f g).cores = f.cores := rfl
@[simp] theorem onMem_eng (f : Fab) (g : Mem → Mem) : (onMem f g).eng = f.eng := rfl
@[simp] theorem onMem_dies (f : Fab) (g : Mem → Mem) : (onMem f g).dies = f.dies := rfl
@[simp] theorem onMem_memErr (f : Fab) (g : Mem → Mem) : (onMem f g).memErr = f.memErr := rfl
@[simp] theorem onMem_roleDrops (f : Fab) (g : Mem → Mem) : (onMem f g).roleDrops = f.roleDrops := rfl
@[simp] theorem onMem_elapsed (f : Fab) (g : Mem → Mem) : (onMem f g).elapsed = f.elapsed := rfl
@[simp] theorem onMem_work (f : Fab) (g : Mem → Mem) : (onMem f g).work = f.work := rfl
@[simp] theorem onMem_classWork (f : Fab) (g : Mem → Mem) : (onMem f g).classWork = f.classWork := rfl
@[simp] theorem onMem_syncSel (f : Fab) (g : Mem → Mem) : (onMem f g).syncSel = f.syncSel := rfl
@[simp] theorem onMem_syncWsel (f : Fab) (g : Mem → Mem) : (onMem f g).syncWsel = f.syncWsel := rfl
@[simp] theorem onMem_link (f : Fab) (g : Mem → Mem) : (onMem f g).link = f.link := rfl
@[simp] theorem onMem_gln (f : Fab) (g : Mem → Mem) : (onMem f g).gln = f.gln := rfl
@[simp] theorem onMem_sent (f : Fab) (g : Mem → Mem) : (onMem f g).sent = f.sent := rfl

@[simp] theorem onTab_free (f : Fab) (g : Tables → Tables) : (onTab f g).free = f.free := rfl
@[simp] theorem onTab_net (f : Fab) (g : Tables → Tables) : (onTab f g).net = f.net := rfl
@[simp] theorem onTab_nextId (f : Fab) (g : Tables → Tables) : (onTab f g).nextId = f.nextId := rfl
@[simp] theorem onTab_jobs (f : Fab) (g : Tables → Tables) : (onTab f g).jobs = f.jobs := rfl
@[simp] theorem onTab_mem (f : Fab) (g : Tables → Tables) : (onTab f g).mem = f.mem := rfl
@[simp] theorem onTab_tab (f : Fab) (g : Tables → Tables) : (onTab f g).tab = g f.tab := rfl
@[simp] theorem onTab_cores (f : Fab) (g : Tables → Tables) : (onTab f g).cores = f.cores := rfl
@[simp] theorem onTab_eng (f : Fab) (g : Tables → Tables) : (onTab f g).eng = f.eng := rfl
@[simp] theorem onTab_dies (f : Fab) (g : Tables → Tables) : (onTab f g).dies = f.dies := rfl
@[simp] theorem onTab_memErr (f : Fab) (g : Tables → Tables) : (onTab f g).memErr = f.memErr := rfl
@[simp] theorem onTab_roleDrops (f : Fab) (g : Tables → Tables) : (onTab f g).roleDrops = f.roleDrops := rfl
@[simp] theorem onTab_elapsed (f : Fab) (g : Tables → Tables) : (onTab f g).elapsed = f.elapsed := rfl
@[simp] theorem onTab_work (f : Fab) (g : Tables → Tables) : (onTab f g).work = f.work := rfl
@[simp] theorem onTab_classWork (f : Fab) (g : Tables → Tables) : (onTab f g).classWork = f.classWork := rfl
@[simp] theorem onTab_syncSel (f : Fab) (g : Tables → Tables) : (onTab f g).syncSel = f.syncSel := rfl
@[simp] theorem onTab_syncWsel (f : Fab) (g : Tables → Tables) : (onTab f g).syncWsel = f.syncWsel := rfl
@[simp] theorem onTab_link (f : Fab) (g : Tables → Tables) : (onTab f g).link = f.link := rfl
@[simp] theorem onTab_gln (f : Fab) (g : Tables → Tables) : (onTab f g).gln = f.gln := rfl
@[simp] theorem onTab_sent (f : Fab) (g : Tables → Tables) : (onTab f g).sent = f.sent := rfl

@[simp] theorem onCores_free (f : Fab) (g : Cores → Cores) : (onCores f g).free = f.free := rfl
@[simp] theorem onCores_net (f : Fab) (g : Cores → Cores) : (onCores f g).net = f.net := rfl
@[simp] theorem onCores_nextId (f : Fab) (g : Cores → Cores) : (onCores f g).nextId = f.nextId := rfl
@[simp] theorem onCores_jobs (f : Fab) (g : Cores → Cores) : (onCores f g).jobs = f.jobs := rfl
@[simp] theorem onCores_mem (f : Fab) (g : Cores → Cores) : (onCores f g).mem = f.mem := rfl
@[simp] theorem onCores_tab (f : Fab) (g : Cores → Cores) : (onCores f g).tab = f.tab := rfl
@[simp] theorem onCores_cores (f : Fab) (g : Cores → Cores) : (onCores f g).cores = g f.cores := rfl
@[simp] theorem onCores_eng (f : Fab) (g : Cores → Cores) : (onCores f g).eng = f.eng := rfl
@[simp] theorem onCores_dies (f : Fab) (g : Cores → Cores) : (onCores f g).dies = f.dies := rfl
@[simp] theorem onCores_memErr (f : Fab) (g : Cores → Cores) : (onCores f g).memErr = f.memErr := rfl
@[simp] theorem onCores_roleDrops (f : Fab) (g : Cores → Cores) : (onCores f g).roleDrops = f.roleDrops := rfl
@[simp] theorem onCores_elapsed (f : Fab) (g : Cores → Cores) : (onCores f g).elapsed = f.elapsed := rfl
@[simp] theorem onCores_work (f : Fab) (g : Cores → Cores) : (onCores f g).work = f.work := rfl
@[simp] theorem onCores_classWork (f : Fab) (g : Cores → Cores) : (onCores f g).classWork = f.classWork := rfl
@[simp] theorem onCores_syncSel (f : Fab) (g : Cores → Cores) : (onCores f g).syncSel = f.syncSel := rfl
@[simp] theorem onCores_syncWsel (f : Fab) (g : Cores → Cores) : (onCores f g).syncWsel = f.syncWsel := rfl
@[simp] theorem onCores_link (f : Fab) (g : Cores → Cores) : (onCores f g).link = f.link := rfl
@[simp] theorem onCores_gln (f : Fab) (g : Cores → Cores) : (onCores f g).gln = f.gln := rfl
@[simp] theorem onCores_sent (f : Fab) (g : Cores → Cores) : (onCores f g).sent = f.sent := rfl

@[simp] theorem onEng_free (f : Fab) (g : Engines → Engines) : (onEng f g).free = f.free := rfl
@[simp] theorem onEng_net (f : Fab) (g : Engines → Engines) : (onEng f g).net = f.net := rfl
@[simp] theorem onEng_nextId (f : Fab) (g : Engines → Engines) : (onEng f g).nextId = f.nextId := rfl
@[simp] theorem onEng_jobs (f : Fab) (g : Engines → Engines) : (onEng f g).jobs = f.jobs := rfl
@[simp] theorem onEng_mem (f : Fab) (g : Engines → Engines) : (onEng f g).mem = f.mem := rfl
@[simp] theorem onEng_tab (f : Fab) (g : Engines → Engines) : (onEng f g).tab = f.tab := rfl
@[simp] theorem onEng_cores (f : Fab) (g : Engines → Engines) : (onEng f g).cores = f.cores := rfl
@[simp] theorem onEng_eng (f : Fab) (g : Engines → Engines) : (onEng f g).eng = g f.eng := rfl
@[simp] theorem onEng_dies (f : Fab) (g : Engines → Engines) : (onEng f g).dies = f.dies := rfl
@[simp] theorem onEng_memErr (f : Fab) (g : Engines → Engines) : (onEng f g).memErr = f.memErr := rfl
@[simp] theorem onEng_roleDrops (f : Fab) (g : Engines → Engines) : (onEng f g).roleDrops = f.roleDrops := rfl
@[simp] theorem onEng_elapsed (f : Fab) (g : Engines → Engines) : (onEng f g).elapsed = f.elapsed := rfl
@[simp] theorem onEng_work (f : Fab) (g : Engines → Engines) : (onEng f g).work = f.work := rfl
@[simp] theorem onEng_classWork (f : Fab) (g : Engines → Engines) : (onEng f g).classWork = f.classWork := rfl
@[simp] theorem onEng_syncSel (f : Fab) (g : Engines → Engines) : (onEng f g).syncSel = f.syncSel := rfl
@[simp] theorem onEng_syncWsel (f : Fab) (g : Engines → Engines) : (onEng f g).syncWsel = f.syncWsel := rfl
@[simp] theorem onEng_link (f : Fab) (g : Engines → Engines) : (onEng f g).link = f.link := rfl
@[simp] theorem onEng_gln (f : Fab) (g : Engines → Engines) : (onEng f g).gln = f.gln := rfl
@[simp] theorem onEng_sent (f : Fab) (g : Engines → Engines) : (onEng f g).sent = f.sent := rfl

@[simp] theorem onLink_free (f : Fab) (g : Link → Link) : (onLink f g).free = f.free := rfl
@[simp] theorem onLink_net (f : Fab) (g : Link → Link) : (onLink f g).net = f.net := rfl
@[simp] theorem onLink_nextId (f : Fab) (g : Link → Link) : (onLink f g).nextId = f.nextId := rfl
@[simp] theorem onLink_jobs (f : Fab) (g : Link → Link) : (onLink f g).jobs = f.jobs := rfl
@[simp] theorem onLink_mem (f : Fab) (g : Link → Link) : (onLink f g).mem = f.mem := rfl
@[simp] theorem onLink_tab (f : Fab) (g : Link → Link) : (onLink f g).tab = f.tab := rfl
@[simp] theorem onLink_cores (f : Fab) (g : Link → Link) : (onLink f g).cores = f.cores := rfl
@[simp] theorem onLink_eng (f : Fab) (g : Link → Link) : (onLink f g).eng = f.eng := rfl
@[simp] theorem onLink_dies (f : Fab) (g : Link → Link) : (onLink f g).dies = f.dies := rfl
@[simp] theorem onLink_memErr (f : Fab) (g : Link → Link) : (onLink f g).memErr = f.memErr := rfl
@[simp] theorem onLink_roleDrops (f : Fab) (g : Link → Link) : (onLink f g).roleDrops = f.roleDrops := rfl
@[simp] theorem onLink_elapsed (f : Fab) (g : Link → Link) : (onLink f g).elapsed = f.elapsed := rfl
@[simp] theorem onLink_work (f : Fab) (g : Link → Link) : (onLink f g).work = f.work := rfl
@[simp] theorem onLink_classWork (f : Fab) (g : Link → Link) : (onLink f g).classWork = f.classWork := rfl
@[simp] theorem onLink_syncSel (f : Fab) (g : Link → Link) : (onLink f g).syncSel = f.syncSel := rfl
@[simp] theorem onLink_syncWsel (f : Fab) (g : Link → Link) : (onLink f g).syncWsel = f.syncWsel := rfl
@[simp] theorem onLink_link (f : Fab) (g : Link → Link) : (onLink f g).link = g f.link := rfl
@[simp] theorem onLink_gln (f : Fab) (g : Link → Link) : (onLink f g).gln = f.gln := rfl
@[simp] theorem onLink_sent (f : Fab) (g : Link → Link) : (onLink f g).sent = f.sent := rfl

@[simp] theorem onGln_free (f : Fab) (g : Glinen → Glinen) : (onGln f g).free = f.free := rfl
@[simp] theorem onGln_net (f : Fab) (g : Glinen → Glinen) : (onGln f g).net = f.net := rfl
@[simp] theorem onGln_nextId (f : Fab) (g : Glinen → Glinen) : (onGln f g).nextId = f.nextId := rfl
@[simp] theorem onGln_jobs (f : Fab) (g : Glinen → Glinen) : (onGln f g).jobs = f.jobs := rfl
@[simp] theorem onGln_mem (f : Fab) (g : Glinen → Glinen) : (onGln f g).mem = f.mem := rfl
@[simp] theorem onGln_tab (f : Fab) (g : Glinen → Glinen) : (onGln f g).tab = f.tab := rfl
@[simp] theorem onGln_cores (f : Fab) (g : Glinen → Glinen) : (onGln f g).cores = f.cores := rfl
@[simp] theorem onGln_eng (f : Fab) (g : Glinen → Glinen) : (onGln f g).eng = f.eng := rfl
@[simp] theorem onGln_dies (f : Fab) (g : Glinen → Glinen) : (onGln f g).dies = f.dies := rfl
@[simp] theorem onGln_memErr (f : Fab) (g : Glinen → Glinen) : (onGln f g).memErr = f.memErr := rfl
@[simp] theorem onGln_roleDrops (f : Fab) (g : Glinen → Glinen) : (onGln f g).roleDrops = f.roleDrops := rfl
@[simp] theorem onGln_elapsed (f : Fab) (g : Glinen → Glinen) : (onGln f g).elapsed = f.elapsed := rfl
@[simp] theorem onGln_work (f : Fab) (g : Glinen → Glinen) : (onGln f g).work = f.work := rfl
@[simp] theorem onGln_classWork (f : Fab) (g : Glinen → Glinen) : (onGln f g).classWork = f.classWork := rfl
@[simp] theorem onGln_syncSel (f : Fab) (g : Glinen → Glinen) : (onGln f g).syncSel = f.syncSel := rfl
@[simp] theorem onGln_syncWsel (f : Fab) (g : Glinen → Glinen) : (onGln f g).syncWsel = f.syncWsel := rfl
@[simp] theorem onGln_link (f : Fab) (g : Glinen → Glinen) : (onGln f g).link = f.link := rfl
@[simp] theorem onGln_gln (f : Fab) (g : Glinen → Glinen) : (onGln f g).gln = g f.gln := rfl
@[simp] theorem onGln_sent (f : Fab) (g : Glinen → Glinen) : (onGln f g).sent = f.sent := rfl

@[simp] theorem modSec_on (k : Keel) (g : Sec → Sec) : (modSec k g).on = k.on := rfl
@[simp] theorem modSec_time (k : Keel) (g : Sec → Sec) : (modSec k g).time = k.time := rfl
@[simp] theorem modSec_resetN (k : Keel) (g : Sec → Sec) : (modSec k g).resetN = k.resetN := rfl
@[simp] theorem modSec_resetFall (k : Keel) (g : Sec → Sec) : (modSec k g).resetFall = k.resetFall := rfl
@[simp] theorem modSec_coolantOk (k : Keel) (g : Sec → Sec) : (modSec k g).coolantOk = k.coolantOk := rfl
@[simp] theorem modSec_pg (k : Keel) (g : Sec → Sec) : (modSec k g).pg = k.pg := rfl
@[simp] theorem modSec_railReq (k : Keel) (g : Sec → Sec) : (modSec k g).railReq = k.railReq := rfl
@[simp] theorem modSec_addrSel (k : Keel) (g : Sec → Sec) : (modSec k g).addrSel = k.addrSel := rfl
@[simp] theorem modSec_fuse (k : Keel) (g : Sec → Sec) : (modSec k g).fuse = k.fuse := rfl
@[simp] theorem modSec_nvm (k : Keel) (g : Sec → Sec) : (modSec k g).nvm = k.nvm := rfl
@[simp] theorem modSec_boot (k : Keel) (g : Sec → Sec) : (modSec k g).boot = k.boot := rfl
@[simp] theorem modSec_start (k : Keel) (g : Sec → Sec) : (modSec k g).start = k.start := rfl
@[simp] theorem modSec_image (k : Keel) (g : Sec → Sec) : (modSec k g).image = k.image := rfl
@[simp] theorem modSec_lpddrDone (k : Keel) (g : Sec → Sec) : (modSec k g).lpddrDone = k.lpddrDone := rfl
@[simp] theorem modSec_tetherDone (k : Keel) (g : Sec → Sec) : (modSec k g).tetherDone = k.tetherDone := rfl
@[simp] theorem modSec_tetherKind (k : Keel) (g : Sec → Sec) : (modSec k g).tetherKind = k.tetherKind := rfl
@[simp] theorem modSec_chan (k : Keel) (g : Sec → Sec) : (modSec k g).chan = k.chan := rfl
@[simp] theorem modSec_power (k : Keel) (g : Sec → Sec) : (modSec k g).power = k.power := rfl
@[simp] theorem modSec_sec (k : Keel) (g : Sec → Sec) : (modSec k g).sec = g k.sec := rfl
@[simp] theorem modSec_i3c (k : Keel) (g : Sec → Sec) : (modSec k g).i3c = k.i3c := rfl
@[simp] theorem modSec_mboxOut (k : Keel) (g : Sec → Sec) : (modSec k g).mboxOut = k.mboxOut := rfl
@[simp] theorem modSec_mboxWait (k : Keel) (g : Sec → Sec) : (modSec k g).mboxWait = k.mboxWait := rfl
@[simp] theorem modSec_nvmReply (k : Keel) (g : Sec → Sec) : (modSec k g).nvmReply = k.nvmReply := rfl
@[simp] theorem modSec_frameSlot (k : Keel) (g : Sec → Sec) : (modSec k g).frameSlot = k.frameSlot := rfl
@[simp] theorem modSec_accepted (k : Keel) (g : Sec → Sec) : (modSec k g).accepted = k.accepted := rfl
@[simp] theorem modSec_merged (k : Keel) (g : Sec → Sec) : (modSec k g).merged = k.merged := rfl
@[simp] theorem modSec_unselected (k : Keel) (g : Sec → Sec) : (modSec k g).unselected = k.unselected := rfl
@[simp] theorem modSec_lastFrame (k : Keel) (g : Sec → Sec) : (modSec k g).lastFrame = k.lastFrame := rfl
@[simp] theorem modSec_out (k : Keel) (g : Sec → Sec) : (modSec k g).out = k.out := rfl

@[simp] theorem modPower_on (k : Keel) (g : Power → Power) : (modPower k g).on = k.on := rfl
@[simp] theorem modPower_time (k : Keel) (g : Power → Power) : (modPower k g).time = k.time := rfl
@[simp] theorem modPower_resetN (k : Keel) (g : Power → Power) : (modPower k g).resetN = k.resetN := rfl
@[simp] theorem modPower_resetFall (k : Keel) (g : Power → Power) : (modPower k g).resetFall = k.resetFall := rfl
@[simp] theorem modPower_coolantOk (k : Keel) (g : Power → Power) : (modPower k g).coolantOk = k.coolantOk := rfl
@[simp] theorem modPower_pg (k : Keel) (g : Power → Power) : (modPower k g).pg = k.pg := rfl
@[simp] theorem modPower_railReq (k : Keel) (g : Power → Power) : (modPower k g).railReq = k.railReq := rfl
@[simp] theorem modPower_addrSel (k : Keel) (g : Power → Power) : (modPower k g).addrSel = k.addrSel := rfl
@[simp] theorem modPower_fuse (k : Keel) (g : Power → Power) : (modPower k g).fuse = k.fuse := rfl
@[simp] theorem modPower_nvm (k : Keel) (g : Power → Power) : (modPower k g).nvm = k.nvm := rfl
@[simp] theorem modPower_boot (k : Keel) (g : Power → Power) : (modPower k g).boot = k.boot := rfl
@[simp] theorem modPower_start (k : Keel) (g : Power → Power) : (modPower k g).start = k.start := rfl
@[simp] theorem modPower_image (k : Keel) (g : Power → Power) : (modPower k g).image = k.image := rfl
@[simp] theorem modPower_lpddrDone (k : Keel) (g : Power → Power) : (modPower k g).lpddrDone = k.lpddrDone := rfl
@[simp] theorem modPower_tetherDone (k : Keel) (g : Power → Power) : (modPower k g).tetherDone = k.tetherDone := rfl
@[simp] theorem modPower_tetherKind (k : Keel) (g : Power → Power) : (modPower k g).tetherKind = k.tetherKind := rfl
@[simp] theorem modPower_chan (k : Keel) (g : Power → Power) : (modPower k g).chan = k.chan := rfl
@[simp] theorem modPower_power (k : Keel) (g : Power → Power) : (modPower k g).power = g k.power := rfl
@[simp] theorem modPower_sec (k : Keel) (g : Power → Power) : (modPower k g).sec = k.sec := rfl
@[simp] theorem modPower_i3c (k : Keel) (g : Power → Power) : (modPower k g).i3c = k.i3c := rfl
@[simp] theorem modPower_mboxOut (k : Keel) (g : Power → Power) : (modPower k g).mboxOut = k.mboxOut := rfl
@[simp] theorem modPower_mboxWait (k : Keel) (g : Power → Power) : (modPower k g).mboxWait = k.mboxWait := rfl
@[simp] theorem modPower_nvmReply (k : Keel) (g : Power → Power) : (modPower k g).nvmReply = k.nvmReply := rfl
@[simp] theorem modPower_frameSlot (k : Keel) (g : Power → Power) : (modPower k g).frameSlot = k.frameSlot := rfl
@[simp] theorem modPower_accepted (k : Keel) (g : Power → Power) : (modPower k g).accepted = k.accepted := rfl
@[simp] theorem modPower_merged (k : Keel) (g : Power → Power) : (modPower k g).merged = k.merged := rfl
@[simp] theorem modPower_unselected (k : Keel) (g : Power → Power) : (modPower k g).unselected = k.unselected := rfl
@[simp] theorem modPower_lastFrame (k : Keel) (g : Power → Power) : (modPower k g).lastFrame = k.lastFrame := rfl
@[simp] theorem modPower_out (k : Keel) (g : Power → Power) : (modPower k g).out = k.out := rfl

@[simp] theorem modBoot_on (k : Keel) (g : Boot → Boot) : (modBoot k g).on = k.on := rfl
@[simp] theorem modBoot_time (k : Keel) (g : Boot → Boot) : (modBoot k g).time = k.time := rfl
@[simp] theorem modBoot_resetN (k : Keel) (g : Boot → Boot) : (modBoot k g).resetN = k.resetN := rfl
@[simp] theorem modBoot_resetFall (k : Keel) (g : Boot → Boot) : (modBoot k g).resetFall = k.resetFall := rfl
@[simp] theorem modBoot_coolantOk (k : Keel) (g : Boot → Boot) : (modBoot k g).coolantOk = k.coolantOk := rfl
@[simp] theorem modBoot_pg (k : Keel) (g : Boot → Boot) : (modBoot k g).pg = k.pg := rfl
@[simp] theorem modBoot_railReq (k : Keel) (g : Boot → Boot) : (modBoot k g).railReq = k.railReq := rfl
@[simp] theorem modBoot_addrSel (k : Keel) (g : Boot → Boot) : (modBoot k g).addrSel = k.addrSel := rfl
@[simp] theorem modBoot_fuse (k : Keel) (g : Boot → Boot) : (modBoot k g).fuse = k.fuse := rfl
@[simp] theorem modBoot_nvm (k : Keel) (g : Boot → Boot) : (modBoot k g).nvm = k.nvm := rfl
@[simp] theorem modBoot_boot (k : Keel) (g : Boot → Boot) : (modBoot k g).boot = g k.boot := rfl
@[simp] theorem modBoot_start (k : Keel) (g : Boot → Boot) : (modBoot k g).start = k.start := rfl
@[simp] theorem modBoot_image (k : Keel) (g : Boot → Boot) : (modBoot k g).image = k.image := rfl
@[simp] theorem modBoot_lpddrDone (k : Keel) (g : Boot → Boot) : (modBoot k g).lpddrDone = k.lpddrDone := rfl
@[simp] theorem modBoot_tetherDone (k : Keel) (g : Boot → Boot) : (modBoot k g).tetherDone = k.tetherDone := rfl
@[simp] theorem modBoot_tetherKind (k : Keel) (g : Boot → Boot) : (modBoot k g).tetherKind = k.tetherKind := rfl
@[simp] theorem modBoot_chan (k : Keel) (g : Boot → Boot) : (modBoot k g).chan = k.chan := rfl
@[simp] theorem modBoot_power (k : Keel) (g : Boot → Boot) : (modBoot k g).power = k.power := rfl
@[simp] theorem modBoot_sec (k : Keel) (g : Boot → Boot) : (modBoot k g).sec = k.sec := rfl
@[simp] theorem modBoot_i3c (k : Keel) (g : Boot → Boot) : (modBoot k g).i3c = k.i3c := rfl
@[simp] theorem modBoot_mboxOut (k : Keel) (g : Boot → Boot) : (modBoot k g).mboxOut = k.mboxOut := rfl
@[simp] theorem modBoot_mboxWait (k : Keel) (g : Boot → Boot) : (modBoot k g).mboxWait = k.mboxWait := rfl
@[simp] theorem modBoot_nvmReply (k : Keel) (g : Boot → Boot) : (modBoot k g).nvmReply = k.nvmReply := rfl
@[simp] theorem modBoot_frameSlot (k : Keel) (g : Boot → Boot) : (modBoot k g).frameSlot = k.frameSlot := rfl
@[simp] theorem modBoot_accepted (k : Keel) (g : Boot → Boot) : (modBoot k g).accepted = k.accepted := rfl
@[simp] theorem modBoot_merged (k : Keel) (g : Boot → Boot) : (modBoot k g).merged = k.merged := rfl
@[simp] theorem modBoot_unselected (k : Keel) (g : Boot → Boot) : (modBoot k g).unselected = k.unselected := rfl
@[simp] theorem modBoot_lastFrame (k : Keel) (g : Boot → Boot) : (modBoot k g).lastFrame = k.lastFrame := rfl
@[simp] theorem modBoot_out (k : Keel) (g : Boot → Boot) : (modBoot k g).out = k.out := rfl

@[simp] theorem modStart_on (k : Keel) (g : Start → Start) : (modStart k g).on = k.on := rfl
@[simp] theorem modStart_time (k : Keel) (g : Start → Start) : (modStart k g).time = k.time := rfl
@[simp] theorem modStart_resetN (k : Keel) (g : Start → Start) : (modStart k g).resetN = k.resetN := rfl
@[simp] theorem modStart_resetFall (k : Keel) (g : Start → Start) : (modStart k g).resetFall = k.resetFall := rfl
@[simp] theorem modStart_coolantOk (k : Keel) (g : Start → Start) : (modStart k g).coolantOk = k.coolantOk := rfl
@[simp] theorem modStart_pg (k : Keel) (g : Start → Start) : (modStart k g).pg = k.pg := rfl
@[simp] theorem modStart_railReq (k : Keel) (g : Start → Start) : (modStart k g).railReq = k.railReq := rfl
@[simp] theorem modStart_addrSel (k : Keel) (g : Start → Start) : (modStart k g).addrSel = k.addrSel := rfl
@[simp] theorem modStart_fuse (k : Keel) (g : Start → Start) : (modStart k g).fuse = k.fuse := rfl
@[simp] theorem modStart_nvm (k : Keel) (g : Start → Start) : (modStart k g).nvm = k.nvm := rfl
@[simp] theorem modStart_boot (k : Keel) (g : Start → Start) : (modStart k g).boot = k.boot := rfl
@[simp] theorem modStart_start (k : Keel) (g : Start → Start) : (modStart k g).start = g k.start := rfl
@[simp] theorem modStart_image (k : Keel) (g : Start → Start) : (modStart k g).image = k.image := rfl
@[simp] theorem modStart_lpddrDone (k : Keel) (g : Start → Start) : (modStart k g).lpddrDone = k.lpddrDone := rfl
@[simp] theorem modStart_tetherDone (k : Keel) (g : Start → Start) : (modStart k g).tetherDone = k.tetherDone := rfl
@[simp] theorem modStart_tetherKind (k : Keel) (g : Start → Start) : (modStart k g).tetherKind = k.tetherKind := rfl
@[simp] theorem modStart_chan (k : Keel) (g : Start → Start) : (modStart k g).chan = k.chan := rfl
@[simp] theorem modStart_power (k : Keel) (g : Start → Start) : (modStart k g).power = k.power := rfl
@[simp] theorem modStart_sec (k : Keel) (g : Start → Start) : (modStart k g).sec = k.sec := rfl
@[simp] theorem modStart_i3c (k : Keel) (g : Start → Start) : (modStart k g).i3c = k.i3c := rfl
@[simp] theorem modStart_mboxOut (k : Keel) (g : Start → Start) : (modStart k g).mboxOut = k.mboxOut := rfl
@[simp] theorem modStart_mboxWait (k : Keel) (g : Start → Start) : (modStart k g).mboxWait = k.mboxWait := rfl
@[simp] theorem modStart_nvmReply (k : Keel) (g : Start → Start) : (modStart k g).nvmReply = k.nvmReply := rfl
@[simp] theorem modStart_frameSlot (k : Keel) (g : Start → Start) : (modStart k g).frameSlot = k.frameSlot := rfl
@[simp] theorem modStart_accepted (k : Keel) (g : Start → Start) : (modStart k g).accepted = k.accepted := rfl
@[simp] theorem modStart_merged (k : Keel) (g : Start → Start) : (modStart k g).merged = k.merged := rfl
@[simp] theorem modStart_unselected (k : Keel) (g : Start → Start) : (modStart k g).unselected = k.unselected := rfl
@[simp] theorem modStart_lastFrame (k : Keel) (g : Start → Start) : (modStart k g).lastFrame = k.lastFrame := rfl
@[simp] theorem modStart_out (k : Keel) (g : Start → Start) : (modStart k g).out = k.out := rfl

@[simp] theorem modI3c_on (k : Keel) (g : I3c → I3c) : (modI3c k g).on = k.on := rfl
@[simp] theorem modI3c_time (k : Keel) (g : I3c → I3c) : (modI3c k g).time = k.time := rfl
@[simp] theorem modI3c_resetN (k : Keel) (g : I3c → I3c) : (modI3c k g).resetN = k.resetN := rfl
@[simp] theorem modI3c_resetFall (k : Keel) (g : I3c → I3c) : (modI3c k g).resetFall = k.resetFall := rfl
@[simp] theorem modI3c_coolantOk (k : Keel) (g : I3c → I3c) : (modI3c k g).coolantOk = k.coolantOk := rfl
@[simp] theorem modI3c_pg (k : Keel) (g : I3c → I3c) : (modI3c k g).pg = k.pg := rfl
@[simp] theorem modI3c_railReq (k : Keel) (g : I3c → I3c) : (modI3c k g).railReq = k.railReq := rfl
@[simp] theorem modI3c_addrSel (k : Keel) (g : I3c → I3c) : (modI3c k g).addrSel = k.addrSel := rfl
@[simp] theorem modI3c_fuse (k : Keel) (g : I3c → I3c) : (modI3c k g).fuse = k.fuse := rfl
@[simp] theorem modI3c_nvm (k : Keel) (g : I3c → I3c) : (modI3c k g).nvm = k.nvm := rfl
@[simp] theorem modI3c_boot (k : Keel) (g : I3c → I3c) : (modI3c k g).boot = k.boot := rfl
@[simp] theorem modI3c_start (k : Keel) (g : I3c → I3c) : (modI3c k g).start = k.start := rfl
@[simp] theorem modI3c_image (k : Keel) (g : I3c → I3c) : (modI3c k g).image = k.image := rfl
@[simp] theorem modI3c_lpddrDone (k : Keel) (g : I3c → I3c) : (modI3c k g).lpddrDone = k.lpddrDone := rfl
@[simp] theorem modI3c_tetherDone (k : Keel) (g : I3c → I3c) : (modI3c k g).tetherDone = k.tetherDone := rfl
@[simp] theorem modI3c_tetherKind (k : Keel) (g : I3c → I3c) : (modI3c k g).tetherKind = k.tetherKind := rfl
@[simp] theorem modI3c_chan (k : Keel) (g : I3c → I3c) : (modI3c k g).chan = k.chan := rfl
@[simp] theorem modI3c_power (k : Keel) (g : I3c → I3c) : (modI3c k g).power = k.power := rfl
@[simp] theorem modI3c_sec (k : Keel) (g : I3c → I3c) : (modI3c k g).sec = k.sec := rfl
@[simp] theorem modI3c_i3c (k : Keel) (g : I3c → I3c) : (modI3c k g).i3c = g k.i3c := rfl
@[simp] theorem modI3c_mboxOut (k : Keel) (g : I3c → I3c) : (modI3c k g).mboxOut = k.mboxOut := rfl
@[simp] theorem modI3c_mboxWait (k : Keel) (g : I3c → I3c) : (modI3c k g).mboxWait = k.mboxWait := rfl
@[simp] theorem modI3c_nvmReply (k : Keel) (g : I3c → I3c) : (modI3c k g).nvmReply = k.nvmReply := rfl
@[simp] theorem modI3c_frameSlot (k : Keel) (g : I3c → I3c) : (modI3c k g).frameSlot = k.frameSlot := rfl
@[simp] theorem modI3c_accepted (k : Keel) (g : I3c → I3c) : (modI3c k g).accepted = k.accepted := rfl
@[simp] theorem modI3c_merged (k : Keel) (g : I3c → I3c) : (modI3c k g).merged = k.merged := rfl
@[simp] theorem modI3c_unselected (k : Keel) (g : I3c → I3c) : (modI3c k g).unselected = k.unselected := rfl
@[simp] theorem modI3c_lastFrame (k : Keel) (g : I3c → I3c) : (modI3c k g).lastFrame = k.lastFrame := rfl
@[simp] theorem modI3c_out (k : Keel) (g : I3c → I3c) : (modI3c k g).out = k.out := rfl

@[simp] theorem modNvm_on (k : Keel) (g : Nvm → Nvm) : (modNvm k g).on = k.on := rfl
@[simp] theorem modNvm_time (k : Keel) (g : Nvm → Nvm) : (modNvm k g).time = k.time := rfl
@[simp] theorem modNvm_resetN (k : Keel) (g : Nvm → Nvm) : (modNvm k g).resetN = k.resetN := rfl
@[simp] theorem modNvm_resetFall (k : Keel) (g : Nvm → Nvm) : (modNvm k g).resetFall = k.resetFall := rfl
@[simp] theorem modNvm_coolantOk (k : Keel) (g : Nvm → Nvm) : (modNvm k g).coolantOk = k.coolantOk := rfl
@[simp] theorem modNvm_pg (k : Keel) (g : Nvm → Nvm) : (modNvm k g).pg = k.pg := rfl
@[simp] theorem modNvm_railReq (k : Keel) (g : Nvm → Nvm) : (modNvm k g).railReq = k.railReq := rfl
@[simp] theorem modNvm_addrSel (k : Keel) (g : Nvm → Nvm) : (modNvm k g).addrSel = k.addrSel := rfl
@[simp] theorem modNvm_fuse (k : Keel) (g : Nvm → Nvm) : (modNvm k g).fuse = k.fuse := rfl
@[simp] theorem modNvm_nvm (k : Keel) (g : Nvm → Nvm) : (modNvm k g).nvm = g k.nvm := rfl
@[simp] theorem modNvm_boot (k : Keel) (g : Nvm → Nvm) : (modNvm k g).boot = k.boot := rfl
@[simp] theorem modNvm_start (k : Keel) (g : Nvm → Nvm) : (modNvm k g).start = k.start := rfl
@[simp] theorem modNvm_image (k : Keel) (g : Nvm → Nvm) : (modNvm k g).image = k.image := rfl
@[simp] theorem modNvm_lpddrDone (k : Keel) (g : Nvm → Nvm) : (modNvm k g).lpddrDone = k.lpddrDone := rfl
@[simp] theorem modNvm_tetherDone (k : Keel) (g : Nvm → Nvm) : (modNvm k g).tetherDone = k.tetherDone := rfl
@[simp] theorem modNvm_tetherKind (k : Keel) (g : Nvm → Nvm) : (modNvm k g).tetherKind = k.tetherKind := rfl
@[simp] theorem modNvm_chan (k : Keel) (g : Nvm → Nvm) : (modNvm k g).chan = k.chan := rfl
@[simp] theorem modNvm_power (k : Keel) (g : Nvm → Nvm) : (modNvm k g).power = k.power := rfl
@[simp] theorem modNvm_sec (k : Keel) (g : Nvm → Nvm) : (modNvm k g).sec = k.sec := rfl
@[simp] theorem modNvm_i3c (k : Keel) (g : Nvm → Nvm) : (modNvm k g).i3c = k.i3c := rfl
@[simp] theorem modNvm_mboxOut (k : Keel) (g : Nvm → Nvm) : (modNvm k g).mboxOut = k.mboxOut := rfl
@[simp] theorem modNvm_mboxWait (k : Keel) (g : Nvm → Nvm) : (modNvm k g).mboxWait = k.mboxWait := rfl
@[simp] theorem modNvm_nvmReply (k : Keel) (g : Nvm → Nvm) : (modNvm k g).nvmReply = k.nvmReply := rfl
@[simp] theorem modNvm_frameSlot (k : Keel) (g : Nvm → Nvm) : (modNvm k g).frameSlot = k.frameSlot := rfl
@[simp] theorem modNvm_accepted (k : Keel) (g : Nvm → Nvm) : (modNvm k g).accepted = k.accepted := rfl
@[simp] theorem modNvm_merged (k : Keel) (g : Nvm → Nvm) : (modNvm k g).merged = k.merged := rfl
@[simp] theorem modNvm_unselected (k : Keel) (g : Nvm → Nvm) : (modNvm k g).unselected = k.unselected := rfl
@[simp] theorem modNvm_lastFrame (k : Keel) (g : Nvm → Nvm) : (modNvm k g).lastFrame = k.lastFrame := rfl
@[simp] theorem modNvm_out (k : Keel) (g : Nvm → Nvm) : (modNvm k g).out = k.out := rfl

@[simp] theorem sendOut_on (k : Keel) (os : List KeelOut) : (sendOut k os).on = k.on := rfl
@[simp] theorem sendOut_time (k : Keel) (os : List KeelOut) : (sendOut k os).time = k.time := rfl
@[simp] theorem sendOut_resetN (k : Keel) (os : List KeelOut) : (sendOut k os).resetN = k.resetN := rfl
@[simp] theorem sendOut_resetFall (k : Keel) (os : List KeelOut) : (sendOut k os).resetFall = k.resetFall := rfl
@[simp] theorem sendOut_coolantOk (k : Keel) (os : List KeelOut) : (sendOut k os).coolantOk = k.coolantOk := rfl
@[simp] theorem sendOut_pg (k : Keel) (os : List KeelOut) : (sendOut k os).pg = k.pg := rfl
@[simp] theorem sendOut_railReq (k : Keel) (os : List KeelOut) : (sendOut k os).railReq = k.railReq := rfl
@[simp] theorem sendOut_addrSel (k : Keel) (os : List KeelOut) : (sendOut k os).addrSel = k.addrSel := rfl
@[simp] theorem sendOut_fuse (k : Keel) (os : List KeelOut) : (sendOut k os).fuse = k.fuse := rfl
@[simp] theorem sendOut_nvm (k : Keel) (os : List KeelOut) : (sendOut k os).nvm = k.nvm := rfl
@[simp] theorem sendOut_boot (k : Keel) (os : List KeelOut) : (sendOut k os).boot = k.boot := rfl
@[simp] theorem sendOut_start (k : Keel) (os : List KeelOut) : (sendOut k os).start = k.start := rfl
@[simp] theorem sendOut_image (k : Keel) (os : List KeelOut) : (sendOut k os).image = k.image := rfl
@[simp] theorem sendOut_lpddrDone (k : Keel) (os : List KeelOut) : (sendOut k os).lpddrDone = k.lpddrDone := rfl
@[simp] theorem sendOut_tetherDone (k : Keel) (os : List KeelOut) : (sendOut k os).tetherDone = k.tetherDone := rfl
@[simp] theorem sendOut_tetherKind (k : Keel) (os : List KeelOut) : (sendOut k os).tetherKind = k.tetherKind := rfl
@[simp] theorem sendOut_chan (k : Keel) (os : List KeelOut) : (sendOut k os).chan = k.chan := rfl
@[simp] theorem sendOut_power (k : Keel) (os : List KeelOut) : (sendOut k os).power = k.power := rfl
@[simp] theorem sendOut_sec (k : Keel) (os : List KeelOut) : (sendOut k os).sec = k.sec := rfl
@[simp] theorem sendOut_i3c (k : Keel) (os : List KeelOut) : (sendOut k os).i3c = k.i3c := rfl
@[simp] theorem sendOut_mboxOut (k : Keel) (os : List KeelOut) : (sendOut k os).mboxOut = k.mboxOut := rfl
@[simp] theorem sendOut_mboxWait (k : Keel) (os : List KeelOut) : (sendOut k os).mboxWait = k.mboxWait := rfl
@[simp] theorem sendOut_nvmReply (k : Keel) (os : List KeelOut) : (sendOut k os).nvmReply = k.nvmReply := rfl
@[simp] theorem sendOut_frameSlot (k : Keel) (os : List KeelOut) : (sendOut k os).frameSlot = k.frameSlot := rfl
@[simp] theorem sendOut_accepted (k : Keel) (os : List KeelOut) : (sendOut k os).accepted = k.accepted := rfl
@[simp] theorem sendOut_merged (k : Keel) (os : List KeelOut) : (sendOut k os).merged = k.merged := rfl
@[simp] theorem sendOut_unselected (k : Keel) (os : List KeelOut) : (sendOut k os).unselected = k.unselected := rfl
@[simp] theorem sendOut_lastFrame (k : Keel) (os : List KeelOut) : (sendOut k os).lastFrame = k.lastFrame := rfl
@[simp] theorem sendOut_out (k : Keel) (os : List KeelOut) : (sendOut k os).out = k.out ++ os := rfl

@[simp] theorem tick_nm (m : Mem) : (tick m).nm = m.nm := rfl
@[simp] theorem tick_lpd (m : Mem) : (tick m).lpd = m.lpd := rfl
@[simp] theorem tick_loc (m : Mem) : (tick m).loc = m.loc := rfl
@[simp] theorem tick_poison (m : Mem) : (tick m).poison = m.poison := rfl
@[simp] theorem tick_badWords (m : Mem) : (tick m).badWords = m.badWords := rfl
@[simp] theorem tick_locCe (m : Mem) : (tick m).locCe = m.locCe := rfl
@[simp] theorem tick_softWords (m : Mem) : (tick m).softWords = m.softWords := rfl
@[simp] theorem tick_l1Bad (m : Mem) : (tick m).l1Bad = m.l1Bad := rfl
@[simp] theorem tick_fatal (m : Mem) : (tick m).fatal = m.fatal := rfl
@[simp] theorem tick_lost (m : Mem) : (tick m).lost = m.lost := rfl
@[simp] theorem tick_refetch (m : Mem) : (tick m).refetch = m.refetch := rfl
@[simp] theorem tick_arrived (m : Mem) : (tick m).arrived = m.arrived := rfl
@[simp] theorem tick_arb (m : Mem) : (tick m).arb = m.arb := rfl
@[simp] theorem tick_l2 (m : Mem) : (tick m).l2 = m.l2 := rfl
@[simp] theorem tick_evb (m : Mem) : (tick m).evb = m.evb := rfl
@[simp] theorem tick_l1 (m : Mem) : (tick m).l1 = m.l1 := rfl
@[simp] theorem tick_dir (m : Mem) : (tick m).dir = m.dir := rfl
@[simp] theorem tick_streams (m : Mem) : (tick m).streams = m.streams := rfl
@[simp] theorem tick_locks (m : Mem) : (tick m).locks = m.locks := rfl
@[simp] theorem tick_resv (m : Mem) : (tick m).resv = m.resv := rfl
@[simp] theorem tick_holds (m : Mem) : (tick m).holds = m.holds := rfl
@[simp] theorem tick_failedLane (m : Mem) : (tick m).failedLane = m.failedLane := rfl
@[simp] theorem tick_chans (m : Mem) : (tick m).chans = m.chans := rfl
@[simp] theorem tick_use (m : Mem) : (tick m).use = m.use + 1 := rfl

@[simp] theorem delL2_nm (m : Mem) (die : Nat) (l : Line) : (delL2 m die l).nm = m.nm := rfl
@[simp] theorem delL2_lpd (m : Mem) (die : Nat) (l : Line) : (delL2 m die l).lpd = m.lpd := rfl
@[simp] theorem delL2_loc (m : Mem) (die : Nat) (l : Line) : (delL2 m die l).loc = m.loc := rfl
@[simp] theorem delL2_poison (m : Mem) (die : Nat) (l : Line) : (delL2 m die l).poison = m.poison := rfl
@[simp] theorem delL2_badWords (m : Mem) (die : Nat) (l : Line) : (delL2 m die l).badWords = m.badWords := rfl
@[simp] theorem delL2_locCe (m : Mem) (die : Nat) (l : Line) : (delL2 m die l).locCe = m.locCe := rfl
@[simp] theorem delL2_softWords (m : Mem) (die : Nat) (l : Line) : (delL2 m die l).softWords = m.softWords := rfl
@[simp] theorem delL2_l1Bad (m : Mem) (die : Nat) (l : Line) : (delL2 m die l).l1Bad = m.l1Bad := rfl
@[simp] theorem delL2_fatal (m : Mem) (die : Nat) (l : Line) : (delL2 m die l).fatal = m.fatal := rfl
@[simp] theorem delL2_lost (m : Mem) (die : Nat) (l : Line) : (delL2 m die l).lost = m.lost := rfl
@[simp] theorem delL2_refetch (m : Mem) (die : Nat) (l : Line) : (delL2 m die l).refetch = m.refetch := rfl
@[simp] theorem delL2_arrived (m : Mem) (die : Nat) (l : Line) : (delL2 m die l).arrived = m.arrived := rfl
@[simp] theorem delL2_arb (m : Mem) (die : Nat) (l : Line) : (delL2 m die l).arb = m.arb := rfl
@[simp] theorem delL2_l2 (m : Mem) (die : Nat) (l : Line) : (delL2 m die l).l2 = m.l2.filter fun c => !(c.die == die && c.line == l) := rfl
@[simp] theorem delL2_evb (m : Mem) (die : Nat) (l : Line) : (delL2 m die l).evb = m.evb := rfl
@[simp] theorem delL2_l1 (m : Mem) (die : Nat) (l : Line) : (delL2 m die l).l1 = m.l1 := rfl
@[simp] theorem delL2_dir (m : Mem) (die : Nat) (l : Line) : (delL2 m die l).dir = m.dir := rfl
@[simp] theorem delL2_streams (m : Mem) (die : Nat) (l : Line) : (delL2 m die l).streams = m.streams := rfl
@[simp] theorem delL2_locks (m : Mem) (die : Nat) (l : Line) : (delL2 m die l).locks = m.locks := rfl
@[simp] theorem delL2_resv (m : Mem) (die : Nat) (l : Line) : (delL2 m die l).resv = m.resv := rfl
@[simp] theorem delL2_holds (m : Mem) (die : Nat) (l : Line) : (delL2 m die l).holds = m.holds := rfl
@[simp] theorem delL2_failedLane (m : Mem) (die : Nat) (l : Line) : (delL2 m die l).failedLane = m.failedLane := rfl
@[simp] theorem delL2_chans (m : Mem) (die : Nat) (l : Line) : (delL2 m die l).chans = m.chans := rfl
@[simp] theorem delL2_use (m : Mem) (die : Nat) (l : Line) : (delL2 m die l).use = m.use := rfl

@[simp] theorem delClean_nm (m : Mem) (die : Nat) (l : Line) : (delClean m die l).nm = m.nm := rfl
@[simp] theorem delClean_lpd (m : Mem) (die : Nat) (l : Line) : (delClean m die l).lpd = m.lpd := rfl
@[simp] theorem delClean_loc (m : Mem) (die : Nat) (l : Line) : (delClean m die l).loc = m.loc := rfl
@[simp] theorem delClean_poison (m : Mem) (die : Nat) (l : Line) : (delClean m die l).poison = m.poison := rfl
@[simp] theorem delClean_badWords (m : Mem) (die : Nat) (l : Line) : (delClean m die l).badWords = m.badWords := rfl
@[simp] theorem delClean_locCe (m : Mem) (die : Nat) (l : Line) : (delClean m die l).locCe = m.locCe := rfl
@[simp] theorem delClean_softWords (m : Mem) (die : Nat) (l : Line) : (delClean m die l).softWords = m.softWords := rfl
@[simp] theorem delClean_l1Bad (m : Mem) (die : Nat) (l : Line) : (delClean m die l).l1Bad = m.l1Bad := rfl
@[simp] theorem delClean_fatal (m : Mem) (die : Nat) (l : Line) : (delClean m die l).fatal = m.fatal := rfl
@[simp] theorem delClean_lost (m : Mem) (die : Nat) (l : Line) : (delClean m die l).lost = m.lost := rfl
@[simp] theorem delClean_refetch (m : Mem) (die : Nat) (l : Line) : (delClean m die l).refetch = m.refetch := rfl
@[simp] theorem delClean_arrived (m : Mem) (die : Nat) (l : Line) : (delClean m die l).arrived = m.arrived := rfl
@[simp] theorem delClean_arb (m : Mem) (die : Nat) (l : Line) : (delClean m die l).arb = m.arb := rfl
@[simp] theorem delClean_l2 (m : Mem) (die : Nat) (l : Line) : (delClean m die l).l2 = m.l2 := rfl
@[simp] theorem delClean_evb (m : Mem) (die : Nat) (l : Line) : (delClean m die l).evb = m.evb.filter fun e => e.dirtyLine || !(e.die == die && e.line == l) := rfl
@[simp] theorem delClean_l1 (m : Mem) (die : Nat) (l : Line) : (delClean m die l).l1 = m.l1 := rfl
@[simp] theorem delClean_dir (m : Mem) (die : Nat) (l : Line) : (delClean m die l).dir = m.dir := rfl
@[simp] theorem delClean_streams (m : Mem) (die : Nat) (l : Line) : (delClean m die l).streams = m.streams := rfl
@[simp] theorem delClean_locks (m : Mem) (die : Nat) (l : Line) : (delClean m die l).locks = m.locks := rfl
@[simp] theorem delClean_resv (m : Mem) (die : Nat) (l : Line) : (delClean m die l).resv = m.resv := rfl
@[simp] theorem delClean_holds (m : Mem) (die : Nat) (l : Line) : (delClean m die l).holds = m.holds := rfl
@[simp] theorem delClean_failedLane (m : Mem) (die : Nat) (l : Line) : (delClean m die l).failedLane = m.failedLane := rfl
@[simp] theorem delClean_chans (m : Mem) (die : Nat) (l : Line) : (delClean m die l).chans = m.chans := rfl
@[simp] theorem delClean_use (m : Mem) (die : Nat) (l : Line) : (delClean m die l).use = m.use := rfl

@[simp] theorem modL2_nm (m : Mem) (die : Nat) (l : Line) (g : L2Copy → L2Copy) : (modL2 m die l g).nm = m.nm := rfl
@[simp] theorem modL2_lpd (m : Mem) (die : Nat) (l : Line) (g : L2Copy → L2Copy) : (modL2 m die l g).lpd = m.lpd := rfl
@[simp] theorem modL2_loc (m : Mem) (die : Nat) (l : Line) (g : L2Copy → L2Copy) : (modL2 m die l g).loc = m.loc := rfl
@[simp] theorem modL2_poison (m : Mem) (die : Nat) (l : Line) (g : L2Copy → L2Copy) : (modL2 m die l g).poison = m.poison := rfl
@[simp] theorem modL2_badWords (m : Mem) (die : Nat) (l : Line) (g : L2Copy → L2Copy) : (modL2 m die l g).badWords = m.badWords := rfl
@[simp] theorem modL2_locCe (m : Mem) (die : Nat) (l : Line) (g : L2Copy → L2Copy) : (modL2 m die l g).locCe = m.locCe := rfl
@[simp] theorem modL2_softWords (m : Mem) (die : Nat) (l : Line) (g : L2Copy → L2Copy) : (modL2 m die l g).softWords = m.softWords := rfl
@[simp] theorem modL2_l1Bad (m : Mem) (die : Nat) (l : Line) (g : L2Copy → L2Copy) : (modL2 m die l g).l1Bad = m.l1Bad := rfl
@[simp] theorem modL2_fatal (m : Mem) (die : Nat) (l : Line) (g : L2Copy → L2Copy) : (modL2 m die l g).fatal = m.fatal := rfl
@[simp] theorem modL2_lost (m : Mem) (die : Nat) (l : Line) (g : L2Copy → L2Copy) : (modL2 m die l g).lost = m.lost := rfl
@[simp] theorem modL2_refetch (m : Mem) (die : Nat) (l : Line) (g : L2Copy → L2Copy) : (modL2 m die l g).refetch = m.refetch := rfl
@[simp] theorem modL2_arrived (m : Mem) (die : Nat) (l : Line) (g : L2Copy → L2Copy) : (modL2 m die l g).arrived = m.arrived := rfl
@[simp] theorem modL2_arb (m : Mem) (die : Nat) (l : Line) (g : L2Copy → L2Copy) : (modL2 m die l g).arb = m.arb := rfl
@[simp] theorem modL2_l2 (m : Mem) (die : Nat) (l : Line) (g : L2Copy → L2Copy) : (modL2 m die l g).l2 = m.l2.map fun c => if c.die == die && c.line == l then g c else c := rfl
@[simp] theorem modL2_evb (m : Mem) (die : Nat) (l : Line) (g : L2Copy → L2Copy) : (modL2 m die l g).evb = m.evb := rfl
@[simp] theorem modL2_l1 (m : Mem) (die : Nat) (l : Line) (g : L2Copy → L2Copy) : (modL2 m die l g).l1 = m.l1 := rfl
@[simp] theorem modL2_dir (m : Mem) (die : Nat) (l : Line) (g : L2Copy → L2Copy) : (modL2 m die l g).dir = m.dir := rfl
@[simp] theorem modL2_streams (m : Mem) (die : Nat) (l : Line) (g : L2Copy → L2Copy) : (modL2 m die l g).streams = m.streams := rfl
@[simp] theorem modL2_locks (m : Mem) (die : Nat) (l : Line) (g : L2Copy → L2Copy) : (modL2 m die l g).locks = m.locks := rfl
@[simp] theorem modL2_resv (m : Mem) (die : Nat) (l : Line) (g : L2Copy → L2Copy) : (modL2 m die l g).resv = m.resv := rfl
@[simp] theorem modL2_holds (m : Mem) (die : Nat) (l : Line) (g : L2Copy → L2Copy) : (modL2 m die l g).holds = m.holds := rfl
@[simp] theorem modL2_failedLane (m : Mem) (die : Nat) (l : Line) (g : L2Copy → L2Copy) : (modL2 m die l g).failedLane = m.failedLane := rfl
@[simp] theorem modL2_chans (m : Mem) (die : Nat) (l : Line) (g : L2Copy → L2Copy) : (modL2 m die l g).chans = m.chans := rfl
@[simp] theorem modL2_use (m : Mem) (die : Nat) (l : Line) (g : L2Copy → L2Copy) : (modL2 m die l g).use = m.use := rfl


end Sys2Proof.Machine
end

