-- ==== Sys2Proof/Laws/Keel.lean ====
section
/-!
SUPPORT. Laws/Keel.lean: what the operations of the keel leave alone: the fuses, the NVM, the pending lifecycle operation, and the width
of FAILS. Each operation has one lemma; those that change one of these are Laws/Fuses.lean's.
-/
namespace Sys2Proof.Machine

/-- The fuses, the NVM and the pending operation are as before, and FAILS keeps its width. -/
structure Kept (k k' : Keel) : Prop where
  fuse : k'.fuse = k.fuse
  nvm : k'.nvm = k.nvm
  pend : k'.sec.pend = k.sec.pend
  fails : k.boot.fails ≤ 3 → k'.boot.fails ≤ 3

theorem Kept.refl (k : Keel) : Kept k k := ⟨rfl, rfl, rfl, id⟩

theorem Kept.trans {a b c : Keel} (h : Kept a b) (h' : Kept b c) : Kept a c :=
  ⟨h'.fuse.trans h.fuse, h'.nvm.trans h.nvm, h'.pend.trans h.pend, fun x => h'.fails (h.fails x)⟩

/-- A change of other fields of the keel. -/
theorem Kept.of {k k' : Keel} (h1 : k'.fuse = k.fuse) (h2 : k'.nvm = k.nvm) (h3 : k'.sec.pend = k.sec.pend)
    (h4 : k'.boot.fails = k.boot.fails) : Kept k k' := ⟨h1, h2, h3, fun h => h4 ▸ h⟩

theorem Kept.ite {c : Prop} [Decidable c] {k a b : Keel} (ha : Kept k a) (hb : Kept k b) : Kept k (if c then a else b) := by
  split <;> assumption

theorem Kept.ite₂ {c : Prop} [Decidable c] {k : Keel} {a b : Keel × Fab} (ha : Kept k a.1) (hb : Kept k b.1) :
    Kept k (if c then a else b).1 := by split <;> assumption

theorem Kept.foldl {α : Type} {g : Keel → α → Keel} (hg : ∀ k x, Kept k (g k x)) : ∀ (xs : List α) (k : Keel), Kept k (xs.foldl g k)
  | [], k => .refl k
  | x :: xs, k => (hg k x).trans (Kept.foldl hg xs (g k x))

theorem Kept.foldl₂ {α : Type} {g : Keel × Fab → α → Keel × Fab} (hg : ∀ st x, Kept st.1 (g st x).1) :
    ∀ (xs : List α) (st : Keel × Fab), Kept st.1 (xs.foldl g st).1
  | [], st => .refl st.1
  | x :: xs, st => (hg st x).trans (Kept.foldl₂ hg xs (g st x))

/-- A sound keel stays sound where these are kept. -/
theorem Kept.sound {k k' : Keel} (h : Kept k k') (hs : k.sound) : k'.sound := by
  obtain ⟨h1, h2, h3, h4⟩ := hs
  refine ⟨?_, ?_, ?_, h.fails h4⟩
  · rw [h.fuse]; exact h1
  · rw [h.fuse, h.pend]; exact h2
  · rw [h.nvm]; exact h3

theorem Fuses.grows_refl (f : Fuses) : f.grows f := ⟨rfl, rfl, List.prefix_refl _, Nat.le_refl _, Nat.le_refl _, id, id⟩

theorem Kept.grows {k k' : Keel} (h : Kept k k') : k.fuse.grows k'.fuse := by rw [h.fuse]; exact Fuses.grows_refl _

/-! ### The parts of the keel -/

theorem kept_modPower (k : Keel) (g : Power → Power) : Kept k (modPower k g) := .of rfl rfl rfl rfl
theorem kept_modStart (k : Keel) (g : Start → Start) : Kept k (modStart k g) := .of rfl rfl rfl rfl
theorem kept_modI3c (k : Keel) (g : I3c → I3c) : Kept k (modI3c k g) := .of rfl rfl rfl rfl
theorem kept_sendOut (k : Keel) (os : List KeelOut) : Kept k (sendOut k os) := .of rfl rfl rfl rfl
theorem kept_modSec {k : Keel} {g : Sec → Sec} (h : (g k.sec).pend = k.sec.pend) : Kept k (modSec k g) := .of rfl rfl h rfl
theorem kept_modBoot {k : Keel} {g : Boot → Boot} (h : (g k.boot).fails = k.boot.fails) : Kept k (modBoot k g) := .of rfl rfl rfl h
theorem kept_ibi (k : Keel) (b : Byte) : Kept k (ibi k b) := .ite (kept_sendOut _ _) (.refl _)
theorem kept_mboxSend (k : Keel) (o : KeelOut) : Kept k (mboxSend k o) := .ite (.of rfl rfl rfl rfl) (.of rfl rfl rfl rfl)
theorem kept_sendAnswer (k : Keel) (i3c : Bool) (bs : List Byte) : Kept k (sendAnswer k i3c bs) :=
  .ite (kept_sendOut _ _) (kept_mboxSend _ _)

/-! ### Starts and stops -/

theorem kept_unready (k : Keel) : Kept k (unready k) := kept_modBoot rfl
theorem kept_domainsOff (k : Keel) : Kept k (domainsOff k) := (kept_modPower _ _).trans (kept_unready _)
theorem kept_railsOff (k : Keel) : Kept k (railsOff k) := .of rfl rfl rfl rfl
theorem kept_moor (k : Keel) : Kept k (moor k) := ((kept_modBoot rfl).trans (kept_modPower _ _)).trans (kept_ibi _ _)

theorem kept_tellReady (k0 k : Keel) (f : Fab) {r : Keel × Fab} (h : Kept k0 r.1) : Kept k0 (tellReady k f r).1 :=
  .ite₂ h (h.trans (kept_ibi _ _))

theorem kept_closeStart (k : Keel) (c i d : Nat) : Kept k (closeStart k c i d) := by
  refine ⟨rfl, rfl, rfl, fun h => ?_⟩
  show (if c = 0x04 ∨ c = 0x24 then k.boot.fails else min 3 (k.boot.fails + 1)) ≤ 3
  split <;> omega

theorem kept_failStart (k : Keel) (f : Fab) (c i d : Nat) : Kept k (failStart k f c i d).1 := by
  have h := ((kept_closeStart k c i d).trans (kept_domainsOff _)).trans (kept_railsOff _)
  exact kept_tellReady _ _ _ (.ite (h.trans (kept_moor _)) h)

theorem kept_latchStop (k : Keel) (cs : List Nat) : Kept k (latchStop k cs) := .of rfl rfl rfl rfl
theorem kept_dropSessions (k : Keel) : Kept k (dropSessions k) := kept_modSec rfl

theorem kept_beginStop (k : Keel) (f : Fab) (cs : List Nat) : Kept k (beginStop k f cs).1 := by
  have h := (kept_latchStop k cs).trans (kept_ibi _ 0x03)
  have h2 : Kept k (if k.start.running
      then closeStart (ibi (latchStop k cs) 0x03) 0x24 0xFF (ibi (latchStop k cs) 0x03).power.stopCause
      else modStart (ibi (latchStop k cs) 0x03) fun s => { s with retryAt := none }) :=
    .ite (h.trans (kept_closeStart _ _ _ _)) (h.trans (kept_modStart _ _))
  exact kept_tellReady _ _ _ (((h2.trans (kept_dropSessions _)).trans (kept_unready _)).trans (.of rfl rfl rfl rfl))

theorem kept_finishStop (k : Keel) (f : Fab) : Kept k (finishStop k f).1 :=
  kept_tellReady _ _ _ (((kept_modPower _ _).trans (kept_domainsOff _)).trans (kept_railsOff _))

theorem kept_failPart (k : Keel) (p c d : Nat) : Kept k (failPart k p c d) :=
  .ite (.refl _) ((kept_modBoot rfl).trans (kept_ibi _ _))

theorem kept_checkDone (k : Keel) (f : Fab) : Kept k (checkDone k f) := by
  refine .ite ?_ (.refl _)
  refine Kept.trans ?_ ((kept_modPower _ _).trans (kept_ibi _ _))
  exact ⟨rfl, rfl, rfl, fun _ => Nat.zero_le _⟩

/-! ### Identity and debug (19) -/

theorem kept_modBank (k : Keel) (p : Nat) (g : AttBank → AttBank) : Kept k (modBank k p g) := kept_modSec rfl

theorem kept_writeAttCtrl (k : Keel) (m : Mark) (v : Nat) : Kept k (writeAttCtrl k m v) := by
  unfold writeAttCtrl
  split
  · exact .refl _
  · next p _ =>
    have h : Kept k (if bitAt v 29 = true then modBank k p fun b => { b with err := false } else k) := .ite (kept_modBank _ _ _) (.refl _)
    exact .ite h (.ite (h.trans (kept_modBank _ _ _)) (.ite (h.trans (kept_modBank _ _ _)) (h.trans (kept_modBank _ _ _))))

theorem kept_writeAttNonce (k : Keel) (m : Mark) (i v : Nat) : Kept k (writeAttNonce k m i v) := by
  unfold writeAttNonce; split
  · exact .refl _
  · exact kept_modBank _ _ _

theorem kept_runReportDone (k : Keel) (p : Nat) : Kept k (runReportDone k p) := .ite (kept_modBank _ _ _) (.refl _)
theorem kept_newNonce (k : Keel) (f : Fab) : Kept k (newNonce k f).1 := .of rfl rfl rfl rfl
theorem kept_dropQuiesced (k : Keel) : Kept k (dropQuiesced k) := kept_modSec rfl
theorem kept_closePart (k : Keel) (f : Fab) (p : Nat) : Kept k (closePart k f p).1 := (kept_modSec rfl).trans (kept_dropQuiesced _)
theorem kept_closeDev (k : Keel) (f : Fab) : Kept k (closeDev k f).1 := (kept_modSec rfl).trans (kept_dropQuiesced _)
theorem kept_beginOpen (k : Keel) : Kept k (beginOpen k) := .of rfl rfl rfl rfl
theorem kept_endOpen (k : Keel) (c : Nat) : Kept k (endOpen k c) := kept_modSec rfl
theorem kept_setResult (k : Keel) (c : Nat) : Kept k (setResult k c) := kept_modSec rfl
theorem kept_finishDevice (k : Keel) (f : Fab) : Kept k (finishDevice k f).1 := (kept_modSec rfl).trans (kept_endOpen _ _)

theorem kept_runOpenChecks (k : Keel) (f : Fab) : Kept k (runOpenChecks k f).1 := by
  unfold runOpenChecks
  split
  · exact .refl _
  · exact .ite₂ (.refl _) (.ite₂ (kept_endOpen _ _) (.ite₂ ((kept_modSec rfl).trans (kept_endOpen _ _)) (.of rfl rfl rfl rfl)))

theorem kept_runDeviceScrub (k : Keel) (f : Fab) : Kept k (runDeviceScrub k f).1 := by
  unfold runDeviceScrub
  refine .ite₂ (.refl _) ?_
  dsimp only
  refine .ite₂ (kept_finishDevice _ _) ?_
  exact (Kept.foldl (fun k p => kept_mboxSend k (zeroMsg k p)) _ k).trans (.of rfl rfl rfl rfl)

theorem kept_runZeroAck (k : Keel) (f : Fab) (p : Nat) : Kept k (runZeroAck k f p).1 := by
  unfold runZeroAck
  have h : Kept k (modSec k fun s => { s with zeroWait := bset s.zeroWait p false }) := kept_modSec rfl
  exact .ite₂ (.refl _) (.ite₂ (h.trans (kept_finishDevice _ _)) h)

theorem kept_runZeroTimeout (k : Keel) (f : Fab) : Kept k (runZeroTimeout k f).1 := .ite₂ (.refl _) (kept_endOpen _ _)

theorem kept_quiescePart (k : Keel) (m : Mark) (p : Nat) : Kept k (quiescePart k m p) :=
  .ite (kept_setResult _ _) (.ite ((kept_modSec rfl).trans (kept_setResult _ _)) ((kept_modSec rfl).trans (kept_setResult _ _)))

theorem kept_resumePart (k : Keel) (f : Fab) (m : Mark) (p : Nat) : Kept k (resumePart k f m p).1 :=
  .ite₂ (kept_setResult _ _) (.of rfl rfl rfl rfl)

theorem kept_runQuiesced (k : Keel) (f : Fab) (p : Nat) : Kept k (runQuiesced k f p) := .ite (kept_modSec rfl) (.refl _)

theorem kept_writeDbgCtrl (k : Keel) (f : Fab) (m : Mark) (v : Nat) : Kept k (writeDbgCtrl k f m v).1 := by
  unfold writeDbgCtrl
  refine .ite₂ (.of rfl rfl rfl rfl) ?_
  have h : Kept k (modSec k fun s => { s with part := fld v 8 4, err := s.err && !bitAt v 30 }) := kept_modSec rfl
  refine h.trans ?_
  dsimp only
  split
  · exact (kept_newNonce _ _).trans (kept_setResult _ _)
  · exact kept_beginOpen _
  · exact .ite₂ ((kept_closePart _ _ _).trans (kept_setResult _ _)) (kept_setResult _ _)
  · exact .ite₂ ((kept_closeDev _ _).trans (kept_setResult _ _)) (kept_setResult _ _)
  · exact kept_quiescePart _ _ _
  · exact kept_resumePart _ _ _ _
  · exact .refl _

/-! ### The power manager (17) -/

theorem kept_modRail (k : Keel) (s : Nat) (g : Rail → Rail) : Kept k (modRail k s g) := kept_modPower _ _
theorem kept_modLevel (k : Keel) (d : Nat) (g : Level → Level) : Kept k (modLevel k d g) := kept_modPower _ _
theorem kept_raiseEvent (k : Keel) (i : Nat) : Kept k (raiseEvent k i) := kept_modPower _ _
theorem kept_noteVMin (k : Keel) : Kept k (noteVMin k) := .of rfl rfl rfl rfl
theorem kept_dueStep (k : Keel) (s : Nat) (up : Bool) : Kept k (dueStep k s up) := kept_modRail _ _ _
theorem kept_setCtrlErr (k : Keel) : Kept k (setCtrlErr k) := kept_modPower _ _
theorem kept_measure (k : Keel) : Kept k (measure k) := .of rfl rfl rfl rfl

theorem kept_readRails (k : Keel) (r : RailSample) : Kept k (readRails k r) :=
  Kept.foldl (fun k s => .ite ((kept_modRail k s _).trans (kept_raiseEvent _ _)) (kept_modRail k s _)) _ _

theorem kept_diverge (k : Keel) : Kept k (diverge k) := by
  unfold diverge
  extract_lets rails meas est gap n k1 k2 a
  have h1 : Kept k k1 := kept_modPower _ _
  have h2 : Kept k k2 := .ite ((h1.trans (kept_modPower _ _)).trans (kept_raiseEvent _ _)) h1
  exact .ite (.refl _) (.ite h2 (h2.trans (kept_modPower _ _)))

theorem kept_decideRails (k : Keel) (f : Fab) : Kept k (decideRails k f) := by
  unfold decideRails
  refine .ite (.refl _) (Kept.foldl (fun k s => ?_) _ _)
  exact .ite (.ite (kept_dueStep _ _ _) (.refl _)) (.ite (.refl _) (.ite (kept_dueStep _ _ _) (.refl _)))

theorem kept_runAvsbus (k : Keel) (f : Fab) (r : RailSample) : Kept k (runAvsbus k f r).1 := by
  unfold runAvsbus
  have h := (((kept_readRails k r).trans (kept_measure _)).trans (kept_diverge _)).trans (kept_decideRails _ f)
  exact .ite₂ (.refl _) (.ite₂ (h.trans (kept_beginStop _ _ _)) h)

theorem kept_runPmbus (k : Keel) (r : PmbusSample) : Kept k (runPmbus k r) := .of rfl rfl rfl rfl

theorem kept_runVoltage (k : Keel) (s : Nat) (up : Bool) : Kept k (runVoltage k s up) := by
  unfold runVoltage
  refine .ite (.refl _) ?_
  refine Kept.trans ?_ (kept_noteVMin _)
  have h : ∀ mv (g : Rail → Rail), Kept k (modRail (sendOut k [.setVoltage s mv]) s g) :=
    fun mv g => (kept_sendOut _ _).trans (kept_modRail _ _ _)
  exact .ite (h _ _) ((h _ _).trans (kept_raiseEvent _ _))

theorem kept_moveRails (k : Keel) : Kept k (moveRails k) := Kept.foldl (fun k s => kept_modRail k s _) _ _

theorem kept_lowerPower (k : Keel) (ds : List Nat) (n : Nat) : Kept k (lowerPower k ds n) :=
  Kept.foldl (fun _ _ => .ite (.refl _) ((kept_modLevel _ _ _).trans (kept_raiseEvent _ _))) _ _

theorem kept_raisePower (k : Keel) : Kept k (raisePower k) := Kept.foldl (fun k d => kept_modLevel k d _) _ _

theorem kept_runEstimator (k : Keel) (f : Fab) : Kept k (runEstimator k f) := by
  unfold runEstimator
  refine .ite (.refl _) ?_
  extract_lets now est worth k1 c
  have h1 : Kept k k1 := kept_modPower _ _
  exact .ite (h1.trans (kept_lowerPower _ _ _)) (.ite ((h1.trans (kept_modPower _ _)).trans (kept_raisePower _)) h1)

theorem kept_runLimitTimeout (k : Keel) (f : Fab) : Kept k (runLimitTimeout k f).1 := by
  unfold runLimitTimeout; split
  · exact .ite₂ (kept_beginStop _ _ _) (.refl _)
  · exact .refl _

theorem kept_runSlope (k : Keel) (d : Nat) : Kept k (runSlope k d) :=
  .ite (.refl _) (.ite (kept_modLevel _ _ _) (.ite (kept_modLevel _ _ _) (.refl _)))

theorem kept_runDroop (k : Keel) (f : Fab) (d : Nat) : Kept k (runDroop k f d).1 := by
  unfold runDroop
  refine .ite₂ (.refl _) ?_
  have h : Kept k (raiseEvent (modLevel k d fun l => { l with droops := sat 255 (l.droops + 1) }) 6) :=
    (kept_modLevel _ _ _).trans (kept_raiseEvent _ _)
  exact .ite₂ h (.ite₂ (h.trans (kept_modLevel _ _ _)) (h.trans (kept_modLevel _ _ _)))

theorem kept_runCutEnd (k : Keel) (d : Nat) : Kept k (runCutEnd k d) := .ite (kept_modLevel _ _ _) (.refl _)

theorem kept_heatDram (t : TempSample) (k : Keel) (j : Nat) : Kept k (heatDram t k j) := by
  unfold heatDram
  have h : ∀ (c : Bool) (k1 : Keel), Kept k k1 → Kept k (if c then raiseEvent k1 5 else k1) :=
    fun c k1 h => .ite (h.trans (kept_raiseEvent _ _)) h
  exact .ite ((h _ _ (kept_modPower _ _)).trans (kept_raiseEvent _ _)) (h _ _ (kept_modPower _ _))

theorem kept_heatSail (t : TempSample) (k : Keel) (s : Nat) : Kept k (heatSail t k s) :=
  .ite ((kept_modPower _ _).trans (kept_raiseEvent _ _)) (kept_modPower _ _)

theorem kept_heatDomain (f : Fab) (k : Keel) (d : Nat) : Kept k (heatDomain f k d) := kept_modLevel _ _ _

theorem kept_runTemperature (k : Keel) (f : Fab) (t : TempSample) : Kept k (runTemperature k f t).1 := by
  unfold runTemperature
  extract_lets k1 down k2 k3 causes
  have h1 : Kept k k1 := (Kept.foldl (kept_heatSail t) _ k).trans (Kept.foldl (kept_heatDram t) _ _)
  have h3 : Kept k k3 := (h1.trans (Kept.foldl (kept_heatDomain f) _ _)).trans (Kept.foldl (fun k s => kept_dueStep k s false) _ _)
  exact .ite₂ (.refl _) (.ite₂ h3 (h3.trans (kept_beginStop _ _ _)))

theorem kept_runOvertemp (k : Keel) (f : Fab) (j : Nat) : Kept k (runOvertemp k f j).1 := .ite₂ (kept_beginStop _ _ _) (.refl _)

theorem kept_undoReset (k : Keel) (r : ResetFall) : Kept k (undoReset k r) :=
  .ite ⟨rfl, rfl, rfl, fun h => Nat.le_trans (Nat.sub_le _ _) h⟩ (.refl _)

theorem kept_runCoolantFall (k : Keel) (f : Fab) : Kept k (runCoolantFall k f).1 := by
  unfold runCoolantFall
  refine .ite₂ (.refl _) ?_
  extract_lets k1
  have h : Kept k k1 := .of rfl rfl rfl rfl
  split
  · exact h.trans ((kept_undoReset _ _).trans (kept_beginStop _ _ _))
  · exact .ite₂ h (h.trans (kept_beginStop _ _ _))

theorem kept_requestRails (k : Keel) : Kept k (requestRails k) := by
  refine Kept.foldl (fun k r => ?_) _ _
  have h : Kept k (modStart (sendOut { k with railReq := bset k.railReq r true } [.railOn r]) fun s => { s with asked := tput s.asked r k.time }) :=
    .of rfl rfl rfl rfl
  exact .ite ((h.trans (kept_modRail _ _ _)).trans (kept_noteVMin _)) h

theorem kept_tendRails (k : Keel) : Kept k (tendRails k) := .ite (kept_requestRails _) (.refl _)

theorem kept_runPgRise (k : Keel) (r : Nat) : Kept k (runPgRise k r) := by
  have h : Kept k { k with pg := bset k.pg r true } := .of rfl rfl rfl rfl
  exact .ite (h.trans (kept_tendRails _)) (.refl _)

theorem kept_runPgFall (k : Keel) (f : Fab) (r : Nat) : Kept k (runPgFall k f r).1 := by
  unfold runPgFall
  refine .ite₂ (.refl _) ?_
  have h : Kept k { k with pg := bset k.pg r false } := .of rfl rfl rfl rfl
  exact .ite₂ (h.trans (kept_beginStop _ _ _)) h

theorem kept_runPgTimeout (k : Keel) (f : Fab) (r : Nat) : Kept k (runPgTimeout k f r).1 := .ite₂ (kept_failStart _ _ _ _ _) (.refl _)

theorem kept_writePwrCtrl (k : Keel) (f : Fab) (m : Mark) (v : Nat) : Kept k (writePwrCtrl k f m v) := by
  unfold writePwrCtrl
  refine .ite (.refl _) ?_
  have h : Kept k (if bitAt v 31 = true then modPower k fun p => { p with ctrlErr := false } else k) := .ite (kept_modPower _ _) (.refl _)
  refine h.trans ?_
  exact .ite (.refl _) (.ite (kept_setCtrlErr _) (.ite (.ite ((kept_dropSessions _).trans (kept_modPower _ _)) (kept_setCtrlErr _))
    (.ite ((kept_modPower _ _).trans (kept_moveRails _)) (.refl _))))

theorem kept_writePwr (k : Keel) (f : Fab) (m : Mark) (a v : Nat) : Kept k (writePwr k f m a v) :=
  .ite (.refl _) (.ite (kept_modPower _ _) (.ite (kept_modPower _ _) (.ite (.ite (kept_modPower _ _) (.refl _))
    (.ite (kept_writePwrCtrl _ _ _ _) (.refl _)))))

theorem kept_runRetained (k : Keel) (f : Fab) : Kept k (runRetained k f).1 := by
  unfold runRetained
  refine .ite₂ (.refl _) (.ite₂ (.refl _) (kept_tellReady _ _ _ ?_))
  exact (((kept_modPower _ _).trans (kept_modBoot rfl)).trans (kept_moveRails _)).trans (kept_noteVMin _)

theorem kept_runUnretained (k : Keel) (f : Fab) : Kept k (runUnretained k f).1 := by
  unfold runUnretained
  refine .ite₂ (.refl _) ?_
  exact (((kept_modPower _ _).trans (kept_modBoot rfl)).trans (kept_noteVMin _)).trans (kept_ibi _ _)

end Sys2Proof.Machine
end

