-- ==== Sys2Proof/Laws/Fuses.lean ====
section
/-!
SUPPORT. Laws/Fuses.lean: the operations of the start, of the registers, of the tether link and of the mailbox keep a sound keel sound,
and undo nothing that the fuses hold. One lemma per shared operation.
-/
namespace Sys2Proof.Machine

theorem Fuses.grows_trans {a b c : Fuses} (h : a.grows b) (h' : b.grows c) : a.grows c :=
  ⟨h'.1.trans h.1, h'.2.1.trans h.2.1, h.2.2.1.trans h'.2.2.1, h.2.2.2.1.trans h'.2.2.2.1, h.2.2.2.2.1.trans h'.2.2.2.2.1,
    fun x => h'.2.2.2.2.2.1 (h.2.2.2.2.2.1 x), fun x => h'.2.2.2.2.2.2 (h.2.2.2.2.2.2 x)⟩

/-- A sound keel stays sound, and its fuses only grow. -/
structure Fine (k k' : Keel) : Prop where
  sound : k.sound → k'.sound
  grows : k.sound → k.fuse.grows k'.fuse

theorem Kept.fine {k k' : Keel} (h : Kept k k') : Fine k k' := ⟨h.sound, fun _ => h.grows⟩
theorem Fine.refl (k : Keel) : Fine k k := (Kept.refl k).fine
theorem Fine.trans {a b c : Keel} (h : Fine a b) (h' : Fine b c) : Fine a c :=
  ⟨fun x => h'.sound (h.sound x), fun x => Fuses.grows_trans (h.grows x) (h'.grows (h.sound x))⟩

theorem Fine.ite {c : Prop} [Decidable c] {k a b : Keel} (ha : Fine k a) (hb : Fine k b) : Fine k (if c then a else b) := by
  split <;> assumption

theorem Fine.ite₂ {c : Prop} [Decidable c] {k : Keel} {a b : Keel × Fab} (ha : Fine k a.1) (hb : Fine k b.1) :
    Fine k (if c then a else b).1 := by split <;> assumption

theorem Fine.foldl₂ {α : Type} {g : Keel × Fab → α → Keel × Fab} (hg : ∀ st x, Fine st.1 (g st x).1) :
    ∀ (xs : List α) (st : Keel × Fab), Fine st.1 (xs.foldl g st).1
  | [], st => .refl st.1
  | x :: xs, st => (hg st x).trans (Fine.foldl₂ hg xs (g st x))

/-! ### The start (18 R501) -/

/-- A pending operation takes effect: what it needs still holds, so the fuses stay legal and only grow (19 R506, R507). -/
theorem fine_applyPending (k : Keel) : Fine k (applyPending k) := by
  refine ⟨fun ⟨h1, h2, h3, h4⟩ => ?_, fun ⟨h1, h2, h3, h4⟩ => ?_⟩
  · refine ⟨?_, fun p hp => ?_, h3, h4⟩
    · unfold applyPending
      cases hp : k.sec.pend with
      | none => exact h1
      | some p =>
        cases p with
        | takeOwnership o =>
          have := h2 _ hp
          exact ⟨(by decide : (2 : Nat) ≤ 3), by simpa using this.2, h1.2.2.1, fun _ => by simp⟩
        | releaseOwnership => exact ⟨(by decide : (1 : Nat) ≤ 3), h1.2.1, h1.2.2.1, fun h => absurd (show (1 : Nat) = 2 from h) (by simp)⟩
        | retire => exact ⟨(by decide : (3 : Nat) ≤ 3), h1.2.1, h1.2.2.1, fun h => absurd (show (3 : Nat) = 2 from h) (by simp)⟩
    · simp [applyPending] at hp
  · show k.fuse.grows (applyPending k).fuse
    unfold applyPending
    cases hp : k.sec.pend with
    | none => exact Fuses.grows_refl _
    | some p =>
      cases p with
      | takeOwnership o =>
        have := (h2 _ hp).1
        exact ⟨rfl, rfl, List.prefix_append _ _, Nat.le_refl _, Nat.le_refl _, fun h => by omega, fun h => by omega⟩
      | releaseOwnership =>
        have : k.fuse.lifecycle = 2 := h2 _ hp
        exact ⟨rfl, rfl, List.prefix_refl _, Nat.le_refl _, Nat.le_refl _, fun h => by omega, fun h => by omega⟩
      | retire =>
        have : k.fuse.lifecycle = 1 ∨ k.fuse.lifecycle = 2 := h2 _ hp
        exact ⟨rfl, rfl, List.prefix_refl _, Nat.le_refl _, Nat.le_refl _, fun h => by omega, fun _ => rfl⟩

theorem kept_clearForStart (k : Keel) : Kept k (clearForStart k) := .of rfl rfl rfl rfl

theorem fine_beginStart (k : Keel) (f : Fab) : Fine k (beginStart k f).1 := by
  unfold beginStart
  have h := (fine_applyPending k).trans (kept_clearForStart _).fine
  refine .ite₂ ?_ (.ite₂ (h.trans (kept_failStart _ _ _ _ _).fine) (h.trans (kept_sendOut _ _).fine))
  have h2 : Kept (clearForStart (applyPending k)) (moor { clearForStart (applyPending k) with start := Start.none }) :=
    Kept.trans (b := { clearForStart (applyPending k) with start := Start.none }) (.of rfl rfl rfl rfl) (kept_moor _)
  exact h.trans h2.fine

theorem kept_bindSlot (k : Keel) (f : Fab) (slot : Nat) : Kept k (bindSlot k f slot).1 := by
  unfold bindSlot
  extract_lets img nonce k1 k2 k3
  exact Kept.trans (b := k3) (.of rfl rfl rfl rfl) ((kept_sendOut _ _).trans (kept_ibi _ _))

theorem kept_runImageRead (k : Keel) (f : Fab) (slot : Nat) : Kept k (runImageRead k f slot).1 := by
  unfold runImageRead
  refine .ite₂ (.refl _) (.ite₂ (kept_failStart _ _ _ _ _) ?_)
  split
  · exact kept_failStart _ _ _ _ _
  · refine .ite₂ (.refl _) ?_
    split
    · exact kept_bindSlot _ _ _
    · extract_lets k1
      have h : Kept k k1 := kept_modBoot rfl
      split
      · exact h.trans (kept_failStart _ _ _ _ _)
      · exact (h.trans (kept_modStart _ _)).trans (kept_sendOut _ _)

theorem kept_runProbeAnswer (k : Keel) (r s : List Byte) : Kept k (runProbeAnswer k r s) := by
  unfold runProbeAnswer
  refine .ite (.refl _) ?_
  extract_lets k1
  have h : Kept k k1 := .of rfl rfl rfl rfl
  exact (h.trans (kept_modStart _ _)).trans (kept_tendRails _)

theorem kept_runProbeTimeout (k : Keel) : Kept k (runProbeTimeout k) := by
  unfold runProbeTimeout
  refine .ite (.refl _) ?_
  extract_lets k1
  have h : Kept k k1 := .of rfl rfl rfl rfl
  exact (h.trans (Kept.foldl (fun k p => kept_failPart k p _ _) _ _)).trans (kept_tendRails _)

theorem kept_runLinkTrained (k : Keel) (f : Fab) (up rep : BitVec 8) : Kept k (runLinkTrained k f up rep).1 := by
  unfold runLinkTrained
  refine .ite₂ (.refl _) (.ite₂ (kept_failStart _ _ _ _ _) (.ite₂ (kept_failStart _ _ _ _ _) (.ite₂ (.refl _) ?_)))
  exact ((kept_modStart _ _).trans (kept_ibi _ _)).trans (kept_checkDone _ _)

theorem kept_runDomainOn (k : Keel) (f : Fab) (d : Nat) : Kept k (runDomainOn k f d).1 := by
  unfold runDomainOn
  refine .ite₂ (.refl _) ?_
  refine Kept.trans ?_ (kept_checkDone _ _)
  refine (kept_modPower k fun p => { p with on := bset p.on d true }).trans ?_
  exact .ite₂ (.refl _) (.ite₂ ((kept_modBoot rfl).trans (kept_ibi _ _)) (.ite₂ ((kept_modBoot rfl).trans (kept_ibi _ _))
    ((kept_modPower _ _).trans ((kept_modBoot rfl).trans (kept_ibi _ _)))))

theorem kept_runBridges (k : Keel) (f : Fab) (b : BitVec 4) : Kept k (runBridges k f b).1 := by
  unfold runBridges
  refine .ite₂ (.refl _) ?_
  split
  · exact kept_failStart _ _ _ _ _
  · exact (kept_modStart _ _).trans (kept_checkDone _ _)

theorem kept_runLpddrProbe (k : Keel) (f : Fab) (as : List ChannelAnswer) : Kept k (runLpddrProbe k f as).1 := by
  unfold runLpddrProbe
  extract_lets as' chan k1 f1 miss k2
  have h1 : Kept k k1 := .of rfl rfl rfl rfl
  refine .ite₂ (.refl _) ?_
  split
  · exact h1.trans (kept_failStart _ _ _ _ _)
  · exact h1.trans (kept_failStart _ _ _ _ _)
  · have h2 : Kept k k2 := h1.trans (Kept.foldl (fun k p => by
      show Kept k (match miss p with | c :: _ => failPart k p 0x82 c | [] => k)
      split
      · exact kept_failPart _ _ _ _
      · exact .refl _) _ _)
    exact h2.trans (kept_checkDone _ _)

theorem kept_runLpddrTrained (k : Keel) (f : Fab) (ch : Nat) (ok : Bool) : Kept k (runLpddrTrained k f ch ok).1 := by
  unfold runLpddrTrained
  refine .ite₂ (.refl _) ?_
  extract_lets rate f1 k1
  have h : Kept k k1 := .ite (.refl _) (Kept.foldl (fun k p => kept_failPart k p _ _) _ _)
  exact h.trans (kept_checkDone _ _)

theorem kept_runScrubbed (k : Keel) (f : Fab) (p : Nat) : Kept k (runScrubbed k f p).1 := by
  unfold runScrubbed
  split
  · exact .refl _
  · exact .ite₂ (.refl _) (((kept_modBoot rfl).trans (kept_ibi _ _)).trans (kept_checkDone _ _))

theorem kept_runStartTimeout (k : Keel) (f : Fab) : Kept k (runStartTimeout k f).1 := .ite₂ (kept_failStart _ _ _ _ _) (.refl _)

theorem fine_runRetry (k : Keel) (f : Fab) : Fine k (runRetry k f).1 := .ite₂ (fine_beginStart _ _) (.refl _)

theorem fine_runResetRise (k : Keel) (f : Fab) : Fine k (runResetRise k f).1 := by
  unfold runResetRise
  refine .ite₂ (.refl _) ?_
  have h : Fine k (if k.power.stopping = true then finishStop k f else (k, f)).1 := .ite₂ (kept_finishStop _ _).fine (.refl _)
  have h1 : Kept (if k.power.stopping = true then finishStop k f else (k, f)).1
      (sendOut { (if k.power.stopping = true then finishStop k f else (k, f)).1 with resetN := true, resetFall := none } [.nvmRst true]) :=
    .of rfl rfl rfl rfl
  have h2 := h.trans h1.fine
  exact .ite₂ (h2.trans (kept_moor _).fine) (h2.trans (fine_beginStart _ _))

theorem kept_runResetFall (k : Keel) (f : Fab) : Kept k (runResetFall k f).1 := by
  unfold runResetFall
  refine .ite₂ (.refl _) ?_
  extract_lets step was fall k1 k2 k3 k4 k5
  have h2 : Kept k k2 := .of rfl rfl rfl rfl
  have h3 : Kept k k3 := .ite (h2.trans (kept_closeStart _ _ _ _)) h2
  have h4 : Kept k k4 := Kept.trans (.ite (h3.trans (kept_moor _)) h3) (kept_unready _)
  exact .ite₂ h2 (.ite₂ (kept_tellReady _ _ _ (h4.trans (kept_railsOff _))) (kept_tellReady _ _ _ (h4.trans (.of rfl rfl rfl rfl))))

/-! ### Registers (15 R426, R438) -/

theorem kept_retrainAtt (k : Keel) (f : Fab) (att : Nat) : Kept k (retrainAtt k f att).1 :=
  .ite₂ (.ite (kept_ibi _ _) (.refl _)) (.refl _)

theorem kept_writeTlCtrl (k : Keel) (f : Fab) (m : Mark) (v : Nat) : Kept k (writeTlCtrl k f m v).1 :=
  .ite₂ (.refl _) (.ite₂ (kept_retrainAtt _ _ _) (.refl _))

theorem kept_writeKeel32 (k : Keel) (f : Fab) (m : Mark) (a v : Nat) : Kept k (writeKeel32 k f m a v).1 :=
  .ite₂ (kept_writeTlCtrl _ _ _ _) (.ite₂ (kept_writePwr _ _ _ _ _) (.ite₂ (.of rfl rfl rfl rfl) (.ite₂ (kept_writeDbgCtrl _ _ _ _)
    (.ite₂ (kept_writeAttCtrl _ _ _) (.refl _)))))

theorem kept_writeKeel64 (k : Keel) (m : Mark) (a : Nat) (lo hi : Option Nat) : Kept k (writeKeel64 k m a lo hi) := by
  unfold writeKeel64
  refine .ite (.of rfl rfl rfl rfl) (.ite ?_ (.refl _))
  split
  · exact .refl _
  · exact kept_writeAttNonce _ _ _ _

theorem kept_write32 (k : Keel) (f : Fab) (m : Mark) (a v : Nat) : Kept k (write32 k f m a v).1 := by
  unfold write32
  split
  · exact kept_writeKeel32 _ _ _ _ _
  all_goals exact .refl _

theorem kept_write64 (k : Keel) (f : Fab) (m : Mark) (a : Nat) (lo hi : Option Nat) : Kept k (write64 k f m a lo hi).1 := by
  unfold write64
  split
  · exact kept_writeKeel64 _ _ _ _ _
  all_goals exact .refl _

theorem kept_writeWord (k : Keel) (f : Fab) (m : Mark) (a v : Nat) : Kept k (writeWord k f m a v).1 := by
  unfold writeWord
  split
  · exact kept_write64 _ _ _ _ _ _
  · exact kept_write32 _ _ _ _ _
  · refine .ite₂ ?_ (.refl _)
    split
    · exact kept_write64 _ _ _ _ _ _
    · exact .refl _

theorem kept_csWrite (k : Keel) (f : Fab) (m : Mark) (a size v : Nat) : Kept k (csWrite k f m a size v).1 := by
  unfold csWrite
  extract_lets x r
  show Kept k r.1
  refine .ite₂ ?_ (kept_writeWord _ _ _ _ _)
  split
  · exact kept_write64 _ _ _ _ _ _
  · exact (kept_writeWord _ _ _ _ _).trans (kept_writeWord _ _ _ _ _)

/-! ### The tether link -/

theorem kept_performCs (k : Keel) (f : Fab) (att : Nat) (fl : Flit) : Kept k (performCs k f att fl).1 := by
  unfold performCs
  extract_lets a size f1 v r
  have hr : Kept k r.1 := kept_csWrite k f1 (markOf fl) a size (fl.w2.toNat % 2 ^ (8 * size))
  clear_value f1 v r
  split_ifs
  · exact .refl _
  · exact .refl _
  · exact hr

theorem kept_tendCsOf (st : Keel × Fab) (att : Nat) : Kept st.1 (tendCsOf st att).1 := by
  unfold tendCsOf
  extract_lets f
  split
  · exact kept_performCs _ _ _ _
  · exact .refl _

theorem kept_tendCs (k : Keel) (f : Fab) : Kept k (tendCs k f).1 := by
  unfold tendCs
  exact Kept.foldl₂ (g := fun st (w : Nat × List Nat × Flit) => tendCsOf st w.1) (fun st w => kept_tendCsOf st w.1) _ (k, f)
theorem kept_runCs (k : Keel) (f : Fab) (att : Nat) (fl : Flit) : Kept k (runCs k f att fl).1 := kept_tendCs _ _

theorem kept_loseLink (k : Keel) (f : Fab) (c : Nat) : Kept k (loseLink k f c).1 := .ite (kept_ibi _ _) (.refl _)
theorem kept_runTimeout (k : Keel) (f : Fab) : Kept k (runTimeout k f).1 := .ite₂ (kept_loseLink _ _ _) (.refl _)

theorem kept_dropModules (k : Keel) (f : Fab) (mask : BitVec 8) : Kept k (dropModules k f mask).1 :=
  .ite₂ (kept_loseLink _ _ _) (.ite₂ (kept_loseLink _ _ _) (.refl _))

theorem kept_runModulesDown (k : Keel) (f : Fab) (mask : BitVec 8) : Kept k (runModulesDown k f mask).1 :=
  .ite₂ (kept_dropModules _ _ _) (.refl _)

theorem kept_runQuiesceDone (k : Keel) (f : Fab) : Kept k (runQuiesceDone k f).1 := .ite₂ (kept_sendOut _ _) (.refl _)

theorem kept_runRetryThreshold (k : Keel) (f : Fab) (m : Nat) : Kept k (runRetryThreshold k f m).1 := .ite₂ (kept_retrainAtt _ _ _) (.refl _)

theorem kept_runRetrainComplete (k : Keel) (f : Fab) (att : Nat) (a b : BitVec 8) : Kept k (runRetrainComplete k f att a b).1 := by
  unfold runRetrainComplete
  refine .ite₂ (.refl _) ?_
  extract_lets mine f1 f2 k1 r
  have h : Kept k k1 := .ite (kept_ibi _ _) (.refl _)
  have h2 : Kept k r.1 := h.trans (kept_dropModules _ _ _)
  exact .ite₂ h2 h2

/-- A row that takes a flit keeps what its meaning keeps. -/
theorem kept_flitRow {s : State} {ty att : Nat} {fl : Flit} {run : Keel → Fab → Keel × Fab} {t : State}
    (hr : ∀ k f, Kept k (run k f).1) (h : flitRow s ty att fl run = .next t) : Kept s.keel t.keel := by
  unfold flitRow onBoth at h
  injection h with h
  subst h
  refine .ite₂ (.refl _) ?_
  have hc := kept_tendCs s.keel s.fab
  exact .ite₂ hc (.ite₂ hc (.ite₂ (hc.trans (hr _ _)) (.ite₂ hc (.ite₂ hc (hc.trans (hr _ _))))))

/-- A row whose flit acts on the fabric only keeps the keel, but for the control-space accesses that it lets go on. -/
theorem kept_flitFab {s : State} {ty att : Nat} {fl : Flit} {run : Keel → Fab → Fab} {t : State}
    (h : flitFab s ty att fl run = .next t) : Kept s.keel t.keel := by
  unfold flitFab at h
  exact kept_flitRow (fun k f => kept_tendCs k (settle k (run k f))) h

/-! ### The mailbox (18 R504, 19 R523) -/

theorem fine_done {k k' : Keel} (h : Fine k k') (f : Fab) (b : List Byte) : Fine k (done k' f b).k := h

/-- A signature-checking operation does nothing to the fuses that its acceptance does not. -/
theorem fine_signedOp {k : Keel} {f : Fab} {key : Option (List Byte)} {text sig : List Byte} {accept : Keel → Fab → Keel × Fab}
    (h : ∀ k' f', Kept k k' → Fine k' (accept k' f').1) : Fine k (signedOp k f key text sig accept).k := by
  unfold signedOp
  extract_lets ok k1 r
  have h1 : Kept k k1 := .of rfl rfl rfl rfl
  split
  · exact h1.fine.trans (h _ _ h1)
  · exact h1.fine

/-- An operation that is legal in the fuses as they are may be pending. -/
theorem fine_setPending (p : PendOp) (k : Keel) (f : Fab) (h : k.sound → p.legal k.fuse) : Fine k (setPending p k f).1 := by
  refine ⟨fun hs => ⟨hs.1, fun q hq => ?_, hs.2.2.1, hs.2.2.2⟩, fun _ => Fuses.grows_refl _⟩
  have : some p = some q := hq
  injection this with e
  subst e
  exact h hs

theorem fine_opTake (k : Keel) (f : Fab) : Fine k (opTake k f).k := by
  unfold opTake
  extract_lets st
  split
  · exact .refl _
  · next h =>
    refine fine_signedOp fun k' f' hk => fine_setPending _ _ _ fun _ => ?_
    rw [hk.fuse]
    exact ⟨by omega, by omega⟩

theorem fine_opRelease (k : Keel) (f : Fab) : Fine k (opRelease k f).k := by
  unfold opRelease
  split
  · exact .refl _
  · next h =>
    refine fine_signedOp fun k' f' hk => fine_setPending _ _ _ fun _ => ?_
    show k'.fuse.lifecycle = 2
    rw [hk.fuse]; omega

theorem fine_opRetire (k : Keel) (f : Fab) : Fine k (opRetire k f).k := by
  unfold opRetire
  split
  · exact .refl _
  · next h =>
    refine fine_signedOp fun k' f' hk => fine_setPending _ _ _ fun _ => ?_
    show k'.fuse.lifecycle = 1 ∨ k'.fuse.lifecycle = 2
    rw [hk.fuse]
    simp [keyed] at h
    omega

theorem fine_opCommit (k : Keel) (f : Fab) : Fine k (opCommit k f).k := by
  unfold opCommit
  split
  · exact ⟨fun hs => ⟨hs.1, fun p hp => by have := hs.2.1 p hp; cases p <;> exact this, hs.2.2.1, hs.2.2.2⟩,
      fun _ => ⟨rfl, rfl, List.prefix_refl _, Nat.le_refl _, Nat.le_max_left _ _, id, id⟩⟩
  · exact .refl _

/-- DBG_MIN rises to a value of six bits. -/
theorem fine_raiseMin (v : Nat) (k : Keel) (f : Fab) (hv : v ≤ 63) (hk : k.fuse.dbgMin ≤ v) : Fine k (raiseMin v k f).1 := by
  unfold raiseMin
  extract_lets fu k1 r
  have h1 : Fine k k1 := ⟨fun hs => ⟨⟨hs.1.1, hs.1.2.1, hv, hs.1.2.2.2⟩, fun p hp => by have := hs.2.1 p hp; cases p <;> exact this, hs.2.2.1, hs.2.2.2⟩,
    fun _ => ⟨rfl, rfl, List.prefix_refl _, hk, Nat.le_refl _, id, id⟩⟩
  have h2 : Fine k r.1 := h1.trans (Kept.foldl₂ (fun st p => kept_closePart st.1 st.2 p) _ (k1, f)).fine
  exact .ite₂ (h2.trans (kept_closeDev _ _).fine) h2

theorem fine_opRaise (msg : List Byte) (k : Keel) (f : Fab) : Fine k (opRaise msg k f).k := by
  unfold opRaise
  extract_lets v
  split
  · exact .refl _
  · split
    · exact .refl _
    · next h =>
      refine fine_signedOp fun k' f' hk => fine_raiseMin _ _ _ (by omega) ?_
      rw [hk.fuse]; omega

theorem fine_atOnce {k : Keel} {f : Fab} {msg : List Byte} {i3c : Bool} {run : Keel → Fab → Answered}
    (h : Fine k (run k f).k) : Fine k (atOnce k f msg i3c run).1 := by
  unfold atOnce
  exact .ite₂ (kept_sendAnswer _ _ _).fine (h.trans (kept_sendAnswer _ _ _).fine)

/-- An erase or a program keeps the keel sound if it keeps the form of the NVM. -/
theorem fine_nvmChange {k : Keel} {f : Fab} {msg : List Byte} {i3c ok : Bool} {len : Nat} {g : Nvm → Nvm}
    (h : k.nvm.wf = true → (g k.nvm).wf = true) : Fine k (nvmChange k f msg i3c ok len g).1 := by
  unfold nvmChange
  have hs : ∀ st, Fine k (sendAnswer k i3c (answerBytes msg st [])) := fun st => (kept_sendAnswer _ _ _).fine
  refine .ite₂ (hs _) (.ite₂ (hs _) (.ite₂ (hs _) ?_))
  exact ⟨fun x => ⟨x.1, x.2.1, h x.2.2.1, x.2.2.2⟩, fun _ => Fuses.grows_refl _⟩

theorem fine_opRestart (k : Keel) (f : Fab) (msg : List Byte) (i3c : Bool) : Fine k (opRestart k f msg i3c).1 := by
  unfold opRestart
  refine .ite₂ (kept_sendAnswer _ _ _).fine (.ite₂ (kept_sendAnswer _ _ _).fine ?_)
  extract_lets k1
  have h : Kept k k1 := (kept_sendAnswer k i3c (answerBytes msg 0 [])).trans ⟨rfl, rfl, rfl, fun _ => by show 2 ≤ 3; omega⟩
  exact .ite₂ (h.fine.trans (fine_beginStart _ _)) h.fine

theorem fine_opRead (msg : List Byte) (k : Keel) (f : Fab) : Fine k (opRead msg k f).k := by
  unfold opRead
  extract_lets len
  split_ifs <;> exact .refl _

theorem fine_opVerify (msg : List Byte) (k : Keel) (f : Fab) : Fine k (opVerify msg k f).k := by
  unfold opVerify
  extract_lets slot code
  split_ifs <;> exact .refl _

theorem fine_opStage (msg : List Byte) (k : Keel) (f : Fab) : Fine k (opStage msg k f).k := by
  unfold opStage
  extract_lets off data
  split_ifs
  · exact .refl _
  · exact Kept.fine (.of rfl rfl rfl rfl)

theorem fine_opCert (msg : List Byte) (k : Keel) (f : Fab) : Fine k (opCert msg k f).k := by
  unfold opCert
  extract_lets b
  split_ifs <;> exact .refl _

/-- Every request over the mailbox or over I3C. -/
theorem fine_request (k : Keel) (f : Fab) (msg : List Byte) (i3c : Bool) : Fine k (request k f msg i3c).1 := by
  unfold request
  split
  · exact fine_atOnce (.refl _)
  · exact fine_nvmChange (nvm_erase_wf _)
  · exact fine_nvmChange (nvm_program_wf _ _ _)
  · refine fine_atOnce ?_
    exact fine_opRead _ _ _
  · refine fine_atOnce ?_
    exact fine_opVerify _ _ _
  · exact fine_opRestart _ _ _ _
  · exact fine_atOnce (fine_opCommit _ _)
  · exact fine_atOnce (kept_newNonce _ _).fine
  · refine fine_atOnce ?_
    exact fine_opStage _ _ _
  · exact fine_atOnce (fine_opTake _ _)
  · exact fine_atOnce (fine_opRelease _ _)
  · exact fine_atOnce (fine_opRetire _ _)
  · exact fine_atOnce (fine_opRaise _ _ _)
  · refine fine_atOnce ?_
    exact fine_opCert _ _ _
  · exact fine_atOnce (.refl _)

theorem kept_runMboxAck (k : Keel) : Kept k (runMboxAck k) := by
  unfold runMboxAck
  refine .ite (.refl _) ?_
  split
  · exact .of rfl rfl rfl rfl
  · exact .of rfl rfl rfl rfl

theorem kept_runNvmDone (k : Keel) : Kept k (runNvmDone k) := by
  unfold runNvmDone
  split
  · exact .refl _
  · exact Kept.trans (b := { k with nvmReply := none }) (.of rfl rfl rfl rfl) (kept_sendAnswer _ _ _)

theorem fine_runPrivateWrite (k : Keel) (f : Fab) (bs : List Byte) : Fine k (runPrivateWrite k f bs).1 := by
  unfold runPrivateWrite
  exact .ite₂ (.refl _) (.ite₂ ((kept_modI3c _ _).trans (kept_sendOut _ _)).fine (.ite₂ (fine_request _ _ _ _) (.refl _)))

/-- A mailbox row. -/
theorem fine_mboxRow {s t : State} {op : Nat} {msg : List Byte} (h : mboxRow s op msg = .next t) : Fine s.keel t.keel := by
  unfold mboxRow onBoth at h
  injection h with h
  subst h
  exact .ite₂ (.refl _) ((kept_sendOut _ _).fine.trans (fine_request _ _ _ _))

theorem kept_runFrameEvent (k : Keel) (f : Fab) (m : Nat) : Kept k (runFrameEvent k f m).1 := by
  unfold runFrameEvent
  split
  · exact .ite₂ (.refl _) (.ite₂ (.of rfl rfl rfl rfl) (.ite₂ (.of rfl rfl rfl rfl) (.of rfl rfl rfl rfl)))
  · exact .refl _

theorem kept_runIdle (k : Keel) (f : Fab) : Kept k (runIdle k f).1 := by
  unfold runIdle
  refine .ite₂ ?_ (.refl _)
  exact Kept.trans (b := { k with time := k.time + 1 }) (.of rfl rfl rfl rfl) (kept_tendCs _ _)

/-- Power lost and power restored: the fuses and the NVM keep their values (20 R532). -/
theorem fine_powerUp {k k' : Keel} (h1 : k'.fuse = k.fuse) (h2 : k'.nvm = k.nvm) (h3 : k'.sec.pend = none) (h4 : k'.boot.fails = 0) : Fine k k' :=
  ⟨fun hs => ⟨by rw [h1]; exact hs.1, (by rw [h3]; intro p hp; cases hp), (by rw [h2]; exact hs.2.2.1), by omega⟩,
    fun _ => by rw [h1]; exact Fuses.grows_refl _⟩

end Sys2Proof.Machine
end

