-- ==== Sys2Proof/Laws/Ops.lean ====
section
/-!
SUPPORT. Laws/Ops.lean: what the shapes of rows do: every row answers a next state with the queue as it was, and a row of the fabric leaves
the keel alone, a row of the keel the fabric.
-/
namespace Sys2Proof.Machine

/-- A command that stops nothing and leaves the queue alone. -/
theorem onBoth_next {s t : State} {g : Keel → Fab → Keel × Fab} (h : onBoth s g = .next t) :
    t.pending = s.pending ∧ t.keel = (g s.keel s.fab).1 ∧ t.fab = (g s.keel s.fab).2 := by
  injection h with h; subst h; exact ⟨rfl, rfl, rfl⟩

theorem onFab_next {s t : State} {g : Keel → Fab → Fab} (h : onFab s g = .next t) :
    t.pending = s.pending ∧ t.keel = s.keel ∧ t.fab = g s.keel s.fab := by
  injection h with h; subst h; exact ⟨rfl, rfl, rfl⟩

theorem onKeel_next {s t : State} {g : Keel → Fab → Keel} (h : onKeel s g = .next t) :
    t.pending = s.pending ∧ t.fab = s.fab ∧ t.keel = g s.keel s.fab := by
  injection h with h; subst h; exact ⟨rfl, rfl, rfl⟩

theorem onFab_eq (s : State) (g : Keel → Fab → Fab) : onFab s g = .next { s with fab := g s.keel s.fab } := rfl
theorem onKeel_eq (s : State) (g : Keel → Fab → Keel) : onKeel s g = .next { s with keel := g s.keel s.fab } := rfl
theorem onBoth_eq (s : State) (g : Keel → Fab → Keel × Fab) :
    onBoth s g = .next { s with keel := (g s.keel s.fab).1, fab := (g s.keel s.fab).2 } := rfl

/-- A write of a register outside the keel over an open link. -/
theorem regRow_open {s : State} {m : Mark} {g : Keel → Fab → Fab} (h : csOpen s.keel s.fab m = true) :
    regRow s m g = .next { s with fab := g s.keel (noteMark s.keel s.fab m) } := by
  simp [regRow, onFab, h]

/-- With no link to carry it, a write of such a register does nothing. -/
theorem regRow_shut {s : State} {m : Mark} {g : Keel → Fab → Fab} (h : csOpen s.keel s.fab m = false) : regRow s m g = .next s := by
  simp [regRow, onFab, h]

/-- A write of a keel register over an open link or over I3C. -/
theorem regBoth_open {s : State} {m : Mark} {g : Keel → Fab → Keel × Fab}
    (h : (csOpen s.keel s.fab m || (s.keel.on && m.i3c)) = true) :
    regBoth s m g = .next { s with keel := (g s.keel (noteMark s.keel s.fab m)).1, fab := (g s.keel (noteMark s.keel s.fab m)).2 } := by
  simp [regBoth, onBoth, h]

/-- A row of the thread instruction set: nothing, a park, or the instruction's meaning on the group that issues. -/
theorem issue_eq (s : State) (g : GroupAt) (ok : XClass → Bool) (run : Keel → Fab → Iss → Fab) :
    issue s g ok run = .next { s with fab := match issueOf s.keel s.fab g ok with
      | .notDue => s.fab
      | .flawed die l => (parityOn s.fab die l .ok).1
      | .park st code => park s.keel s.fab (GroupAtGid g) st code 0 (lanes st.act)
      | .skip i => modGroup (noteIssue s.fab i.gid i.g.level) i.gid fun x => goOn x i.key i.p (i.p.pc + 8) false
      | .go i => run s.keel (noteIssue s.fab i.gid i.g.level) i } := rfl

/-- A group that may issue runs its instruction. -/
theorem issue_go {s : State} {g : GroupAt} {ok : XClass → Bool} {run : Keel → Fab → Iss → Fab} {i : Iss}
    (h : issueOf s.keel s.fab g ok = .go i) :
    issue s g ok run = .next { s with fab := run s.keel (noteIssue s.fab i.gid i.g.level) i } := by rw [issue_eq, h]

/-- A command of a queue that is started runs. -/
theorem command_go {s : State} {q j op : Nat} {run : Keel → Fab → Queue → QCmd → Fab} {x : Queue} {c : QCmd}
    (hq : findQueue s.fab q = some x) (hc : findCmd s.fab q j = some c)
    (h : (c.stage == .started && cmdOp c.bytes == op && working s.keel s.fab x.part x.ctx) = true) :
    command s q j op run = .next { s with fab := run s.keel s.fab x c } := by
  simp only [Bool.and_eq_true] at h
  simp only [command, onFab, hq, hc, h.1.1, h.1.2, h.2, Bool.true_or, Bool.and_self, if_true]

/-- The message just sent is under the next number, and every other is as before. -/
theorem send_net (f : Fab) (m : Msg) (j : Nat) : tfind (send f m).net j = if j = f.nextId then some m else tfind f.net j :=
  tfind_tput f.nextId j m f.net

theorem send_nextId (f : Fab) (m : Msg) : (send f m).nextId = f.nextId + 1 := rfl

end Sys2Proof.Machine
end

