-- ==== Sys2Proof/Laws/Groups.lean ====
section
/-!
SUPPORT. Laws/Groups.lean: what the operations over one group do: its registers read back as written, a destination is written lane by
lane, and the operations over its paths change its paths alone.
-/
namespace Sys2Proof.Machine

/-- Changing the entry at a key changes that entry alone. -/
theorem tfind_tmod {α : Type} (g : α → α) (k j : Nat) : ∀ t : Table α,
    tfind (tmod t k g) j = if j = k then (tfind t j).map g else tfind t j
  | [] => by simp [tmod, tfind]
  | e :: t => by
    have ih := tfind_tmod g k j t
    simp only [tmod, List.map_cons] at ih ⊢
    by_cases h : e.1 = k <;> by_cases h' : j = e.1 <;> simp_all [tfind]

theorem findGroup_modGroup (f : Fab) (gid o : Nat) (g : Group → Group) :
    findGroup (modGroup f gid g) o = if o = gid then (findGroup f o).map g else findGroup f o := tfind_tmod g gid o _

/-! ### Registers -/

theorem vget_vput (g : Group) (r r' l l' : Nat) (v : Word32) (h : l < 32) (h' : l' < 32) :
    vget (vput g r l v) r' l' = if r' = r ∧ l' = l then v else vget g r' l' := by
  simp only [vget, vput, cread_cwrite]
  have : (r' * 32 + l' = r * 32 + l) ↔ (r' = r ∧ l' = l) := by omega
  simp [this]

theorem uget_uput (g : Group) (r r' : Nat) (v : Word32) : uget (uput g r v) r' = if r' = r then v else uget g r' := by
  simp only [uget, uput, cread_cwrite]

theorem pword_pputWord (g : Group) (p p' : Nat) (v : Word32) : pword (pputWord g p v) p' = if p' = p then v else pword g p' := by
  simp only [pword, pputWord, cread_cwrite]

theorem laneBit_getLsbD (l m : Nat) (hl : l < 32) : (BitVec.ofNat 32 (2 ^ l)).getLsbD m = decide (m = l) := by
  have : BitVec.ofNat 32 (2 ^ l) = BitVec.twoPow 32 l := by
    apply BitVec.eq_of_toNat_eq; simp [BitVec.toNat_twoPow]
  rw [this, BitVec.getLsbD_twoPow]; by_cases h : m = l <;> simp [h, hl, eq_comm]
  intro h'; exact absurd h'.symm h

theorem pget_pput (g : Group) (p p' l l' : Nat) (b : Bool) (h : l < 32) (h' : l' < 32) :
    pget (pput g p l b) p' l' = if p' = p ∧ l' = l then b else pget g p' l' := by
  simp only [pget, pput, pword_pputWord]
  by_cases hp : p' = p
  · subst hp
    by_cases hl : l' = l
    · cases b
      · rw [if_pos rfl, if_neg (by simp), BitVec.getLsbD_and, BitVec.getLsbD_not, laneBit_getLsbD _ _ h]; simp [hl]
      · rw [if_pos rfl, if_pos rfl, BitVec.getLsbD_or, laneBit_getLsbD _ _ h]; simp [hl]
    · cases b
      · rw [if_pos rfl, if_neg (by simp), BitVec.getLsbD_and, BitVec.getLsbD_not, laneBit_getLsbD _ _ h]
        simp [hl, h']
      · rw [if_pos rfl, if_pos rfl, BitVec.getLsbD_or, laneBit_getLsbD _ _ h]; simp [hl]
  · simp [hp]

/-- Two groups with the same registers and paths hold the same but for them. -/
theorem SameButRegs.trans {a b c : Group} (h : SameButRegs a b) (h' : SameButRegs b c) : SameButRegs a c := by
  unfold SameButRegs at *; rw [h', h]

theorem mem_lanes (m : Word32) (l : Nat) : l ∈ lanes m ↔ l < 32 ∧ m.getLsbD l = true := by
  simp [lanes]

theorem lanes_nodup (m : Word32) : (lanes m).Nodup := List.Nodup.filter _ List.nodup_range

/-- Writing a list of lanes of a vector register. -/
theorem foldl_vput (dst : Nat) (val : Nat → Nat) : ∀ (ls : List Nat) (g : Group), (∀ l ∈ ls, l < 32) → ls.Nodup →
    SameButRegs g ((ls.map fun l => (l, val l)).foldl (fun g v => vput g dst v.1 (BitVec.ofNat 32 v.2)) g) ∧
    (∀ r l, l < 32 → vget ((ls.map fun l => (l, val l)).foldl (fun g v => vput g dst v.1 (BitVec.ofNat 32 v.2)) g) r l =
      if r = dst ∧ l ∈ ls then BitVec.ofNat 32 (val l) else vget g r l) ∧
    ((ls.map fun l => (l, val l)).foldl (fun g v => vput g dst v.1 (BitVec.ofNat 32 v.2)) g).ureg = g.ureg ∧
    ((ls.map fun l => (l, val l)).foldl (fun g v => vput g dst v.1 (BitVec.ofNat 32 v.2)) g).preg = g.preg ∧
    ((ls.map fun l => (l, val l)).foldl (fun g v => vput g dst v.1 (BitVec.ofNat 32 v.2)) g).paths = g.paths
  | [], g, _, _ => by simp [SameButRegs]
  | l :: ls, g, h, hn => by
    obtain ⟨h1, h2, h3, h4, h5⟩ := foldl_vput dst val ls (vput g dst l (BitVec.ofNat 32 (val l))) (fun x hx => h x (by simp [hx]))
      (List.nodup_cons.1 hn).2
    have hl : l < 32 := h l (by simp)
    have hni := (List.nodup_cons.1 hn).1
    refine ⟨SameButRegs.trans (b := vput g dst l (BitVec.ofNat 32 (val l))) rfl h1, fun r m hm => ?_, h3, h4, h5⟩
    simp only [List.map_cons, List.foldl_cons]
    rw [h2 r m hm, vget_vput _ _ _ _ _ _ hl hm]
    by_cases hr : r = dst <;> by_cases hml : m = l <;> simp_all

/-- Writing a list of lanes of a predicate. -/
theorem foldl_pput (dst : Nat) (val : Nat → Nat) : ∀ (ls : List Nat) (g : Group), (∀ l ∈ ls, l < 32) → ls.Nodup →
    SameButRegs g ((ls.map fun l => (l, val l)).foldl (fun g v => pput g dst v.1 (v.2 % 2 == 1)) g) ∧
    (∀ p l, l < 32 → pget ((ls.map fun l => (l, val l)).foldl (fun g v => pput g dst v.1 (v.2 % 2 == 1)) g) p l =
      if p = dst ∧ l ∈ ls then val l % 2 == 1 else pget g p l) ∧
    ((ls.map fun l => (l, val l)).foldl (fun g v => pput g dst v.1 (v.2 % 2 == 1)) g).ureg = g.ureg ∧
    ((ls.map fun l => (l, val l)).foldl (fun g v => pput g dst v.1 (v.2 % 2 == 1)) g).vreg = g.vreg ∧
    ((ls.map fun l => (l, val l)).foldl (fun g v => pput g dst v.1 (v.2 % 2 == 1)) g).paths = g.paths
  | [], g, _, _ => by simp [SameButRegs]
  | l :: ls, g, h, hn => by
    obtain ⟨h1, h2, h3, h4, h5⟩ := foldl_pput dst val ls (pput g dst l (val l % 2 == 1)) (fun x hx => h x (by simp [hx]))
      (List.nodup_cons.1 hn).2
    have hl : l < 32 := h l (by simp)
    have hni := (List.nodup_cons.1 hn).1
    refine ⟨SameButRegs.trans (b := pput g dst l (val l % 2 == 1)) rfl h1, fun r m hm => ?_, h3, h4, h5⟩
    simp only [List.map_cons, List.foldl_cons]
    rw [h2 r m hm, pget_pput _ _ _ _ _ _ hl hm]
    by_cases hr : r = dst <;> by_cases hml : m = l <;> simp_all

/-- A destination is written in the active lanes and nothing else of the registers; the paths stay. -/
theorem putDst_spec (g : Group) (act : Word32) (dk dst : Nat) (val : Nat → Nat) :
    Wrote g (putDst g dk dst ((lanes act).map fun l => (l, val l))) act dk dst val ∧
    SameButRegs g (putDst g dk dst ((lanes act).map fun l => (l, val l))) ∧
    (putDst g dk dst ((lanes act).map fun l => (l, val l))).paths = g.paths := by
  have hl : ∀ l ∈ lanes act, l < 32 := fun l h => ((mem_lanes act l).1 h).1
  match dk with
  | 0 =>
    obtain ⟨h1, h2, h3, h4, h5⟩ := foldl_vput dst val (lanes act) g hl (lanes_nodup act)
    refine ⟨⟨fun r l hl' => ?_, fun r => ?_, fun p l _ => ?_⟩, h1, h5⟩
    · rw [putDst, h2 r l hl']; simp [mem_lanes, hl']
    · rw [putDst, uget, h3]; cases lanes act <;> simp [uget]
    · rw [putDst, pget, pword, h4]; simp [pget, pword]
  | 1 =>
    cases hm : lanes act with
    | nil => exact ⟨⟨fun r l _ => by simp [putDst], fun r => by simp [putDst, hm], fun p l _ => by simp [putDst]⟩, rfl, rfl⟩
    | cons x xs =>
      refine ⟨⟨fun r l _ => ?_, fun r => ?_, fun p l _ => ?_⟩, rfl, rfl⟩
      · simp [putDst, uput, vget]
      · simp [putDst, uget_uput, hm]
      · simp [putDst, uput, pget, pword]
  | n + 2 =>
    obtain ⟨h1, h2, h3, h4, h5⟩ := foldl_pput dst val (lanes act) g hl (lanes_nodup act)
    have e : putDst g (n + 2) dst ((lanes act).map fun l => (l, val l)) =
      ((lanes act).map fun l => (l, val l)).foldl (fun g v => pput g dst v.1 (v.2 % 2 == 1)) g := rfl
    rw [e]
    refine ⟨⟨fun r l hl' => ?_, fun r => ?_, fun p l hl' => ?_⟩, h1, h5⟩
    · rw [vget, h4]; simp [vget]
    · rw [uget, h3]; cases lanes act <;> simp [uget]
    · rw [h2 p l hl']; simp [mem_lanes, hl']

/-! ### Paths -/

theorem mergePaths_same : ∀ (n : Nat) (g : Group), SameButPaths g (mergePaths n g)
  | 0, _ => rfl
  | n + 1, g => by
    rw [mergePaths]
    split
    · rfl
    · have h := mergePaths_same n
      unfold SameButPaths at *
      rw [h]

theorem rotate_same (g : Group) (key : Nat) : SameButPaths g (rotate g key) := by
  unfold rotate; split
  · rfl
  · split <;> rfl

theorem SameButPaths.trans {a b c : Group} (h : SameButPaths a b) (h' : SameButPaths b c) : SameButPaths a c := by
  unfold SameButPaths at *; rw [h', h]

/-- A path that is placed changes paths alone. -/
theorem placePath_same (g : Group) (key : Nat) (p : Path) (st : PathState) : SameButPaths g (placePath g key p st) := by
  unfold placePath
  exact ((show SameButPaths g (setPath g key _) from rfl).trans (mergePaths_same _ _)).trans (rotate_same _ _)

/-- A path that goes on changes paths alone. -/
theorem goOn_same (g : Group) (key : Nat) (p : Path) (pc : Word64) (b : Bool) : SameButPaths g (goOn g key p pc b) := by
  unfold goOn; simp only
  repeat' split
  all_goals exact placePath_same _ _ _ _

theorem mem_setPath {g : Group} {key : Nat} {p : Path} {q : Nat × Path} (h : q ∈ (setPath g key p).paths) : q = (key, p) ∨ q ∈ g.paths :=
  mem_tput h

/-- With no path at a join address nothing merges. -/
theorem mergePaths_none {g : Group} (h : ∀ q ∈ g.paths, q.2.st ≠ .arrived) (n : Nat) : mergePaths n g = g := by
  cases n with
  | zero => rfl
  | succ n =>
    rw [mergePaths]
    have : (g.paths.find? fun p => p.2.st == .arrived && (g.paths.all fun q =>
        !joinsEnd p.2.joins q.2.joins || (q.2.st == .arrived && q.2.joins == p.2.joins))) = none := by
      rw [List.find?_eq_none]
      intro q hq
      have := h q hq
      simp [this]
    rw [this]

/-- A path that is placed at an address other than its join address stands there. -/
theorem placePath_stands (g : Group) (key : Nat) (p : Path) (st : PathState) (hst : st = .running ∨ st = .ready)
    (h : ∀ q ∈ g.paths, q.2.st ≠ .arrived) (hj : p.joins.head? ≠ some p.pc) :
    ∃ st' b, tfind (placePath g key p st).paths key = some { p with st := st', back := b } ∧ (st' = .running ∨ st' = .ready) := by
  unfold placePath
  simp only [hj, if_false]
  have hne : ∀ q ∈ (setPath g key { p with st := st }).paths, q.2.st ≠ .arrived := by
    intro q hq
    rcases mem_setPath hq with rfl | hq
    · rcases hst with rfl | rfl <;> simp
    · exact h q hq
  rw [mergePaths_none hne]
  have hf : tfind (setPath g key { p with st := st }).paths key = some { p with st := st } := tfind_tput_self _ _ _
  unfold rotate
  split
  · exact ⟨st, p.back, hf, hst⟩
  · split
    · exact ⟨st, p.back, hf, hst⟩
    · rename_i r _
      simp only [tfind_tmod, hf]
      by_cases hr : key = r
      · exact ⟨.running, 0, by simp [hr], .inl rfl⟩
      · exact ⟨st, p.back, by simp [hr], hst⟩

/-- A path that goes on stands at its address. -/
theorem goOn_stands (g : Group) (key : Nat) (p : Path) (pc : Word64) (b : Bool) (h : ∀ q ∈ g.paths, q.2.st ≠ .arrived)
    (hj : p.joins.head? ≠ some pc) :
    ∃ st b', tfind (goOn g key p pc b).paths key = some { p with pc := pc, st := st, back := b' } ∧ (st = .running ∨ st = .ready) := by
  unfold goOn; simp only
  split <;> split
  · exact placePath_stands g key { p with pc := pc, back := 0 } .ready (.inr rfl) h hj
  · exact placePath_stands g key { p with pc := pc, back := _ } .running (.inl rfl) h hj
  · exact placePath_stands g key { p with pc := pc, back := 0 } .ready (.inr rfl) h hj
  · exact placePath_stands g key { p with pc := pc, back := _ } .running (.inl rfl) h hj

/-- An issue ends the replay of its group and changes no other record. -/
theorem findGroup_noteIssue (f : Fab) (gid level o : Nat) :
    findGroup (noteIssue f gid level) o = if o = gid then (findGroup f o).map fun g => { g with replay := none } else findGroup f o :=
  findGroup_modGroup (onCores f fun c => { c with lastSlot := tput c.lastSlot (levelKey gid level) (slotOfGid gid) }) gid o _

/-- The group of an instruction that issues. -/
theorem Issues.group {s : State} {a : GroupAt} {c : XClass} {i : Iss} (h : Issues s a c i) : findGroup s.fab i.gid = some i.g := by
  revert h
  unfold Issues issueOf
  simp only
  repeat' split
  all_goals intro h; cases h
  all_goals assumption

/-- The group as its issue leaves it. -/
theorem Issues.issued {s : State} {a : GroupAt} {c : XClass} {i : Iss} (h : Issues s a c i) :
    findGroup (noteIssue s.fab i.gid i.g.level) i.gid = some i.issued := by
  rw [findGroup_noteIssue, if_pos rfl, h.group]; rfl

/-! ### Whole instructions -/

/-- Groups with the same registers have had the same lanes written. -/
theorem Wrote.congr {g x g0 g' : Group} {act : Word32} {dk dst : Nat} {val : Nat → Nat} (h : Wrote g x act dk dst val)
    (v : g'.vreg = x.vreg) (u : g'.ureg = x.ureg) (p : g'.preg = x.preg) (v0 : g0.vreg = g.vreg) (u0 : g0.ureg = g.ureg)
    (p0 : g0.preg = g.preg) : Wrote g0 g' act dk dst val := by
  simpa only [Wrote, vget, uget, pget, pword, v, u, p, v0, u0, p0] using h

/-- The group of an instruction goes on behind it as some group but for its registers. -/
theorem next_spec {i : Iss} {b : Group} (f : Fab) (g : Group → Group) (hf : findGroup f i.gid = some i.issued)
    (hs : SameButRegs b (g i.issued)) (hp : (g i.issued).paths = i.g.paths) :
    ∃ g', findGroup (i.next f g) i.gid = some g' ∧ SameButRegs b g' ∧ g'.vreg = (g i.issued).vreg ∧ g'.ureg = (g i.issued).ureg ∧
      g'.preg = (g i.issued).preg ∧ StandsAt i g' (i.p.pc + 8) := by
  have e := goOn_same (g i.issued) i.key i.p (i.p.pc + 8) false
  refine ⟨goOn (g i.issued) i.key i.p (i.p.pc + 8) false, ?_, ?_, by rw [e], by rw [e], by rw [e], fun ha hj => ?_⟩
  · simp [Iss.next, findGroup_modGroup, hf]
  · unfold SameButRegs SameButPaths at *; rw [e, hs]
  · exact goOn_stands _ _ _ _ _ (by rw [hp]; exact ha) hj

theorem next_other (i : Iss) (f : Fab) (g : Group → Group) (o : Nat) (h : o ≠ i.gid) : findGroup (i.next f g) o = findGroup f o := by
  simp [Iss.next, findGroup_modGroup, h]

/-- An issue and what its group then does leave every other group alone. -/
theorem issued_other (i : Iss) (s : State) (f : Fab) (g : Group → Group) (o : Nat) (h : o ≠ i.gid)
    (hf : findGroup f o = findGroup (noteIssue s.fab i.gid i.g.level) o) : findGroup (i.next f g) o = findGroup s.fab o := by
  rw [next_other i f g o h, hf, findGroup_noteIssue, if_neg h]

/-- A raised set changes the flags of that set alone. -/
theorem raise_flags (f : Fab) (key ctx k : Nat) (fl : BitVec 6) :
    (tgetD (raise f key ctx fl).cores.flags k { flags := 0, ctx := 0 }).flags =
      if k = key then (tgetD f.cores.flags k { flags := 0, ctx := 0 }).flags ||| fl
      else (tgetD f.cores.flags k { flags := 0, ctx := 0 }).flags := by
  unfold raise; split
  · subst_vars; split <;> simp
  · by_cases h : k = key
    · subst h; simp [onCores, tupd, tgetD, tfind_tput]
    · simp [onCores, tupd, tgetD, tfind_tput, h]

theorem raise_other (f : Fab) (key ctx k : Nat) (fl : BitVec 6) (h : k ≠ key) :
    tfind (raise f key ctx fl).cores.flags k = tfind f.cores.flags k := by
  unfold raise; split
  · rfl
  · simp [onCores, tupd, tfind_tput, h]

theorem findGroup_raise (f : Fab) (key ctx : Nat) (fl : BitVec 6) (o : Nat) : findGroup (raise f key ctx fl) o = findGroup f o := by
  unfold raise; split <;> rfl

/-- Raised flags leave what only one group changed as it is. -/
theorem OnlyGroup.raise {s : State} {f : Fab} {gid : Nat} (h : OnlyGroup s { s with fab := f } gid) (key ctx : Nat) (fl : BitVec 6) :
    OnlyGroup s { s with fab := Machine.raise f key ctx fl } gid := by
  refine ⟨?_, fun o ho => (findGroup_raise f key ctx fl o).trans (h.2 o ho)⟩
  have e : f = _ := congrArg State.fab h.1
  unfold Machine.raise
  split
  · exact h.1
  · conv_lhs => rw [e]
    rfl

/-- An instruction after which its group goes on and that spends free values changes one group only. -/
theorem OnlyGroup.next (s : State) (i : Iss) (n : Nat) (g : Group → Group) :
    OnlyGroup s { s with fab := i.next (spend (noteIssue s.fab i.gid i.g.level) n) g } i.gid :=
  ⟨rfl, fun o ho => issued_other i s _ _ o ho rfl⟩

/-- An instruction that writes one value per active lane and sets no flag. -/
theorem putResults_spec {s : State} {a : GroupAt} {c : XClass} {i : Iss} (h : Issues s a c i) (dk : Nat) (val : Nat → Nat) :
    LaneWrite s { s with fab := putResults (noteIssue s.fab i.gid i.g.level) i dk val } i dk (aDst i.w) val := by
  obtain ⟨hw, hs, hp⟩ := putDst_spec i.issued i.act dk (aDst i.w) val
  obtain ⟨g', h1, h2, h3, h4, h5, h6⟩ := next_spec (noteIssue s.fab i.gid i.g.level)
    (fun g => putDst g dk (aDst i.w) ((lanes i.act).map fun l => (l, val l))) h.issued hs hp
  exact ⟨OnlyGroup.next s i 0 _, rfl, g', h1, h2, hw.congr h3 h4 h5 rfl rfl rfl, h6⟩

/-- A uniform destination takes the first value of a list, whatever follows. -/
theorem putDst_take (g : Group) (dk dst : Nat) (vs : List (Nat × Nat)) :
    putDst g dk dst (if dk = 1 then vs.take 1 else vs) = putDst g dk dst vs := by
  by_cases h : dk = 1
  · subst h; cases vs <;> simp [putDst]
  · simp [h]

/-- An instruction that writes one value per active lane with numeric flags. -/
theorem putFlagged_spec {s : State} {a : GroupAt} {c : XClass} {i : Iss} (h : Issues s a c i) (dk : Nat) (val : Nat → Nat × BitVec 6) :
    FlagWrite s { s with fab := putFlagged (noteIssue s.fab i.gid i.g.level) i dk val } i dk val := by
  obtain ⟨hw, hs, hp⟩ := putDst_spec i.issued i.act dk (aDst i.w) fun l => (val l).1
  have hv : ∀ g : Group, putDst g dk (aDst i.w) ((if dk = 1 then ((lanes i.act).map fun l => (l, val l)).take 1
      else (lanes i.act).map fun l => (l, val l)).map fun r => (r.1, r.2.1)) =
      putDst g dk (aDst i.w) ((lanes i.act).map fun l => (l, (val l).1)) := by
    intro g; rw [← putDst_take g dk (aDst i.w) ((lanes i.act).map fun l => (l, (val l).1))]
    split <;> simp [List.map_take, Function.comp_def]
  have hfl : (if dk = 1 then ((lanes i.act).map fun l => (l, val l)).take 1 else (lanes i.act).map fun l => (l, val l)).foldl
      (fun a r => a ||| r.2.2) 0 = (if dk = 1 then (lanes i.act).take 1 else lanes i.act).foldl (fun a l => a ||| (val l).2) 0 := by
    split <;> simp [← List.map_take, List.foldl_map]
  obtain ⟨g', h1, h2, h3, h4, h5, h6⟩ := next_spec (noteIssue s.fab i.gid i.g.level)
    (fun g => putDst g dk (aDst i.w) ((lanes i.act).map fun l => (l, (val l).1))) h.issued hs hp
  have he : putFlagged (noteIssue s.fab i.gid i.g.level) i dk val =
      raise (i.next (noteIssue s.fab i.gid i.g.level) fun g => putDst g dk (aDst i.w) ((lanes i.act).map fun l => (l, (val l).1)))
        (subFlagKey i.gid i.g.part) i.g.ctx ((if dk = 1 then (lanes i.act).take 1 else lanes i.act).foldl (fun a l => a ||| (val l).2) 0) := by
    unfold putFlagged; simp only [hv, hfl]
  rw [he]
  refine ⟨(show OnlyGroup s _ _ from OnlyGroup.next s i 0 _).raise _ _ _, ⟨?_, fun k hk => ?_⟩, g', ?_, h2, hw.congr h3 h4 h5 rfl rfl rfl, h6⟩
  · simp only [flagsAt, raise_flags]; rfl
  · rw [raise_other _ _ _ _ _ hk]; rfl
  · rw [findGroup_raise]; exact h1

/-- An instruction that leaves a row state and one value per active lane. -/
theorem putRow_spec {s : State} {a : GroupAt} {c : XClass} {i : Iss} (h : Issues s a c i) (r : RowState × BitVec 6) (val : Nat → Nat) :
    RowWrite s { s with fab := putRow (noteIssue s.fab i.gid i.g.level) i r val } i r.1 r.2 val := by
  obtain ⟨hw, hs, hp⟩ := putDst_spec i.issued i.act 0 (aDst i.w) val
  have hs' : SameButRegs { i.issued with row := r.1 }
      { putDst i.issued 0 (aDst i.w) ((lanes i.act).map fun l => (l, val l)) with row := r.1 } := by
    unfold SameButRegs; conv_lhs => rw [hs]
  obtain ⟨g', h1, h2, h3, h4, h5, h6⟩ := next_spec (noteIssue s.fab i.gid i.g.level)
    (fun g => { putDst g 0 (aDst i.w) ((lanes i.act).map fun l => (l, val l)) with row := r.1 }) h.issued hs' hp
  refine ⟨(show OnlyGroup s _ _ from OnlyGroup.next s i 0 _).raise _ _ _, ⟨?_, fun k hk => ?_⟩, g', ?_, h2,
    hw.congr h3 h4 h5 rfl rfl rfl, h6⟩
  · simp only [flagsAt, putRow, raise_flags]; rfl
  · simp only [putRow]; rw [raise_other _ _ _ _ _ hk]; rfl
  · simp only [putRow]; rw [findGroup_raise]; exact h1

/-- An instruction that does nothing goes on. -/
theorem skip_spec {s : State} {a : GroupAt} {c : XClass} {i : Iss} (h : Issues s a c i) :
    GoesTo s { s with fab := i.next (noteIssue s.fab i.gid i.g.level) id } i (i.p.pc + 8) :=
  ⟨OnlyGroup.next s i 0 _, rfl, goOn i.issued i.key i.p (i.p.pc + 8) false,
    by simp only [Iss.next]; rw [findGroup_modGroup, if_pos rfl, h.issued]; rfl, goOn_same _ _ _ _ _,
    fun hq hj => goOn_stands _ _ _ _ _ hq hj⟩

end Sys2Proof.Machine
end

