-- ==== Sys2Proof/Laws/Lines.lean ====
section
/-!
SUPPORT. Laws/Lines.lean: what the shared operations on lines do where nothing stands in their way: no read to settle, no parity error to
find, a request whose turn it is at its home.
-/
namespace Sys2Proof.Machine

/-- With no read complete, no program and no reset due, settling does nothing. -/
theorem endWaiting_quiet (k : Keel) {f : Fab} (hr : ∀ r ∈ f.tab.resets, r.2.phase ≠ 2) (hc : ∀ c ∈ f.tab.ctxs, c.2.ending = none) :
    endWaiting k f = f := by
  have fix : ∀ {α : Type} (g : Fab → α → Fab) (xs : List α), (∀ x ∈ xs, g f x = f) → xs.foldl g f = f := by
    intro α g xs h
    induction xs with
    | nil => rfl
    | cons x xs ih => rw [List.foldl_cons, h x (by simp)]; exact ih fun y hy => h y (by simp [hy])
  have h1 : (f.tab.resets.foldl (fun f r => if r.2.phase = 2 ∧ !epochsDue f r.1 then endReset k f r.1 r.2 else f) f) = f :=
    fix _ _ fun r h => by simp [hr r h]
  simp only [endWaiting, h1]
  exact fix _ _ fun c h => by simp [hc c h]

theorem settle_quiet (k : Keel) {f : Fab} (hj : f.jobs = []) (hn : NoneDue f) : settle k f = f := by
  simp [settle, beginFatal, tendPrograms, settleReleases, endWaiting_quiet k hn.2.2.2.1 hn.2.2.2.2, hj, hn.1, hn.2.1, hn.2.2.1]

theorem find_last_mem {α : Type} {p : α → Bool} {xs : List α} {x : α} (h : (xs.filter p).getLast? = some x) : x ∈ xs ∧ p x = true := by
  simpa using List.mem_filter.1 (List.mem_of_getLast? h)

/-- A parity check of an intact line finds nothing. -/
theorem parityOn_intact {s : State} {l : Line} (h : Intact s l) (die : Nat) : parityOn s.fab die l .ok = (s.fab, false) := by
  unfold parityOn
  cases hc : findL2 s.fab.mem die l with
  | some c =>
    have hm := List.mem_of_find?_eq_some hc
    have hl := List.find?_some hc
    simp only [Bool.and_eq_true, beq_iff_eq] at hl
    simp [copyParity, h.1 c hm hl.2]
  | none =>
    simp only [entryParity]
    cases he : findEvb s.fab.mem die l with
    | none => rfl
    | some e =>
      have hm := find_last_mem he
      simp only [Bool.and_eq_true, beq_iff_eq] at hm
      simp [h.2 e hm.1 hm.2.2]

/-- The home's list of arrived requests, once this one is on it. -/
def arrivedAt (f : Fab) (m : Nat) : Fab := if f.mem.arrived.contains m then f else onMem f fun x => { x with arrived := x.arrived ++ [m] }

theorem arrivedAt_net (f : Fab) (m : Nat) : (arrivedAt f m).net = f.net := by unfold arrivedAt; split <;> rfl

theorem arrivedAt_arrived (f : Fab) (m : Nat) :
    (arrivedAt f m).mem.arrived = if f.mem.arrived.contains m then f.mem.arrived else f.mem.arrived ++ [m] := by
  unfold arrivedAt; split <;> rfl

/-- A request that has its turn is served once its line's entry is free. -/
theorem atHome_turn {s : State} {m : Nat} {l : Line} {r : HomeReq} (h : HasTurn s m l) (hm : tfind s.fab.net m = some (.home l r))
    (run : Fab → Fab) : atHome s.keel s.fab m l run =
      match needEntry s.keel (arrivedAt s.fab m) l with
      | .busy => arrivedAt s.fab m
      | .evicting f => f
      | .ready f => run (onMem (lineBeat s.keel (drop f m) (homeOf s.keel l).die l) fun x => { x with
          arrived := x.arrived.filter fun y => y != m && (tfind f.net y).isSome }) := by
  have hl : homeLine (arrivedAt s.fab m) m = some l := by simp [homeLine, arrivedAt_net, hm]
  have hmem : m ∈ (arrivedAt s.fab m).mem.arrived := by
    rw [arrivedAt_arrived]
    by_cases hc : s.fab.mem.arrived.contains m <;> simp_all
  have hfirst : (arrivedAt s.fab m).mem.arrived.find? (fun x => homeLine (arrivedAt s.fab m) x == some l) = some m := by
    cases hf : (arrivedAt s.fab m).mem.arrived.find? (fun x => homeLine (arrivedAt s.fab m) x == some l) with
    | none => simpa [hl] using List.find?_eq_none.1 hf m hmem
    | some y =>
      have hy := List.mem_of_find?_eq_some hf
      have hp : homeLine s.fab y = some l := by
        have := List.find?_some hf
        simpa [homeLine, arrivedAt_net] using this
      by_cases e : y = m
      · rw [e]
      · have hin : y ∈ s.fab.mem.arrived := by
          rw [arrivedAt_arrived] at hy
          split at hy
          · exact hy
          · simpa [e] using hy
        exact absurd hp (h.2 y hin e)
  unfold atHome
  simp only [h.1, Bool.not_true, Bool.false_eq_true, if_false]
  change (if (arrivedAt s.fab m).mem.arrived.find? (fun x => homeLine (arrivedAt s.fab m) x == some l) != some m then _ else _) = _
  simp only [hfirst, bne_self_eq_false, Bool.false_eq_true, if_false]
  rfl

end Sys2Proof.Machine
end

