-- ==== Sys2Proof/Laws/PerInstr.lean ====
section
/-!
SUPPORT. Laws/PerInstr.lean: the family Die: a well-formed command names a sail die that the largest device has, whichever way it names it.
One lemma per constructor.
-/
namespace Sys2Proof.Laws.Die

def Statement (i : Instr) : Prop := i.wf = true → ∀ d, i.die? = some d → d < 4

theorem noDie {i : Instr} (h : i.die? = none) : Statement i := fun _ d hd => by rw [h] at hd; cases hd

theorem dieIs {n : Nat} (h : n < 4) : ∀ d, some n = some d → d < 4 := fun d e => by cases e; exact h
theorem andL {a b : Bool} (h : (a && b) = true) : a = true := by cases a <;> simp_all
theorem andR {a b : Bool} (h : (a && b) = true) : b = true := by cases b <;> simp_all

theorem dieDie {n : Nat} (h : decide (n < 4) = true) : n < 4 := of_decide_eq_true h
theorem coreDie {n : Nat} (h : decide (n < 768) = true) : n / 192 < 4 := by have := of_decide_eq_true h; omega
theorem clusterDie {n : Nat} (h : decide (n < 48) = true) : n / 12 < 4 := by have := of_decide_eq_true h; omega
theorem dramDie {n : Nat} (h : decide (n < 24) = true) : n / 6 < 4 := by have := of_decide_eq_true h; omega
theorem chDie {n : Nat} (h : decide (n < 32) = true) : n / 8 < 4 := by have := of_decide_eq_true h; omega
theorem groupDie {g : GroupAt} (h : g.wf = true) : g.core / 192 < 4 := by simp [GroupAt.wf] at h; omega

theorem domDie {n x : Nat} (h : decide (n < 20) = true) (hx : (if n < 4 then none else some ((n - 4) / 4)) = some x) : x < 4 := by
  have := of_decide_eq_true h
  split at hx
  · cases hx
  · cases hx; omega

theorem unitDie {u : EpochUnit} (h : u.wf = true) : u.die < 4 := by
  cases u <;> simp [EpochUnit.wf, EpochUnit.die] at * <;> omega

theorem integerArithmetic (g : GroupAt) : Statement (.integerArithmetic g) := fun h => dieIs (groupDie (h))
theorem cmp (g : GroupAt) : Statement (.cmp g) := fun h => dieIs (groupDie (h))
theorem predicateLogic (g : GroupAt) : Statement (.predicateLogic g) := fun h => dieIs (groupDie (h))
theorem mov (g : GroupAt) : Statement (.mov g) := fun h => dieIs (groupDie (h))
theorem movI32 (g : GroupAt) : Statement (.movI32 g) := fun h => dieIs (groupDie (h))
theorem sel (g : GroupAt) : Statement (.sel g) := fun h => dieIs (groupDie (h))
theorem cvt (g : GroupAt) : Statement (.cvt g) := fun h => dieIs (groupDie (h))
theorem xlane (g : GroupAt) : Statement (.xlane g) := fun h => dieIs (groupDie (h))
theorem floatArithmetic (g : GroupAt) : Statement (.floatArithmetic g) := fun h => dieIs (groupDie (h))
theorem sfLookup (g : GroupAt) : Statement (.sfLookup g) := fun h => dieIs (groupDie (h))
theorem sfAccumulate (g : GroupAt) : Statement (.sfAccumulate g) := fun h => dieIs (groupDie (h))
theorem sfNormalise (g : GroupAt) : Statement (.sfNormalise g) := fun h => dieIs (groupDie (h))
theorem sfRowRead (g : GroupAt) : Statement (.sfRowRead g) := fun h => dieIs (groupDie (h))
theorem sfStatsAccumulate (g : GroupAt) : Statement (.sfStatsAccumulate g) := fun h => dieIs (groupDie (h))
theorem sfMean (g : GroupAt) : Statement (.sfMean g) := fun h => dieIs (groupDie (h))
theorem sfVariance (g : GroupAt) : Statement (.sfVariance g) := fun h => dieIs (groupDie (h))
theorem sfRms (g : GroupAt) : Statement (.sfRms g) := fun h => dieIs (groupDie (h))
theorem ld (g : GroupAt) : Statement (.ld g) := fun h => dieIs (groupDie (h))
theorem loadComplete (m : Nat) : Statement (.loadComplete m) := noDie rfl
theorem st (g : GroupAt) : Statement (.st g) := fun h => dieIs (groupDie (h))
theorem ldTr (g : GroupAt) : Statement (.ldTr g) := fun h => dieIs (groupDie (h))
theorem atomic (g : GroupAt) : Statement (.atomic g) := fun h => dieIs (groupDie (h))
theorem ldRes (g : GroupAt) : Statement (.ldRes g) := fun h => dieIs (groupDie (h))
theorem stCond (g : GroupAt) : Statement (.stCond g) := fun h => dieIs (groupDie (h))
theorem fragLd (g : GroupAt) : Statement (.fragLd g) := fun h => dieIs (groupDie (h))
theorem fragSt (g : GroupAt) : Statement (.fragSt g) := fun h => dieIs (groupDie (h))
theorem lockAcq (g : GroupAt) : Statement (.lockAcq g) := fun h => dieIs (groupDie (h))
theorem lockRetryTimeout (g : GroupAt) (path : Nat) : Statement (.lockRetryTimeout g path) := fun h => dieIs (groupDie (h))
theorem lockRel (g : GroupAt) : Statement (.lockRel g) := fun h => dieIs (groupDie (h))
theorem mxIssue (g : GroupAt) : Statement (.mxIssue g) := fun h => dieIs (groupDie (h))
theorem cpIssue (g : GroupAt) : Statement (.cpIssue g) := fun h => dieIs (groupDie (h))
theorem rtIssue (g : GroupAt) : Statement (.rtIssue g) := fun h => dieIs (groupDie (h))
theorem descriptorCaptureComplete (m : Nat) : Statement (.descriptorCaptureComplete m) := noDie rfl
theorem fence (g : GroupAt) : Statement (.fence g) := fun h => dieIs (groupDie (h))
theorem cntSig (g : GroupAt) : Statement (.cntSig g) := fun h => dieIs (groupDie (h))
theorem cntCwait (g : GroupAt) : Statement (.cntCwait g) := fun h => dieIs (groupDie (h))
theorem cntOwait (g : GroupAt) : Statement (.cntOwait g) := fun h => dieIs (groupDie (h))
theorem cntSet (g : GroupAt) : Statement (.cntSet g) := fun h => dieIs (groupDie (h))
theorem cntRd (g : GroupAt) : Statement (.cntRd g) := fun h => dieIs (groupDie (h))
theorem barBlk (g : GroupAt) : Statement (.barBlk g) := fun h => dieIs (groupDie (h))
theorem nop (g : GroupAt) : Statement (.nop g) := fun h => dieIs (groupDie (h))
theorem br (g : GroupAt) : Statement (.br g) := fun h => dieIs (groupDie (h))
theorem brJoin (g : GroupAt) : Statement (.brJoin g) := fun h => dieIs (groupDie (h))
theorem brInd (g : GroupAt) : Statement (.brInd g) := fun h => dieIs (groupDie (h))
theorem call (g : GroupAt) : Statement (.call g) := fun h => dieIs (groupDie (h))
theorem exit (g : GroupAt) : Statement (.exit g) := fun h => dieIs (groupDie (h))
theorem rdSrc (g : GroupAt) : Statement (.rdSrc g) := fun h => dieIs (groupDie (h))
theorem blockResident (core : Nat) : Statement (.blockResident core) := fun h => dieIs (coreDie (h))
theorem storeBufferEntryTimeout (core : Nat) (sub : Nat) (entry : Nat) : Statement (.storeBufferEntryTimeout core sub entry) := fun h => dieIs (coreDie (andL (h)))
theorem storeAck (m : Nat) : Statement (.storeAck m) := noDie rfl
theorem parkDrainComplete (g : GroupAt) : Statement (.parkDrainComplete g) := fun h => dieIs (groupDie (h))
theorem replay (mark : Mark) (die : Nat) (v : Word32) : Statement (.replay mark die v) := fun h => dieIs (dieDie (andR (h)))
theorem kill (mark : Mark) (die : Nat) (v : Word32) : Statement (.kill mark die v) := fun h => dieIs (dieDie (andR (h)))
theorem blockKillComplete (core : Nat) (block : Nat) : Statement (.blockKillComplete core block) := fun h => dieIs (coreDie (h))
theorem snap (mark : Mark) (die : Nat) (v : Word32) : Statement (.snap mark die v) := fun h => dieIs (dieDie (andR (h)))
theorem snapshotComplete (die : Nat) : Statement (.snapshotComplete die) := fun h => dieIs (dieDie (h))
theorem matrixDescriptorAccept (core : Nat) : Statement (.matrixDescriptorAccept core) := fun h => dieIs (coreDie (h))
theorem tileDecodeComplete (core : Nat) : Statement (.tileDecodeComplete core) := fun h => dieIs (coreDie (h))
theorem foldStepEnd (core : Nat) : Statement (.foldStepEnd core) := fun h => dieIs (coreDie (h))
theorem gapLenExpiry (core : Nat) : Statement (.gapLenExpiry core) := fun h => dieIs (coreDie (h))
theorem ballastRampStep (core : Nat) : Statement (.ballastRampStep core) := fun h => dieIs (coreDie (h))
theorem shapeChangeBubbleEnd (core : Nat) : Statement (.shapeChangeBubbleEnd core) := fun h => dieIs (coreDie (h))
theorem matrixComplete (core : Nat) : Statement (.matrixComplete core) := fun h => dieIs (coreDie (h))
theorem copyDescriptorAccept (cluster : Nat) : Statement (.copyDescriptorAccept cluster) := fun h => dieIs (clusterDie (h))
theorem copyStepEnd (cluster : Nat) : Statement (.copyStepEnd cluster) := fun h => dieIs (clusterDie (h))
theorem copyWriteAck (m : Nat) : Statement (.copyWriteAck m) := noDie rfl
theorem routeDescriptorAccept (cluster : Nat) : Statement (.routeDescriptorAccept cluster) := fun h => dieIs (clusterDie (h))
theorem routingStepEnd (cluster : Nat) : Statement (.routingStepEnd cluster) := fun h => dieIs (clusterDie (h))
theorem gatherComplete (cluster : Nat) (expert : Nat) : Statement (.gatherComplete cluster expert) := fun h => dieIs (clusterDie (andL (h)))
theorem routingComplete (cluster : Nat) : Statement (.routingComplete cluster) := fun h => dieIs (clusterDie (h))
theorem counterOpArrival (m : Nat) : Statement (.counterOpArrival m) := noDie rfl
theorem waitRequestArrival (m : Nat) : Statement (.waitRequestArrival m) := noDie rfl
theorem waitReleaseArrival (m : Nat) : Statement (.waitReleaseArrival m) := noDie rfl
theorem pairPartnerReport (m : Nat) : Statement (.pairPartnerReport m) := noDie rfl
theorem homeReadRequest (m : Nat) (parity : ParityFind) : Statement (.homeReadRequest m parity) := noDie rfl
theorem homeOwnershipRequest (m : Nat) (parity : ParityFind) : Statement (.homeOwnershipRequest m parity) := noDie rfl
theorem homeWriteBack (m : Nat) : Statement (.homeWriteBack m) := noDie rfl
theorem homeCleanEviction (m : Nat) : Statement (.homeCleanEviction m) := noDie rfl
theorem forwardedRequest (m : Nat) : Statement (.forwardedRequest m) := noDie rfl
theorem forwardNotify (m : Nat) : Statement (.forwardNotify m) := noDie rfl
theorem invalidation (m : Nat) : Statement (.invalidation m) := noDie rfl
theorem invalidationAck (m : Nat) : Statement (.invalidationAck m) := noDie rfl
theorem uncachedAgentRead (m : Nat) (parity : ParityFind) : Statement (.uncachedAgentRead m parity) := noDie rfl
theorem uncachedAgentWrite (m : Nat) : Statement (.uncachedAgentWrite m) := noDie rfl
theorem homeAtomic (m : Nat) : Statement (.homeAtomic m) := noDie rfl
theorem farAtomic (m : Nat) : Statement (.farAtomic m) := noDie rfl
theorem l2Fill (m : Nat) (parity : ParityFind) : Statement (.l2Fill m parity) := noDie rfl
theorem writeBackAck (m : Nat) : Statement (.writeBackAck m) := noDie rfl
theorem reservationHoldExpiry (die : Nat) (hold : Nat) : Statement (.reservationHoldExpiry die hold) := fun h => dieIs (dieDie (h))
theorem memoryRead (m : Nat) (o : ReadOutcome) : Statement (.memoryRead m o) := noDie rfl
theorem patrolScrub (sector : Nat) (o : ReadOutcome) : Statement (.patrolScrub sector o) := noDie rfl
theorem lpddrDriftCompensation (ch : Nat) : Statement (.lpddrDriftCompensation ch) := fun h => dieIs (chDie (h))
theorem lpddrOnlineRetrain (ch : Nat) : Statement (.lpddrOnlineRetrain ch) := fun h => dieIs (chDie (h))
theorem lpddrRetrainComplete (ch : Nat) (ok : Bool) : Statement (.lpddrRetrainComplete ch ok) := fun h => dieIs (chDie (h))
theorem lpddrTemperatureRead (ch : Nat) (derated : Bool) : Statement (.lpddrTemperatureRead ch derated) := fun h => dieIs (chDie (h))
theorem lpddrProbeComplete (answers : List ChannelAnswer) : Statement (.lpddrProbeComplete answers) := noDie rfl
theorem lpddrTrainingComplete (ch : Nat) (ok : Bool) : Statement (.lpddrTrainingComplete ch ok) := fun h => dieIs (chDie (h))
theorem doorbellRing (mark : Mark) (page : Nat) (q : Nat) (v : Word32) : Statement (.doorbellRing mark page q v) := noDie rfl
theorem tailReadData (m : Nat) : Statement (.tailReadData m) := noDie rfl
theorem commandReadData (m : Nat) : Statement (.commandReadData m) := noDie rfl
theorem commandStart (q : Nat) (j : Nat) : Statement (.commandStart q j) := noDie rfl
theorem commandRetire (q : Nat) (j : Nat) : Statement (.commandRetire q j) := noDie rfl
theorem eventRecordAck (m : Nat) : Statement (.eventRecordAck m) := noDie rfl
theorem launch (q : Nat) (j : Nat) : Statement (.launch q j) := noDie rfl
theorem copy (q : Nat) (j : Nat) : Statement (.copy q j) := noDie rfl
theorem matrix (q : Nat) (j : Nat) : Statement (.matrix q j) := noDie rfl
theorem route (q : Nat) (j : Nat) : Statement (.route q j) := noDie rfl
theorem counterSignal (q : Nat) (j : Nat) : Statement (.counterSignal q j) := noDie rfl
theorem counterDecrement (q : Nat) (j : Nat) : Statement (.counterDecrement q j) := noDie rfl
theorem counterSet (q : Nat) (j : Nat) : Statement (.counterSet q j) := noDie rfl
theorem counterReset (q : Nat) (j : Nat) : Statement (.counterReset q j) := noDie rfl
theorem counterRead (q : Nat) (j : Nat) : Statement (.counterRead q j) := noDie rfl
theorem markCmd (q : Nat) (j : Nat) : Statement (.markCmd q j) := noDie rfl
theorem objCreate (q : Nat) (j : Nat) : Statement (.objCreate q j) := noDie rfl
theorem objChange (q : Nat) (j : Nat) : Statement (.objChange q j) := noDie rfl
theorem objRetain (q : Nat) (j : Nat) : Statement (.objRetain q j) := noDie rfl
theorem objRelease (q : Nat) (j : Nat) : Statement (.objRelease q j) := noDie rfl
theorem cntAlloc (q : Nat) (j : Nat) : Statement (.cntAlloc q j) := noDie rfl
theorem cntMap (q : Nat) (j : Nat) : Statement (.cntMap q j) := noDie rfl
theorem cntPair (q : Nat) (j : Nat) : Statement (.cntPair q j) := noDie rfl
theorem cntRelease (q : Nat) (j : Nat) : Statement (.cntRelease q j) := noDie rfl
theorem fenceCreate (q : Nat) (j : Nat) : Statement (.fenceCreate q j) := noDie rfl
theorem fenceFail (q : Nat) (j : Nat) : Statement (.fenceFail q j) := noDie rfl
theorem fenceRelease (q : Nat) (j : Nat) : Statement (.fenceRelease q j) := noDie rfl
theorem ctxCreate (q : Nat) (j : Nat) : Statement (.ctxCreate q j) := noDie rfl
theorem ctxDestroy (q : Nat) (j : Nat) : Statement (.ctxDestroy q j) := noDie rfl
theorem contextTeardownComplete (ctx : Nat) : Statement (.contextTeardownComplete ctx) := noDie rfl
theorem queueCreate (q : Nat) (j : Nat) : Statement (.queueCreate q j) := noDie rfl
theorem queueDestroy (q : Nat) (j : Nat) : Statement (.queueDestroy q j) := noDie rfl
theorem partReset (q : Nat) (j : Nat) : Statement (.partReset q j) := noDie rfl
theorem partitionResetComplete (part : Nat) : Statement (.partitionResetComplete part) := noDie rfl
theorem epochAdvance (unit : EpochUnit) : Statement (.epochAdvance unit) := fun h => dieIs (unitDie (h))
theorem sftGo (mark : Mark) (die : Nat) (v : Word32) : Statement (.sftGo mark die v) := fun h => dieIs (dieDie (andR (h)))
theorem sftImageChecked (die : Nat) : Statement (.sftImageChecked die) := fun h => dieIs (dieDie (h))
theorem sftPinsCleared (die : Nat) : Statement (.sftPinsCleared die) := fun h => dieIs (dieDie (h))
theorem flagScanStart (mark : Mark) (die : Nat) (v : Word32) : Statement (.flagScanStart mark die v) := fun h => dieIs (dieDie (andR (h)))
theorem flagScanComplete (die : Nat) : Statement (.flagScanComplete die) := fun h => dieIs (dieDie (h))
theorem flagSetClear (mark : Mark) (die : Nat) (v : Word32) : Statement (.flagSetClear mark die v) := fun h => dieIs (dieDie (andR (h)))
theorem flagClearAll (mark : Mark) (die : Nat) (v : Word32) : Statement (.flagClearAll mark die v) := fun h => dieIs (dieDie (andR (h)))
theorem l2LockApply (mark : Mark) (die : Nat) (v : Word32) : Statement (.l2LockApply mark die v) := fun h => dieIs (dieDie (andR (h)))
theorem l2CleanRange (mark : Mark) (die : Nat) (v : Word32) : Statement (.l2CleanRange mark die v) := fun h => dieIs (dieDie (andR (h)))
theorem l2InvalidateRange (mark : Mark) (die : Nat) (v : Word32) : Statement (.l2InvalidateRange mark die v) := fun h => dieIs (dieDie (andR (h)))
theorem l2CleanInvalidateRange (mark : Mark) (die : Nat) (v : Word32) : Statement (.l2CleanInvalidateRange mark die v) := fun h => dieIs (dieDie (andR (h)))
theorem l2CleanSetWay (mark : Mark) (die : Nat) (v : Word32) : Statement (.l2CleanSetWay mark die v) := fun h => dieIs (dieDie (andR (h)))
theorem l2InvalidateSetWay (mark : Mark) (die : Nat) (v : Word32) : Statement (.l2InvalidateSetWay mark die v) := fun h => dieIs (dieDie (andR (h)))
theorem l2CleanInvalidateSetWay (mark : Mark) (die : Nat) (v : Word32) : Statement (.l2CleanInvalidateSetWay mark die v) := fun h => dieIs (dieDie (andR (h)))
theorem l2MaintenanceComplete (die : Nat) (parityLost : Bool) : Statement (.l2MaintenanceComplete die parityLost) := fun h => dieIs (dieDie (h))
theorem frameInEdge  : Statement (.frameInEdge) := noDie rfl
theorem frameDoorbell (mark : Mark) (v : Word32) : Statement (.frameDoorbell mark v) := noDie rfl
theorem frameEvent (m : Nat) : Statement (.frameEvent m) := noDie rfl
theorem slotFrameStart (die : Nat) : Statement (.slotFrameStart die) := fun h => dieIs (dieDie (h))
theorem slotBudgetExpiry (die : Nat) : Statement (.slotBudgetExpiry die) := fun h => dieIs (dieDie (h))
theorem csRd (att : Nat) (f : Flit) : Statement (.csRd att f) := noDie rfl
theorem csWr (att : Nat) (f : Flit) : Statement (.csWr att f) := noDie rfl
theorem dmaRd (att : Nat) (f : Flit) : Statement (.dmaRd att f) := noDie rfl
theorem dmaWr (att : Nat) (f : Flit) : Statement (.dmaWr att f) := noDie rfl
theorem dmaWrp (att : Nat) (f : Flit) : Statement (.dmaWrp att f) := noDie rfl
theorem dmaAtom (att : Nat) (f : Flit) : Statement (.dmaAtom att f) := noDie rfl
theorem coRds (att : Nat) (f : Flit) : Statement (.coRds att f) := noDie rfl
theorem coOwn (att : Nat) (f : Flit) : Statement (.coOwn att f) := noDie rfl
theorem coWb (att : Nat) (f : Flit) : Statement (.coWb att f) := noDie rfl
theorem coEvict (att : Nat) (f : Flit) : Statement (.coEvict att f) := noDie rfl
theorem snpRsp (att : Nat) (f : Flit) : Statement (.snpRsp att f) := noDie rfl
theorem memRdata (att : Nat) (f : Flit) : Statement (.memRdata att f) := noDie rfl
theorem memWcmp (att : Nat) (f : Flit) : Statement (.memWcmp att f) := noDie rfl
theorem tetherResponseTimeout  : Statement (.tetherResponseTimeout) := noDie rfl
theorem probeAnswer (record : List Byte) (sig : List Byte) : Statement (.probeAnswer record sig) := noDie rfl
theorem probeTimeout  : Statement (.probeTimeout) := noDie rfl
theorem mboxAck  : Statement (.mboxAck) := noDie rfl
theorem quiesce  : Statement (.quiesce) := noDie rfl
theorem quiesceDone  : Statement (.quiesceDone) := noDie rfl
theorem modulesDown (mask : BitVec 8) : Statement (.modulesDown mask) := noDie rfl
theorem linkTrainingComplete (up : BitVec 8) (repaired : BitVec 8) : Statement (.linkTrainingComplete up repaired) := noDie rfl
theorem adapterRetryThreshold (module : Nat) : Statement (.adapterRetryThreshold module) := noDie rfl
theorem sidebandRetrainRequest (att : Nat) : Statement (.sidebandRetrainRequest att) := noDie rfl
theorem linkRetrain (mark : Mark) (v : Word32) : Statement (.linkRetrain mark v) := noDie rfl
theorem retrainComplete (att : Nat) (failed : BitVec 8) (repaired : BitVec 8) : Statement (.retrainComplete att failed repaired) := noDie rfl
theorem glinenWr (port : Nat) (f : Frame) : Statement (.glinenWr port f) := noDie rfl
theorem glinenRd (port : Nat) (f : Frame) : Statement (.glinenRd port f) := noDie rfl
theorem glinenAtom (port : Nat) (f : Frame) : Statement (.glinenAtom port f) := noDie rfl
theorem glinenSig (port : Nat) (f : Frame) : Statement (.glinenSig port f) := noDie rfl
theorem xwr (port : Nat) (f : Frame) : Statement (.xwr port f) := noDie rfl
theorem xend (port : Nat) (f : Frame) : Statement (.xend port f) := noDie rfl
theorem transferComplete (port : Nat) (src : Nat) (xfer : Nat) : Statement (.transferComplete port src xfer) := noDie rfl
theorem glinenFrame (port : Nat) (f : Frame) : Statement (.glinenFrame port f) := noDie rfl
theorem linkctl (port : Nat) (f : Frame) : Statement (.linkctl port f) := noDie rfl
theorem wack (port : Nat) (f : Frame) : Statement (.wack port f) := noDie rfl
theorem rdata (port : Nat) (f : Frame) : Statement (.rdata port f) := noDie rfl
theorem sigack (port : Nat) (f : Frame) : Statement (.sigack port f) := noDie rfl
theorem xack (port : Nat) (f : Frame) : Statement (.xack port f) := noDie rfl
theorem codewordUncorrectable (port : Nat) : Statement (.codewordUncorrectable port) := noDie rfl
theorem portRetrainTrigger (port : Nat) : Statement (.portRetrainTrigger port) := noDie rfl
theorem laneLockLost (port : Nat) (lane : Nat) : Statement (.laneLockLost port lane) := noDie rfl
theorem portRetrainComplete (port : Nat) (ok : Bool) : Statement (.portRetrainComplete port ok) := noDie rfl
theorem portTrain (mark : Mark) (port : Nat) (v : Word32) : Statement (.portTrain mark port v) := noDie rfl
theorem portTrainingComplete (port : Nat) (ok : Bool) : Statement (.portTrainingComplete port ok) := noDie rfl
theorem routeTimeout (route : Nat) : Statement (.routeTimeout route) := noDie rfl
theorem frameAgeExpiry (port : Nat) (m : Nat) : Statement (.frameAgeExpiry port m) := noDie rfl
theorem routeEnable (mark : Mark) (pdie : Nat) (v : Word32) : Statement (.routeEnable mark pdie v) := noDie rfl
theorem avsbusSample (r : RailSample) : Statement (.avsbusSample r) := noDie rfl
theorem pmbusSample (r : PmbusSample) : Statement (.pmbusSample r) := noDie rfl
theorem voltageStep (rail : Nat) (up : Bool) : Statement (.voltageStep rail up) := fun h => dieIs (dieDie (h))
theorem estimatorUpdate (e : EstimatorSample) : Statement (.estimatorUpdate e) := noDie rfl
theorem powerLimitTimeout  : Statement (.powerLimitTimeout) := noDie rfl
theorem levelSlopeStep (die : Nat) (field : Nat) : Statement (.levelSlopeStep die field) := fun h => dieIs (dieDie (andL (h)))
theorem droopTrip (die : Nat) (field : Nat) : Statement (.droopTrip die field) := fun h => dieIs (dieDie (andL (h)))
theorem droopCutEnd (die : Nat) (field : Nat) : Statement (.droopCutEnd die field) := fun h => dieIs (dieDie (andL (h)))
theorem temperatureSample (t : TempSample) : Statement (.temperatureSample t) := noDie rfl
theorem dramOvertempExpiry (dram : Nat) : Statement (.dramOvertempExpiry dram) := fun h => dieIs (dramDie (h))
theorem coolantOkFall  : Statement (.coolantOkFall) := noDie rfl
theorem stopComplete  : Statement (.stopComplete) := noDie rfl
theorem coolantOkRise  : Statement (.coolantOkRise) := noDie rfl
theorem powerGoodRise (pg : Nat) : Statement (.powerGoodRise pg) := noDie rfl
theorem powerGoodFall (pg : Nat) : Statement (.powerGoodFall pg) := noDie rfl
theorem powerGoodTimeout (pg : Nat) : Statement (.powerGoodTimeout pg) := noDie rfl
theorem vddKeelLoss  : Statement (.vddKeelLoss) := noDie rfl
theorem retentionEnter (mark : Mark) (v : Word32) : Statement (.retentionEnter mark v) := noDie rfl
theorem retentionEntered  : Statement (.retentionEntered) := noDie rfl
theorem retentionExit (mark : Mark) (v : Word32) : Statement (.retentionExit mark v) := noDie rfl
theorem retentionExitComplete  : Statement (.retentionExitComplete) := noDie rfl
theorem resetNRise  : Statement (.resetNRise) := noDie rfl
theorem resetNFall  : Statement (.resetNFall) := noDie rfl
theorem nvmImageRead (slot : Nat) : Statement (.nvmImageRead slot) := noDie rfl
theorem bridgeTestComplete (failed : BitVec 4) : Statement (.bridgeTestComplete failed) := noDie rfl
theorem domainOn (d : Nat) : Statement (.domainOn d) := fun h _ hx => domDie h hx
theorem partitionScrubComplete (part : Nat) : Statement (.partitionScrubComplete part) := noDie rfl
theorem startRetryTimer  : Statement (.startRetryTimer) := noDie rfl
theorem startTimeout  : Statement (.startTimeout) := noDie rfl
theorem getStatus (msg : List Byte) : Statement (.getStatus msg) := noDie rfl
theorem nvmErase (msg : List Byte) : Statement (.nvmErase msg) := noDie rfl
theorem nvmWrite (msg : List Byte) : Statement (.nvmWrite msg) := noDie rfl
theorem nvmRead (msg : List Byte) : Statement (.nvmRead msg) := noDie rfl
theorem nvmVerify (msg : List Byte) : Statement (.nvmVerify msg) := noDie rfl
theorem nvmOperationComplete  : Statement (.nvmOperationComplete) := noDie rfl
theorem restart (msg : List Byte) : Statement (.restart msg) := noDie rfl
theorem commitSvn (msg : List Byte) : Statement (.commitSvn msg) := noDie rfl
theorem challenge (msg : List Byte) : Statement (.challenge msg) := noDie rfl
theorem stage (msg : List Byte) : Statement (.stage msg) := noDie rfl
theorem takeOwnership (msg : List Byte) : Statement (.takeOwnership msg) := noDie rfl
theorem releaseOwnership (msg : List Byte) : Statement (.releaseOwnership msg) := noDie rfl
theorem retire (msg : List Byte) : Statement (.retire msg) := noDie rfl
theorem raiseDbgSvn (msg : List Byte) : Statement (.raiseDbgSvn msg) := noDie rfl
theorem getCert (msg : List Byte) : Statement (.getCert msg) := noDie rfl
theorem dbgChallenge (mark : Mark) (v : Word32) : Statement (.dbgChallenge mark v) := noDie rfl
theorem dbgOpen (mark : Mark) (v : Word32) : Statement (.dbgOpen mark v) := noDie rfl
theorem deviceSessionScrubComplete  : Statement (.deviceSessionScrubComplete) := noDie rfl
theorem tetherZeroAck (part : Nat) : Statement (.tetherZeroAck part) := noDie rfl
theorem tetherZeroTimeout  : Statement (.tetherZeroTimeout) := noDie rfl
theorem dbgClose (mark : Mark) (v : Word32) : Statement (.dbgClose mark v) := noDie rfl
theorem closeDevice (mark : Mark) (v : Word32) : Statement (.closeDevice mark v) := noDie rfl
theorem dbgQuiesce (mark : Mark) (v : Word32) : Statement (.dbgQuiesce mark v) := noDie rfl
theorem partitionQuiesced (part : Nat) : Statement (.partitionQuiesced part) := noDie rfl
theorem dbgResume (mark : Mark) (v : Word32) : Statement (.dbgResume mark v) := noDie rfl
theorem attGo (mark : Mark) (v : Word32) : Statement (.attGo mark v) := noDie rfl
theorem attReportDone (part : Nat) : Statement (.attReportDone part) := noDie rfl
theorem entdaa (addr : BitVec 7) : Statement (.entdaa addr) := noDie rfl
theorem setdasa (addr : BitVec 7) : Statement (.setdasa addr) := noDie rfl
theorem setnewda (addr : BitVec 7) : Statement (.setnewda addr) := noDie rfl
theorem rstdaa  : Statement (.rstdaa) := noDie rfl
theorem enec (events : BitVec 8) : Statement (.enec events) := noDie rfl
theorem disec (events : BitVec 8) : Statement (.disec events) := noDie rfl
theorem getpid  : Statement (.getpid) := noDie rfl
theorem getbcr  : Statement (.getbcr) := noDie rfl
theorem getdcr  : Statement (.getdcr) := noDie rfl
theorem getstatus  : Statement (.getstatus) := noDie rfl
theorem getmwl  : Statement (.getmwl) := noDie rfl
theorem getmrl  : Statement (.getmrl) := noDie rfl
theorem i3cPrivateWrite (bytes : List Byte) : Statement (.i3cPrivateWrite bytes) := noDie rfl
theorem registerWrite (mark : Mark) (addr : Nat) (size : Nat) (v : Word64) : Statement (.registerWrite mark addr size v) := noDie rfl
theorem vddKeelBringUp  : Statement (.vddKeelBringUp) := noDie rfl
theorem driftCompensationComplete (ch : Nat) : Statement (.driftCompensationComplete ch) := fun h => dieIs (chDie (h))
theorem creditReturn (port : Nat) (vc : Nat) (units : Nat) : Statement (.creditReturn port vc units) := noDie rfl
theorem openChecksComplete  : Statement (.openChecksComplete) := noDie rfl

end Sys2Proof.Laws.Die
end

