-- ==== Sys2Proof/Tests/Slice0.lean ====
section
/-!
SUPPORT. Tests/Slice0.lean: the model's own tests. For each statement of Obligations.lean they show states and operands that meet its
hypotheses, clause by clause; a smoke test refuses an ill-formed command of each form; a few effects are worked out by hand from the manual.
-/
open Sys2Proof Sys2Proof.Machine
namespace Sys2Proof.Tests

/-- Bytes as cells from an address on, zero bytes unlisted. -/
def cellsAt (a : Nat) (bs : List Byte) : List Host.Cell :=
  ((bs.zipIdx a).map fun b => (b.2, b.1)).filter fun c => c.2 != 0

/-- An instruction word or a command word from its fields, each at its lowest bit (04 R84). -/
def word (fs : List (Nat × Nat)) : Word64 := BitVec.ofNat 64 (fs.foldl (fun v f => v + f.2 * 2 ^ f.1) 0)

/-- An object at offset 0 of its memory with every right. -/
def objAll (part kind len kdata : Nat) : MemObj :=
  { part := part, kind := kind, base := 0, len := len, c := false, a := true, x := true, w := true, r := true
    kdata := BitVec.ofNat 64 kdata, owner := 3, ref := { host := 1, dev := 0, dying := false } }

/-- A context of partition 1 with 8 units of local memory on core 0. -/
def ctx0 : Ctx :=
  { part := 1, vcount := 8, admin := false, handler := true, evRing := 0, evEntries := 0, evWrite := 0, evLost := 0, evSeq := 0, evRead := 0
    evAcked := 0, evSync := 0, evHeld := [], shares := [{ core := 0, first := 0, units := 8 }], holds := [], retained := []
    ref := { host := 1, dev := 0, dying := false }, ending := none }

/-- A path with some lanes at the first instruction of slot 1. -/
def path0 (mask : Word32) : Machine.Path := { pc := 0x0001_0000_0000_0000, mask := mask, joins := [], st := .running, back := 0 }

/-- Where an instruction of that path stands. -/
def stand0 (mask : Word32) : Stand := (path0 mask).stand 0 mask

/-- A group of partition 1 and context 3 with one path; u2:u3 names slot 2, v4:v5 of lanes 0 and 1 too. -/
def group0 (mask : Word32) : Group :=
  { part := 1, ctx := 3, level := 1, block := 7, gib := 0, blockIx := 0, nregs := 64
    vreg := [(0, 5), (1, 6), (1 * 32, 7), (5 * 32, 0x0002_0000), (5 * 32 + 1, 0x0002_0000)]
    ureg := [(1, 0x0001_0000), (3, 0x0002_0000), (4, 32)], preg := [(1, 1)], paths := [(0, path0 mask)], gstatus := 2, row := RowState.zero, park := .running
    parkCount := 0, faultCode := 0, faultAddr := 0, faultLanes := 0, faultPc := 0, faultAt := stand0 mask, replay := none, cmdErr := false, waits := []
    unstored := [], killed := false }

def keel0 : Keel := { State.reset.keel with power := { Power.reset with on := 0xFFFFF } }

def tab0 : Tables :=
  { Tables.reset with
    ctxs := [(3, ctx0)], objs := [(1, objAll 1 0 4096 0), (2, objAll 1 2 4096 3)]
    xlate := [(3 * 16384 + 1, 0xFF00_0000 + 9)] }

/-- The device with every domain on, and the group in slot 0 of core 0's sub-core 0 about to issue a word. -/
def issuing (w : Word64) (mask : Word32 := 3) (g : Group := group0 mask) : State :=
  { State.reset with
    keel := keel0
    fab := { Fab.reset with
      mem := { Mem.reset with nm := cellsAt (cellKey 1 0) (bytesLE 8 w.toNat) }
      tab := tab0
      cores := { Fab.reset.cores with groups := [(0, g)] } } }

def at0 : GroupAt := { core := 0, sub := 0, slot := 0 }

/-- What the sub-core finds to issue as a class, if anything. -/
def found (s : State) (c : XClass) : Option Iss :=
  match issueOf s.keel s.fab at0 (· == c) with
  | .go i => some i
  | _ => none

/-- Whether it finds an instruction of a class with a property. -/
def finds (s : State) (c : XClass) (p : Iss → Bool) : Bool :=
  match issueOf s.keel s.fab at0 (· == c) with
  | .go i => p i
  | _ => false

theorem issues_of {s : State} {c : XClass} {P : Iss → Prop} [DecidablePred P] (h : finds s c (fun i => decide (P i)) = true) :
    ∃ i, Issues s at0 c i ∧ P i := by
  unfold finds at h
  split at h
  · exact ⟨_, ‹_›, by simpa using h⟩
  · cases h

/-- Whether a check ends at a place. -/
def okIs : Except Nat Loc → Loc → Bool
  | .ok x, y => x == y
  | .error _, _ => false

theorem ok_iff (e : Except Nat Loc) (y : Loc) : e = .ok y ↔ okIs e y = true := by
  cases e <;> simp [okIs]

/-- Whether a check ends at places. -/
def okAre : Except Nat (List Loc) → List Loc → Bool
  | .ok x, y => x == y
  | .error _, _ => false

theorem oks_iff (e : Except Nat (List Loc)) (y : List Loc) : e = .ok y ↔ okAre e y = true := by
  cases e <;> simp [okAre]

/-- A partition of one unit of near memory with fourteen L2 ways and no prefetch. -/
def part1 : PartRec :=
  { configured := true, nmUnits := 1, depth := 0, lpdMask := 1, lpdUnits := 1, l2Ways := 0xFFFC, tetherBytes := 4096, adminCtx := 3, adminQueue := 2
    adminSlot := 1, adminKind := 0, adminPrio := 1, adminOff := 0, adminVcount := 8 }

def noPart : PartRec := { part1 with configured := false }

/-- An image that binds partition 1, table 8 and a schedule to it. -/
def image0 : Image :=
  { slot := 0, seq := 1, svn := 0, mImage := [], mPtab := [], lpdRate := 0, partIx := 0, reserves := [], parts := [noPart, part1], localUnits := [(1, 8)]
    l1Ways := [(1, 2)], sched := some { src := 1, port := 0, slots := [0xC100_0002, 0x4100_0003] }
    sft := [{ table := 8, owner := 1, owned := true, image := none }], routes := none, power := PowerCfg.default .kx7240, resload := [], programs := [] }

/-- A state with the image bound. -/
def bound (s : State) : State := { s with keel := { s.keel with image := some image0 } }

/-- A state with changed tables, cores, engines, memory or messages. -/
def withTab (s : State) (g : Tables → Tables) : State := { s with fab := onTab s.fab g }
def withCores (s : State) (g : Cores → Cores) : State := { s with fab := onCores s.fab g }
def withMem (s : State) (g : Mem → Mem) : State := { s with fab := onMem s.fab g }
def withNet (s : State) (n : Table Msg) : State := { s with fab := { s.fab with net := n, nextId := 100 } }

def loc0 (kind off : Nat) : Loc := { kind := kind, part := 1, off := off, core := 0, kdata := 0, c := false }

/-- A load of lane 0 of group 0, with what it has found. -/
def load0 (data : Option (List Byte)) : Load :=
  { gid := 0, part := 1, kind := .plain, dst := 62, scope := 0, op := 0, far := false, operands := []
    pieces := [{ lane := 0, addr := 0, loc := loc0 0 64, size := 8, asked := true, stamp := 0, data := data, fault := 0 }], stand := stand0 1 }

def block0 (gids : List Nat) : Block :=
  { q := 2, j := 0, core := 0, ix := 0, ngroups := gids.length, nregs := 64, slice := 0, sliceAt := 0, ctx := 3, part := 1, level := 1
    entry := 0x0001_0000_0000_0000, args := zeros 64, gids := gids, killed := false }

/-- What parks the group at issue: its code, if anything does. -/
def parksWith (s : State) (c : XClass) : Option Nat :=
  match issueOf s.keel s.fab at0 (· == c) with
  | .park _ code => some code
  | _ => none

theorem parks_of {s : State} {c : XClass} {n : Nat} (h : parksWith s c = some n) :
    ∃ st, issueOf s.keel s.fab at0 (· == c) = .park st n := by
  unfold parksWith at h
  split at h
  · cases h; exact ⟨_, ‹_›⟩
  · cases h

/-- Whether a command has a next state with a property. -/
def does (c : Instr) (s : State) (p : State → Bool) : Bool :=
  match exec c s with
  | .next t => p t
  | _ => false

/-- The tether link up, and a mark that acts for partition 1. -/
def linked (s : State) : State := { s with fab := { s.fab with link := { s.fab.link with state := 1 } } }
def m1 : Mark := { act := 1, part := 1, i3c := false }

/-- A state with the registers of die 0 changed. -/
def die0 (s : State) (g : DieRegs → DieRegs) : State := { s with fab := modDie s.fab 0 g }

/-- Line 2 of partition 1's near memory; its home is on die `home0`, as the image lays it out. -/
def ln : Line := { kind := 0, part := 1, idx := 2 }
def home0 : Home := homeOf (bound (issuing 0)).keel ln
def data0 (dirty : BitVec 4) : LineData := { bytes := List.replicate 128 1, valid := 0xF, dirty := dirty, poison := 0 }
def dir0 (present : BitVec 5) (owner : Option Nat) (txn : Option Txn) : DirEntry :=
  { line := ln, home := home0.die, slice := home0.slice, set_ := home0.set_, present := present, owner := owner, slices := [], use := 0, txn := txn }
def copy0 (die : Nat) (st : LState) (dirty : BitVec 4) : L2Copy :=
  { die := die, slice := home0.slice, set_ := home0.set_, way := 2, line := ln, st := st, d := data0 dirty, use := 0, prefetched := false, flaw := .ok }

/-- The device with the line's entry and copies, and one message 4 in flight. -/
def coh (e : List DirEntry) (cs : List L2Copy) (m : Msg) : State :=
  withNet (withMem (bound (issuing 0)) fun x => { x with dir := e, l2 := cs }) [(4, m)]

/-- Nothing else is under way, message 4 is the one the home serves next, no parity error awaits the line, and the home's eviction buffer does not
hold it. -/
abbrev Served (s : State) : Prop := Quiet s ∧ HasTurn s 4 ln ∧ Intact s ln ∧ findEvb s.fab.mem home0.die ln = none

def okE {α : Type} : Except Nat α → Bool
  | .ok _ => true
  | .error _ => false

theorem ok_of {α : Type} {e : Except Nat α} (h : okE e = true) : ∃ r, e = .ok r := by
  cases e with
  | ok r => exact ⟨r, rfl⟩
  | error c => cases h

/-- Whether a check ends well with a property. -/
def okWith {α : Type} (e : Except Nat α) (p : α → Bool) : Bool :=
  match e with
  | .ok x => p x
  | .error _ => false

def errIs {α : Type} : Except Nat α → Nat → Bool
  | .ok _, _ => false
  | .error x, y => x == y

theorem err_of {α : Type} {e : Except Nat α} {n : Nat} (h : errIs e n = true) : e = .error n := by
  cases e with
  | ok r => cases h
  | error c => simp [errIs] at h; rw [h]

theorem of_ok {e : Except Nat Loc} {y : Loc} (h : okIs e y = true) : e = .ok y := (ok_iff e y).2 h

/-- An arithmetic word (04 R90) with opcode, destination, sources and kinds. -/
def alu (opc dst sa sb sc dk ak bk ck ty : Nat) : Word64 :=
  word [(48, opc), (40, dst), (32, sa), (24, sb), (16, sc), (14, dk), (12, ak), (10, bk), (8, ck), (4, ty)]

theorem witness_LaneResults :
    (∃ i, Issues (issuing (alu 0x00 3 0 1 0 0 0 0 2 1)) at0 .integer i ∧ i.act = 3) ∧
    (∃ i, Issues (issuing (alu 0x20 1 0 1 0 2 0 0 2 1)) at0 .cmp i ∧ i.act = 3) ∧
    (∃ i, Issues (issuing (alu 0x28 2 1 0 0 2 2 0 2 1)) at0 .pred i ∧ i.act = 3) ∧
    (∃ i, Issues (issuing (alu 0x30 3 0 0 0 0 0 0 2 1)) at0 .mov i ∧ i.act = 3) ∧
    (∃ i, Issues (issuing (word [(48, 0x31), (40, 63), (8, 0xFFFFFFFF), (6, 0)])) at0 .movI32 i ∧ i.act = 3) ∧
    (∃ i, Issues (issuing (alu 0x32 3 1 0 1 0 2 0 0 1)) at0 .sel i ∧ i.act = 3) ∧
    ∃ i, Issues (issuing (alu 0x34 3 0 1 0 0 0 0 2 1)) at0 .xlane i ∧ i.act = 3 := by
  and_intros <;> exact issues_of (by decide)

theorem witness_FlaggedResults :
    (∃ i, Issues (issuing (alu 0x40 3 0 1 0 0 0 0 2 0)) at0 .float i ∧ i.act = 3) ∧
    (∃ i, Issues (issuing (alu 0x40 3 1 1 0 1 1 1 2 0)) at0 .float i ∧ i.act = 3) ∧
    (∃ i, Issues (issuing (alu 0x33 3 0 1 0 0 0 2 2 0)) at0 .cvt i ∧ i.act = 3) ∧
    ∃ i, Issues (issuing (alu 0x80 3 0 0 0 0 0 2 2 0)) at0 .sfLookup i ∧ (sftFor keel0 Fab.reset i.die (xOpc i.w - 0x80) i.g.part).isSome = true := by
  and_intros <;> exact issues_of (by decide)

/-- A row of one element −5 of statistics, whose exponentials add up to 3. -/
def row1 : RowState :=
  { RowState.zero with
    sum := .fin false 3 0, exactSum := .fin false 3 0, s1 := .fin true 5 0, s2 := .fin false 25 0, exact1 := .fin true 5 0
    exact2 := .fin false 25 0, exactAbs := .fin false 5 0, cnt := 1, live := 1 }

theorem witness_RowResults :
    (∃ i, Issues (issuing (alu 0x80 3 0 1 0 0 0 2 2 0)) at0 .sfAcc i ∧ i.act ≠ 0) ∧
    (∃ i, Issues (issuing (alu 0x83 3 0 4 0 0 0 2 2 0)) at0 .sfSacc i ∧ i.act ≠ 0) ∧
    (∃ i, Issues (issuing (alu 0x80 3 0 2 0 0 0 2 2 0)) at0 .sfNorm i ∧ i.act ≠ 0) ∧
    (∃ i, Issues (issuing (alu 0x80 3 0 3 0 0 0 2 2 0)) at0 .sfRead i ∧ i.act ≠ 0) ∧
    (∃ i, Issues (issuing (alu 0x80 3 0 0x1B 0 0 0 2 2 0)) at0 .sfRead i ∧ bitAt (aImm i.w) 3 = true) ∧
    (∃ i, Issues (issuing (alu 0x83 3 0 5 0 0 0 2 2 0)) at0 .sfMean i ∧ i.act ≠ 0 ∧ i.g.row.cnt = 0) ∧
    (∃ i, Issues (issuing (alu 0x83 3 0 6 0 0 0 2 2 0)) at0 .sfVar i ∧ i.act ≠ 0) ∧
    (∃ i, Issues (issuing (alu 0x83 3 0 7 0 0 0 2 2 0)) at0 .sfRms i ∧ i.act ≠ 0) ∧
    (∃ i, Issues (issuing (alu 0x83 3 0 5 0 0 0 2 2 0 ||| word [(60, 1), (57, 1)]) 2) at0 .sfMean i ∧ i.act = 0) ∧
    (let x := decodeNum (typeFmt 0) 0x3F800000
     row1.live ≠ 0 ∧ row1.sum = .fin false 3 0 ∧ row1.exactSum = .fin false 3 0 ∧ (rowInput x).1 = false ∧ x.isNan = false) ∧
    row1.cnt ≠ 0 ∧ row1.s1 = .fin true 5 0 ∧ row1.s2 = .fin false 25 0 ∧ row1.exact1 = .fin true 5 0 ∧ row1.exact2 = .fin false 25 0 ∧
      row1.exactAbs = .fin false 5 0 := by
  and_intros <;> first | exact issues_of (by decide) | decide

/-- A control word (04 R96): guard on P1 where asked, fields, target. -/
def ctl (opc : Nat) (fs : List (Nat × Nat)) (p1 : Bool := false) : Word64 :=
  word ([(61, 4), (48, opc)] ++ (if p1 then [(60, 1), (57, 1)] else []) ++ fs)

theorem witness_UniformControl :
    (∃ i, Issues (issuing (ctl 0 [])) at0 .nop i ∧ i.act = 3) ∧
    (∃ i, Issues (issuing (ctl 1 [(24, 5)])) at0 .br i ∧ i.p.mask ≠ 0 ∧ ∀ l ∈ lanes i.p.mask, i.act.getLsbD l = true) ∧
    (∃ i, Issues (issuing (ctl 2 [(24, 5), (0, 9)] true) 2) at0 .brJoin i ∧ i.p.mask ≠ 0 ∧ ∀ l ∈ lanes i.p.mask, i.act.getLsbD l = false) ∧
    (∃ i, Issues (issuing (ctl 3 [(40, 4)])) at0 .brInd i ∧ i.p.mask ≠ 0 ∧
      ∀ l ∈ lanes i.p.mask, i.act.getLsbD l = true ∧ vpair i.g (mD i.w) l = 0x0002_0000_0000_0000) ∧
    (∃ i, Issues (issuing (ctl 3 [(40, 4)] true) 2) at0 .brInd i ∧ i.p.mask ≠ 0 ∧ ∀ l ∈ lanes i.p.mask, i.act.getLsbD l = false) ∧
    (∃ i, Issues (issuing (ctl 4 [(24, 5), (16, 62)] true) 2) at0 .call i ∧ i.act = 0) ∧
    ∃ i, Issues (issuing (ctl 4 [(24, 5), (16, 62)])) at0 .call i ∧ i.act ≠ 0 := by
  and_intros <;> exact issues_of (by decide)

theorem witness_Divergence :
    (∃ i, Issues (issuing (ctl 2 [(24, 5), (0, 9)] true)) at0 .brJoin i ∧ i.g.paths = [(i.key, i.p)] ∧ i.act ≠ 0 ∧ i.p.mask &&& ~~~i.act ≠ 0 ∧
      cJoin i.w ≠ 0 ∧ wordsFrom i.p.pc (cTarget i.w) ≠ i.p.pc + 8 ∧ wordsFrom i.p.pc (cTarget i.w) ≠ wordsFrom i.p.pc (cJoin i.w) ∧
      i.p.pc + 8 ≠ wordsFrom i.p.pc (cJoin i.w)) ∧
    ∃ i, Issues (issuing (ctl 2 [(24, 2 ^ 24 - 1), (0, 9)] true)) at0 .brJoin i ∧ i.g.paths = [(i.key, i.p)] ∧ i.act ≠ 0 ∧
      i.p.mask &&& ~~~i.act ≠ 0 ∧ (wordsFrom i.p.pc (cTarget i.w)).toNat < (i.p.pc + 8).toNat ∧
      wordsFrom i.p.pc (cTarget i.w) ≠ wordsFrom i.p.pc (cJoin i.w) ∧ i.p.pc + 8 ≠ wordsFrom i.p.pc (cJoin i.w) := by
  and_intros <;> exact issues_of (by decide)

theorem witness_PathsMerge :
    let js : List Word64 := [0x0001_0000_0000_0008]
    let q : Machine.Path := { path0 2 with pc := 0x0001_0000_0000_0008, joins := js, st := .arrived }
    ∃ i, Issues (issuing (ctl 0 []) 1 { group0 1 with paths := [(0, q), (1, { path0 1 with joins := js })] }) at0 .nop i ∧
      i.key = 1 ∧ i.p.joins = (i.p.pc + 8) :: [] ∧ q.joins = i.p.joins ∧ q.pc = i.p.pc + 8 ∧ i.g.paths = [(0, q), (i.key, i.p)] :=
  issues_of (by decide)

theorem witness_ExitEndsLanes :
    (∃ i, Issues (issuing (ctl 5 [] true)) at0 .exit i ∧ i.act ≠ 0 ∧ i.p.mask &&& ~~~i.act ≠ 0) ∧
    ∃ i, Issues (issuing (ctl 5 [])) at0 .exit i ∧ i.act ≠ 0 ∧ i.p.mask &&& ~~~i.act = 0 ∧ i.g.paths = [(i.key, i.p)] := by
  and_intros <;> exact issues_of (by decide)

theorem witness_SpecialSources :
    (∃ i, Issues (issuing (ctl 0x10 [(32, 0), (40, 63)])) at0 .rdSrc i ∧ i.act ≠ 0 ∧ xf i.w 32 8 < 0x10) ∧
    (∃ i, Issues (issuing (ctl 0x10 [(32, 9), (40, 63), (30, 1), (29, 1)])) at0 .rdSrc i ∧ i.act ≠ 0 ∧ i.w.getLsbD 29 = true) ∧
    ∃ i, Issues (issuing (ctl 0x10 [(32, 0x13), (40, 62), (30, 1)])) at0 .rdSrc i ∧ i.act ≠ 0 ∧ 0x10 ≤ xf i.w 32 8 := by
  and_intros <;> exact issues_of (by decide)

/-- An asynchronous word (04 R102) and a sync word (04 R95). -/
def eng (opc : Nat) (fs : List (Nat × Nat)) : Word64 := word ([(61, 2), (48, opc)] ++ fs)
def syn (opc : Nat) (fs : List (Nat × Nat)) : Word64 := word ([(61, 3), (48, opc)] ++ fs)

/-- The group at another address, and with a poisoned first sector. -/
def standing (pc : Word64) : State := issuing 0 3 { group0 3 with paths := [(0, { path0 3 with pc := pc })] }
def poisoned0 : State := withMem (issuing 0) fun m => { m with poison := [sectorKey 1 0] }

theorem picks_of {s : State} {g : Group} (p : Machine.Path) (h1 : findGroup s.fab 0 = some g) (h2 : picked s.keel s.fab 0 g = true)
    (h3 : g.running = some (0, p)) : Picks s at0 g 0 p := ⟨by decide, by decide, h1, h2, h3⟩

theorem witness_IssueFaultsPark :
    (let p := { path0 3 with pc := 0x0009_0000_0000_0000 }
     Picks (standing p.pc) at0 { group0 3 with paths := [(0, p)] } 0 p ∧ checkAt (standing p.pc).fab 1 none .fetch p.pc 8 8 = .error 0x0202) ∧
    (let p := { path0 3 with pc := 0x0001_0000_0000_0004 }
     Picks (standing p.pc) at0 { group0 3 with paths := [(0, p)] } 0 p ∧ checkAt (standing p.pc).fab 1 none .fetch p.pc 8 8 = .error 0x0204) ∧
    (Picks poisoned0 at0 (group0 3) 0 (path0 3) ∧ checkAt poisoned0.fab 1 none .fetch (path0 3).pc 8 8 = .ok (loc0 0 0) ∧
      cached poisoned0.keel (loc0 0 0) = false ∧ (peek poisoned0.keel poisoned0.fab (loc0 0 0) 8).2 = true) ∧
    (let w := word [(61, 5)]
     Picks (issuing w) at0 (group0 3) 0 (path0 3) ∧ fetch (issuing w).keel (issuing w).fab 1 (path0 3).pc = .word w ∧ xClass w = none ∧
      faultable (group0 3) w (path0 3) ≠ 0) ∧
    (let w := alu 0 64 0 1 0 0 0 0 2 1
     Picks (issuing w) at0 (group0 3) 0 (path0 3) ∧ fetch (issuing w).keel (issuing w).fab 1 (path0 3).pc = .word w ∧ xClass w = some .integer ∧
      faultable (group0 3) w (path0 3) ≠ 0 ∧ (xVregs .integer w).any ((group0 3).nregs ≤ ·) = true) ∧
    (XClass.integer, Instr.integerArithmetic at0) ∈ issuingRows at0 ∧
    (∃ i, Issues (issuing (ctl 1 [(24, 5)] true)) at0 .br i ∧ cJoin i.w = 0 ∧ i.act ≠ 0 ∧ i.p.mask &&& ~~~i.act ≠ 0 ∧
      wordsFrom i.p.pc (cTarget i.w) ≠ i.p.pc + 8) ∧
    (∃ i, Issues (issuing (ctl 3 [(40, 0)])) at0 .brInd i ∧ cJoin i.w = 0 ∧ i.act = i.p.mask ∧ 0 ∈ lanes i.act ∧ 1 ∈ lanes i.act ∧
      vpair i.g (mD i.w) 0 ≠ vpair i.g (mD i.w) 1) ∧
    (∃ i, Issues (issuing (eng 1 [(38, 1), (40, 0)])) at0 .cpIssue i ∧ i.act ≠ 0 ∧ descCheck (issuing (eng 1 [(38, 1), (40, 0)])).fab i .copy (descAddr i) = none) ∧
    (∃ i, Issues (issuing (eng 2 [(38, 1), (40, 0)])) at0 .rtIssue i ∧ i.act ≠ 0 ∧ descCheck (issuing (eng 2 [(38, 1), (40, 0)])).fab i .routing (descAddr i) = none) ∧
    (∃ i, Issues (issuing (alu 0x88 3 0 0 0 0 0 2 2 0)) at0 .sfLookup i ∧ i.act ≠ 0 ∧ sftFor keel0 Fab.reset i.die (xOpc i.w - 0x80) i.g.part = none) ∧
    (∃ i, Issues (issuing (syn 8 [(34, 2), (6, 1), (16, 1)])) at0 .cntSig i ∧ i.act ≠ 0 ∧
      translate (issuing (syn 8 [(34, 2), (6, 1), (16, 1)])).fab i.g.ctx (syncCid i.g i.w) .sig = none) ∧
    entriesOf (issuing 0).fab (GroupAtGid at0) = [] := by
  and_intros <;> first | exact issues_of (by decide) | decide | exact err_of (by decide) | exact of_ok (by decide)

theorem witness_FenceCompletes :
    (∃ i, Issues (issuing (syn 0 [(6, 3), (4, 2)])) at0 .fence i ∧ i.act ≠ 0 ∧ KeysDistinct i.g ∧
      fenceHolds (issuing (syn 0 [(6, 3), (4, 2)])).fab i.gid i.g i.p.mask (yScope i.w) (yKind i.w) = true) ∧
    let s := withCores (issuing (syn 0 [(6, 0), (4, 0)])) fun c => { c with loads := [(5, load0 none)] }
    ∃ i, Issues s at0 .fence i ∧ i.act ≠ 0 ∧ entriesOf s.fab i.gid = [] ∧ KeysDistinct i.g ∧
      fenceHolds s.fab i.gid i.g i.p.mask (yScope i.w) (yKind i.w) = false := by
  and_intros <;> exact issues_of (by decide)

theorem witness_CounterInstructions :
    let s := issuing (syn 8 [(34, 1), (6, 3), (16, 0xFFFF)])
    let r := issuing (syn 9 [(34, 1), (6, 1), (16, 1), (8, 7)]) 3
      { group0 3 with waits := [0, 1, 2].map fun x => (x, { phys := 9, consume := true, pred := 0, scope := 1, act := 1 }) }
    (∃ i, Issues s at0 .cntSig i ∧ i.act ≠ 0 ∧ KeysDistinct i.g ∧ translate s.fab i.g.ctx (syncCid i.g i.w) .sig = some 9 ∧
      entriesOf s.fab i.gid = [] ∧ fenceHolds s.fab i.gid i.g i.p.mask (yScope i.w) 1 = true ∧ syncN i.g i.w ≠ 0) ∧
    (∃ i, Issues (issuing (syn 8 [(34, 1), (6, 3)])) at0 .cntSig i ∧ syncN i.g i.w = 0) ∧
    (∃ i, Issues (issuing (syn 0x0B [(34, 1), (6, 1), (14, 1), (16, 1)])) at0 .cntSet i ∧ translate s.fab i.g.ctx (syncCid i.g i.w) .set_ = some 9) ∧
    (∃ i, Issues (issuing (syn 0x0C [(34, 1), (6, 1), (8, 63)])) at0 .cntRd i ∧ translate s.fab i.g.ctx (syncCid i.g i.w) .rd = some 9) ∧
    (∃ i, Issues (issuing (syn 0x0A [(34, 1), (6, 1), (16, 1)])) at0 .cntOwait i ∧ translate s.fab i.g.ctx (syncCid i.g i.w) .ow = some 9 ∧
      ∀ x, x < 4 → ((tfind i.g.waits x).isNone ↔ 0 ≤ x)) ∧
    ∃ i, Issues r at0 .cntCwait i ∧ translate r.fab i.g.ctx (syncCid i.g i.w) .cw = some 9 ∧ ∀ x, x < 4 → ((tfind i.g.waits x).isNone ↔ 3 ≤ x) := by
  and_intros <;> exact issues_of (by decide)

theorem witness_EngineIssue :
    let s := fun o => issuing (eng o [(38, 1), (40, 2)])
    (∃ i, Issues (s 0) at0 .mxIssue i ∧ i.act ≠ 0 ∧ descCheck (s 0).fab i .matrix (descAddr i) = some 0 ∧ i.w.getLsbD 31 = false) ∧
    (∃ i, Issues (s 1) at0 .cpIssue i ∧ i.act ≠ 0 ∧ descCheck (s 1).fab i .copy (descAddr i) = some 0 ∧ i.w.getLsbD 31 = false) ∧
    (∃ i, Issues (s 2) at0 .rtIssue i ∧ i.act ≠ 0 ∧ descCheck (s 2).fab i .routing (descAddr i) = some 0 ∧ i.w.getLsbD 31 = false) ∧
    let n := withNet (s 0) [(4, .capture .matrix 0 3 1 1 0x0002_0000_0000_0000 (zeros 64)), (5, .pair 9 0 0)]
    tfind n.fab.net 4 = some (.capture .matrix 0 3 1 1 0x0002_0000_0000_0000 (zeros 64)) ∧ ∀ x ∈ n.fab.net, ¬ x.1 < 4 := by
  and_intros <;> first | exact issues_of (by decide) | decide

theorem witness_BlockBarrier :
    let w := syn 0x10 [(16, 15)]
    let two := fun o : Group => withCores (issuing w) fun c => { c with groups := [(0, group0 3), (17, o)], blocks := [(7, block0 [0, 17])] }
    let p := { path0 3 with st := .waitBarrier 15 }
    let o := { group0 3 with paths := [(4, p)] }
    (∃ i, Issues (two (group0 3)) at0 .barBlk i ∧ i.act ≠ 0 ∧ KeysDistinct i.g ∧ entriesOf (two (group0 3)).fab i.gid = [] ∧
      tfind (two (group0 3)).fab.cores.blocks i.g.block = some (block0 [0, 17]) ∧ i.gid ∈ [0, 17] ∧ 17 ≠ i.gid ∧
      ∀ m, m < 16 → atBarrier (two (group0 3)).fab m 17 = false) ∧
    ∃ i, Issues (two o) at0 .barBlk i ∧ i.act ≠ 0 ∧ tfind (two o).fab.cores.blocks i.g.block = some (block0 [i.gid, 17]) ∧ i.gid ≠ 17 ∧
      15 = (if yNk i.w = 0 then xf i.w 16 16 else 0) % 16 ∧ atBarrier (two o).fab 15 17 = true ∧ findGroup (two o).fab 17 = some o ∧
      p.joins.head? ≠ some p.pc ∧ i.g.paths = [(i.key, i.p)] ∧ loadsOf (two o).fab i.gid = [] ∧ i.p.joins.head? ≠ some (i.p.pc + 8) := by
  and_intros <;> exact issues_of (by decide)

/-- A memory word (04 R92): base in u2:u3 (slot 2, local memory) or u0:u1 (slot 1, near memory), of scope 0. -/
def memw (opc d a s sk size off : Nat) : Word64 :=
  word [(61, 1), (48, opc), (40, d), (32, a), (24, s), (22, 1), (20, sk), (15, size), (0, off)]

def cachedNear (w : Word64) : State := withTab (bound (issuing w 1)) fun t => { t with objs := [(1, { objAll 1 0 4096 0 with c := true })] }

theorem witness_LoadsFindBytes :
    let s := issuing (memw 0 60 2 0 0 4 4)
    (∃ i, Issues s at0 .ld i ∧ i.act ≠ 0 ∧ entriesOf s.fab i.gid = [] ∧ LocalPlaces s i .ld .load (mBytes i.w) (fun _ => loc0 2 64) ∧
      coreStores s.fab i.core (loc0 2 64) = false) ∧
    let c := cachedNear (memw 0 0 0 0 0 0 4095)
    ∃ i, Issues c at0 .ld i ∧ lanes i.act = [0] ∧
      check c.fab i.g.part (some i.core) .load (effAddr i.g .ld i.w 0).1 (effAddr i.g .ld i.w 0).2 (mBytes i.w) (mBytes i.w) =
        .ok { loc0 0 4095 with c := true } ∧ cached c.keel { loc0 0 4095 with c := true } = true ∧ c.fab.mem.l1 = [] ∧
      findL2 c.fab.mem i.die (lineOf (loc0 0 4095)) = none ∧ findEvb c.fab.mem i.die (lineOf (loc0 0 4095)) = none ∧
      coreStores c.fab i.core { loc0 0 4095 with c := true } = false ∧ readAsked c.fab i.die (lineOf (loc0 0 4095)) = false ∧ prefetchDepth c.keel i.g.part = 0 := by
  simp only [LocalPlaces, ok_iff]
  exact ⟨issues_of (by decide), issues_of (by decide)⟩

theorem witness_LoadsWriteRegisters :
    let s := withCores (issuing 0) fun c => { c with loads := [(5, load0 (some (zeros 8)))] }
    findLoad s.fab 5 = some (load0 (some (zeros 8))) ∧ olderPending s.fab 5 (load0 (some (zeros 8))) = false ∧
    findGroup s.fab 0 = some (group0 3) ∧ (group0 3).killed = false ∧ (group0 3).paths ≠ [] ∧ NoneWaits s := by
  and_intros <;> first | decide | simp [NoneWaits, withCores, issuing, onCores, group0, path0]

theorem witness_StoresLand :
    let s := issuing (memw 1 0 2 60 0 4 16)
    (∃ i, Issues s at0 .st i ∧ i.act ≠ 0 ∧ sbOf s.fab (i.gid / 16) = [] ∧ LocalPlaces s i .st .st (mBytes i.w) fun _ => loc0 2 256) ∧
    let n := issuing (memw 1 0 0 60 0 4 7) 1
    ∃ i, Issues n at0 .st i ∧ lanes i.act = [0] ∧ sbOf n.fab (i.gid / 16) = [] ∧
      check n.fab i.g.part (some i.core) .st (effAddr i.g .st i.w 0).1 (effAddr i.g .st i.w 0).2 (mBytes i.w) (mBytes i.w) = .ok (loc0 0 112) ∧
      (loc0 0 112).off % 128 + mBytes i.w ≤ 128 := by
  simp only [LocalPlaces, ok_iff]
  exact ⟨issues_of (by decide), issues_of (by decide)⟩

theorem witness_FragmentsMove :
    let l := issuing (memw 0x20 56 2 4 1 5 0) 0xFFFFFFFF
    let t := issuing (memw 0x21 56 2 4 1 5 0) 0xFFFFFFFF
    let r := issuing (memw 2 60 2 4 1 0 0)
    (∃ i, Issues l at0 .fragLd i ∧ i.act = 0xFFFFFFFF ∧ ∀ x : Nat, x < 32 → check l.fab i.g.part (some i.core) .load (effAddr i.g .fragLd i.w 0).1
      ((effAddr i.g .fragLd i.w 0).2 + x * (uget i.g (mS i.w)).toNat) (mBytes i.w) (mBytes i.w) = .ok (loc0 2 (32 * x)) ∧
      locBad l.fab.mem 0 (32 * x) (mBytes i.w) = false) ∧
    (∃ i, Issues t at0 .fragSt i ∧ i.act = 0xFFFFFFFF ∧ ∀ x : Nat, x < 32 → check t.fab i.g.part (some i.core) .store (effAddr i.g .fragSt i.w 0).1
      ((effAddr i.g .fragSt i.w 0).2 + x * (uget i.g (mS i.w)).toNat) (mBytes i.w) (mBytes i.w) = .ok (loc0 2 (32 * x)) ∧
      (loc0 2 (32 * x)).core = i.core ∧ 32 * x + mBytes i.w ≤ 2 ^ 21) ∧
    ∃ i, Issues r at0 .ldTr i ∧ i.act ≠ 0 ∧ ∀ x ∈ lanes i.act,
      trCheck r.fab i x (2 ^ mSize i.w) (uget i.g (mS i.w)).toNat = .ok ((List.range 16).map fun n => loc0 2 (32 * n)) := by
  simp only [ok_iff, oks_iff]
  and_intros <;> exact issues_of (by decide)

/-- Core 0 holds one word of local memory at 64, and lane 0 a reservation of it where asked. -/
def wordAt64 (s : State) (v : Nat) (reserved : Bool) : State := withMem s fun m => { m with
  loc := cellsAt (locKey 0 64) (bytesLE 4 v)
  resv := if reserved then [{ gid := 0, lane := 0, loc := loc0 2 64, gran := 128, granule := false, use := 0 }] else [] }

theorem witness_LocalAtomics :
    let s := fun w v r => wordAt64 (issuing w 1) v r
    let at_ := fun _ : Nat => loc0 2 64
    (∃ i, Issues (s (memw 0x11 60 2 4 0 3 8) 1 false) at0 .atomic i ∧ lanes i.act = [0] ∧ xOpc i.w = 0x11 ∧
      LocalPlaces (s (memw 0x11 60 2 4 0 3 8) 1 false) i .atomic .both (mBytes i.w) at_) ∧
    (∃ i, Issues (s (memw 0x08 63 2 1 0 2 16) 1 false) at0 .atomic i ∧ xOpc i.w ≠ 0x11 ∧
      LocalPlaces (s (memw 0x08 63 2 1 0 2 16) 1 false) i .atomic .both (mBytes i.w) at_) ∧
    (∃ i, Issues (s (memw 0x18 63 2 0 0 0 64) 1 false) at0 .ldRes i ∧ mScope i.w = 0 ∧
      LocalPlaces (s (memw 0x18 63 2 0 0 0 64) 1 false) i .ldRes .both (mBytes i.w) at_) ∧
    (∃ i, Issues (s (memw 0x19 3 2 1 0 2 16) 1 true) at0 .stCond i ∧ mScope i.w = 0 ∧
      LocalPlaces (s (memw 0x19 3 2 1 0 2 16) 1 true) i .stCond .both (mBytes i.w) at_ ∧
      (s (memw 0x19 3 2 1 0 2 16) 1 true).fab.mem.resv.any (fun r => r.gid == i.gid && r.lane == 0 && r.meets (at_ 0) 1) = true) ∧
    (let u := s (memw 0x19 3 2 1 0 2 16) 1 true
     let u := { u with keel := { u.keel with image := some { image0 with resload := [0, 1] } } }
     granuleOf u.keel 1 = some 128 ∧ ∃ i, Issues u at0 .stCond i ∧ mScope i.w = 0 ∧ LocalPlaces u i .stCond .both (mBytes i.w) at_ ∧
       u.fab.mem.resv.any (fun r => r.gid == i.gid && r.lane == 0 && r.meets (at_ 0) 1) = true) ∧
    (∃ i, Issues (s (memw 0x19 3 2 1 0 2 16) 1 false) at0 .stCond i ∧ (s (memw 0x19 3 2 1 0 2 16) 1 false).fab.mem.resv = []) ∧
    (let u := withMem (s (memw 0x19 3 2 1 0 2 16) 1 true) fun m => { m with failedLane := [{ gid := 0, lane := 0, line := lineOf (at_ 0), n := 63 }] }
     granuleOf u.keel 1 = none ∧ ∃ i, Issues u at0 .stCond i ∧ mScope i.w = 0 ∧ LocalPlaces u i .stCond .both (mBytes i.w) at_ ∧
       u.fab.mem.badWords = [] ∧ u.fab.mem.resv.any (fun r => r.gid == i.gid && r.lane == 0 && r.meets (at_ 0) 1) = true ∧
       63 ≤ condFails u.fab i.gid 0 (lineOf (at_ 0))) ∧
    (∃ i, Issues (s (memw 0x28 0 2 0 0 2 16) 0 false) at0 .lockAcq i ∧
      LocalPlaces (s (memw 0x28 0 2 0 0 2 16) 0 false) i .lockAcq .both 4 at_ ∧
      leNat (locBytes (s (memw 0x28 0 2 0 0 2 16) 0 false).fab.mem i.core 64 4) = 0) ∧
    ∃ i, Issues (s (memw 0x29 0 2 0 0 2 16) 1 false) at0 .lockRel i ∧
      LocalPlaces (s (memw 0x29 0 2 0 0 2 16) 1 false) i .lockRel .both 4 at_ ∧ KeysDistinct i.g ∧
      fenceHolds (s (memw 0x29 0 2 0 0 2 16) 1 false).fab i.gid i.g i.p.mask (mScope i.w + 1) 1 = true ∧ (i.g.paths.all fun q => q.2.st == .running) = true ∧ i.gid < 2 ^ 20 ∧
      leNat (locBytes (s (memw 0x29 0 2 0 0 2 16) 1 false).fab.mem i.core 64 4) = holderOf i.gid 0 := by
  simp only [LocalPlaces, ok_iff]
  and_intros <;> first | decide | exact issues_of (by decide)

theorem prefetch0 (s : State) (p : Nat) : prefetchDepth (bound s).keel p = 0 := by
  rcases p with _ | _ | p <;> rfl

def entry0 (closed : Option Nat) (c : Bool) : SbEntry :=
  { id := 5, gid := 0, slot := 1, loc := { loc0 0 128 with c := c }, bytes := List.replicate 128 (some 1), closed := closed, issued := closed.isSome, done := false
    door := false }

theorem witness_StoreBufferDrains :
    let lock := issuing 0 1 { group0 1 with paths := [(0, { path0 1 with st := .waitLock [loc0 2 64] })] }
    let ack := withNet (withCores (issuing 0) fun c => { c with sb := [(0, [entry0 (some 1) false])] }) [(4, .storeAck 0 0 5 false)]
    let age := fun c => withCores (bound (issuing 0)) fun x => { x with sb := [(3, [entry0 none c])] }
    ((findGroup lock.fab (GroupAtGid at0)).bind fun g => tfind g.paths 0) = some { path0 1 with st := .waitLock [loc0 2 64] } ∧
    tfind ack.fab.net 4 = some (.storeAck 0 0 5 false) ∧ (sbOf ack.fab 0).find? (·.id == 5) = some (entry0 (some 1) false) ∧
    findGroup ack.fab 0 = some (group0 3) ∧ ack.fab.cores.loads = [] ∧ (∀ x ∈ ack.fab.cores.groups, x.2.unstored = []) ∧ NoneWaits ack ∧
    (sbOf (age false).fab 3).find? (fun x => x.id == 5 && x.closed.isNone) = some (entry0 none false) ∧
    cached (age false).keel (entry0 none false).loc = false ∧ cached (age true).keel (entry0 none true).loc = true ∧
    findL2 (age true).fab.mem 0 (lineOf (entry0 none true).loc) = none ∧ (age true).fab.mem.evb = [] ∧ (age true).fab.mem.lost = [] ∧
    (∀ p, prefetchDepth (age true).keel p = 0) ∧ ownAsked (age true).fab 0 (lineOf (entry0 none true).loc) = false := by
  and_intros <;> first | decide | exact prefetch0 _ | simp [NoneWaits, withNet, withCores, issuing, onCores, group0, path0]

theorem witness_BlockBecomesResident :
    let s := withCores (issuing 0) fun c => { c with groups := [], waiting := [{ block0 [] with ngroups := 3, args := List.replicate 64 1 }] }
    s.fab.cores.waiting.length = 1 ∧ mayReside s.keel s.fab [] { block0 [] with ngroups := 3, args := List.replicate 64 1 } = true ∧
    does (.blockResident 0) s (fun t => t.fab.cores.groups.length == 3 && t.fab.cores.groups.all fun e => uget e.2 15 == 0x01010101) = true := by
  decide

theorem witness_ParkReplayKill :
    let g := fun p => { group0 3 with park := p, paths := [(0, { path0 3 with st := .ready })] }
    let s := fun p => linked (withCores (issuing 0 3 (g p)) fun c => { c with blocks := [(7, block0 [0])] })
    let k := withCores (issuing 0 3 { g .parked with killed := true }) fun c => { c with blocks := [(7, { block0 [0] with killed := true })] }
    (findGroup (s .parking).fab (GroupAtGid at0) = some (g .parking) ∧ drained (s .parking).fab 0 = true ∧
      mayRun (s .parking).keel 1 = true ∧ (findCtx (s .parking).fab 3).any (·.handler) = true) ∧
    (Arrives (s .parked) m1 0 ∧ parkGroup (s .parked).keel (s .parked).fab m1 0 = some (0, g .parked) ∧ KeysDistinct (g .parked) ∧
      tfind (s .parked).fab.cores.blocks 7 = some (block0 [0])) ∧
    tfind k.fab.cores.blocks 7 = some { block0 [0] with killed := true } ∧ loadsOf k.fab 0 = [] ∧ entriesOf k.fab 0 = [] ∧ findGroup k.fab 0 = some { g .parked with killed := true } := by
  decide

theorem witness_FlagsAndBeats :
    let s := linked (die0 (issuing 0) fun d => { d with nfClass := 1, nfPart := 1, nfIndex := 191 })
    Arrives s m1 3 ∧ actsFor s.keel m1 (fld (0x0100_0000 : Word32).toNat 24 4) = true ∧
    (dieRegs (die0 s fun d => { d with scanBusy := true }).fab 0).scanBusy = true ∧ nflagSel s.keel s.fab m1 0 = some (arrayFlagKey 191 1) ∧
    (0x0001_0001 : Word32).getLsbD 0 = true ∧ actsFor s.keel m1 (fld (0x0001_0001 : Word32).toNat 16 4) = true ∧
    (dieRegs (die0 s fun d => { d with beatBusy := true }).fab 0).beatBusy = true ∧ domainOn s.keel (unitDom 0 0 0) = true ∧
    (classUnits 0 ≤ 800 ∧ domainOn { s.keel with power := { s.keel.power with on := 1 } } (unitDom 0 0 0) = false) ∧
    (let f := die0 (withCores (issuing 0) fun c => { c with flags := [(arrayFlagKey 5 1, { flags := 1, ctx := 3 }), (arrayFlagKey 9 1, { flags := 2, ctx := 3 })] }) fun d => { d with
      scanBusy := true, scanClass := 1, scanPart := 1, scanStart := 2 }
     coreOn f.keel (nflagCore 0 1 5) = true ∧ nflagKey 0 1 5 1 = some (arrayFlagKey 5 1) ∧ flagsAt f (arrayFlagKey 5 1) ≠ 0 ∧
     does (.flagScanComplete 0) f (fun t => (dieRegs t.fab 0).scanNext == 5) = true ∧
     does (.flagScanComplete 0) (die0 f fun d => { d with scanStart := 10 }) (fun t => (dieRegs t.fab 0).scanNext == 1023) = true) := by
  decide +kernel

def sftOf (step fault : Nat) (image : List Byte) : SftLoad :=
  { id := 4, step := step, got := true, fault := fault, table := 8, part := 1, src := 0x0001_0000_0000_0000, image := image, promise := false }

/-- A table image of RED 1 (09 R258): its header with some bits, the first segment, and 255 segments of zero. -/
def tableImage (w0 base0 : Nat) : List Byte := (bytesLE 8 (2 ^ 47 + w0) ++ zeros 56 ++ bytesLE 16 base0) ++ zeros 4080

theorem leNat_zeros (n : Nat) : leNat (zeros n) = 0 := by
  induction n with
  | zero => rfl
  | succ n ih => simp [zeros, List.replicate_succ, leNat, show leNat (List.replicate n 0#8) = 0 from ih]

theorem numAt_tableImage (w0 b i n : Nat) (h : 80 ≤ i) (hi : i + n ≤ 4160) : numAt (tableImage w0 b) i n = 0 := by
  unfold numAt tableImage
  rw [List.drop_append, List.drop_eq_nil_of_le (by simpa [bytesLE, zeros] using h)]
  simpa [zeros, bytesLE, -List.reduceReplicate, show min n (4080 - (i - 80)) = n by omega] using leNat_zeros n

/-- An image of zero segments has the form of 09 R260. -/
theorem witness_image : imageValid (tableImage 0 0) = true := by
  have h : ∀ i n, i + n ≤ 80 → numAt (tableImage 0 0) i n = numAt (bytesLE 8 (2 ^ 47) ++ zeros 72) i n := by
    intro i n hi
    unfold numAt tableImage
    rw [show bytesLE 8 (2 ^ 47 + 0) ++ zeros 56 ++ bytesLE 16 0 = bytesLE 8 (2 ^ 47) ++ zeros 72 by decide,
      List.drop_append, List.take_append_of_le_length (by simp [bytesLE, zeros]; omega)]
  have hs : ∀ s o : Nat, s < 256 → o ≤ 12 → numAt (tableImage 0 0) (64 + o + 16 * s) 4 = 0 := by
    intro s o hs ho
    by_cases h0 : s = 0
    · subst h0
      rw [h _ _ (by omega)]
      have : ∀ o, o ≤ 12 → numAt (bytesLE 8 (2 ^ 47) ++ zeros 72) (64 + o + 16 * 0) 4 = 0 := by decide
      exact this o ho
    · exact numAt_tableImage _ _ _ _ (by omega) (by omega)
  have hz : (((tableImage 0 0).drop 24).take 40).all (· == 0) = true := by
    unfold tableImage
    rw [List.drop_append, List.take_append_of_le_length (by simp [bytesLE, zeros])]
    decide
  have hl : ((tableImage 0 0).length == 4160) = true := by simp [tableImage, bytesLE, zeros, -List.reduceReplicate]
  have hsegs : ∀ s ∈ List.range 256, ∀ o ≤ 12, numAt (tableImage 0 0) (64 + o + 16 * s) 4 = 0 :=
    fun s hs' o ho => hs s o (List.mem_range.1 hs') ho
  have e : imageHdr (tableImage 0 0) = imageHdr (bytesLE 8 (2 ^ 47) ++ zeros 72) := by
    simp only [imageHdr, h 0 8 (by decide), h 12 4 (by decide), h 8 4 (by decide), h 20 4 (by decide), h 16 4 (by decide)]
  unfold imageValid
  simp only [e, hl, hz, h 0 8 (by decide), h 8 8 (by decide), h 16 8 (by decide)]
  have hall : (List.range 256).all (fun s =>
      let c := numAt (tableImage 0 0) (72 + 16 * s) 4
      s32Finite (numAt (tableImage 0 0) (64 + 16 * s) 4) && s32Finite (numAt (tableImage 0 0) (68 + 16 * s) 4) && s32Finite c &&
      (bitAt (numAt (bytesLE 8 (2 ^ 47) ++ zeros 72) 0 8) 46 || c == 0) && numAt (tableImage 0 0) (76 + 16 * s) 4 == 0) = true := by
    rw [List.all_eq_true]
    intro s hs'
    have := fun o ho => hsegs s hs' o ho
    have h0 := this 0 (by omega); have h4 := this 4 (by omega); have h8 := this 8 (by omega); have h12 := this 12 (by omega)
    simp only [Nat.add_zero, Nat.reduceAdd] at h0 h4 h8 h12
    simp only [h0, h4, h8, h12]
    decide
  simp only [hall]
  decide

/-- A table whose first segment lies at 1, above the others, breaks the seam check of 09 R267 that its bit 45 asks for. -/
theorem witness_seam : bitAt (numAt (tableImage (2 ^ 45) 0x3F800000) 0 8) 45 = true ∧ seamCheck (tableImage (2 ^ 45) 0x3F800000) = false := by
  decide +kernel

theorem witness_TableLoads :
    let d := fun d : DieRegs => { d with sftTable := 8, sftPart := 1, sftSrc := 0x0001_0000_0000_0000 }
    let s := linked (die0 (bound (withTab (issuing 0) fun t => { t with objs := [(1, objAll 1 0 4160 0)] })) d)
    let l := fun x => die0 s fun d => { d with sftLoad := some x }
    (Quiet s ∧ Arrives s m1 0 ∧ actsFor s.keel m1 (dieRegs s.fab 0).sftPart = true ∧ (dieRegs s.fab 0).sftLoad = none ∧
      sftOwned s.keel 8 1 = true ∧ sftPlace s.fab 1 (dieRegs s.fab 0).sftSrc = some (loc0 0 0) ∧
      does (.sftGo m1 0 1) s (fun t => (tfind t.fab.jobs (s.fab.nextId + 1)).any fun j =>
        j == { sink := .sft 0 s.fab.nextId, die := 0, parts := partsOf (loc0 0 0) 4160 }) = true) ∧
    (sftOwned s.keel 9 1 = false ∧ sftPlace s.fab 1 0x0005_0000_0000_0000 = none ∧ (dieRegs (l (sftOf 1 0 [])).fab 0).sftLoad.isSome = true) ∧
    (dieRegs (l (sftOf 1 0 [])).fab 0).sftLoad = some (sftOf 1 0 []) ∧
    ((sftOf 1 0x0205 []).fault ≠ 0 ∧ imageValid (sftOf 1 0 [1]).image = false) ∧
    bankPinned (l (sftOf 2 0 [])).fab 0 8 1 = false := by
  decide

theorem witness_CacheMaintenance :
    let s := linked (bound (issuing 0))
    let r : MaintRun := { part := 1, op := 3, setWay := true, slice := 0, set_ := 0, way := 15, addr := 0, len := 0, range := none, found := [] }
    let g : MaintRun := { r with op := 1, setWay := false, way := 0, addr := 0x0001_0000_0000_0000, len := 4096 }
    Arrives s m1 0 ∧ actsFor s.keel m1 (fld (0x4001_FFF0 : Word32).toNat 16 4) = true ∧ (0x4001_FFF0 : Word32).getLsbD 30 = true ∧
    (l2Ways s.keel 1 &&& 0xFFF0 = 0xFFF0 ∧ lockedWays s.fab 0 1 + popcount 16 0xFFF0 ≤ 12) ∧
    ¬ (l2Ways s.keel 1 &&& 0xFFF8 = 0xFFF8 ∧ lockedWays s.fab 0 1 + popcount 16 0xFFF8 ≤ 12) ∧
    actsFor s.keel m1 (fld (0x9100_0000 : Word32).toNat 24 4) = true ∧ fld (0x9100_0000 : Word32).toNat 28 2 = 1 ∧ (dieRegs s.fab 0).mrun = none ∧
    maintCheck s.keel s.fab r = 1 ∧ maintCheck s.keel s.fab { r with way := 0 } = 3 ∧ maintCheck s.keel s.fab g = 1 ∧
    maintCheck s.keel s.fab { g with len := 4097 } = 2 ∧ maintReady s.fab 0 r = true ∧ Quiet s ∧
    let c := { copy0 0 .M 1 with slice := 0, set_ := 0, way := 15 }
    let n := withMem s fun x => { x with l2 := [c] }
    Quiet n ∧ maintReady n.fab 0 r = true ∧ maintCopies n.fab 0 r = [c] ∧ c.flaw = .ok ∧
      does (.l2MaintenanceComplete 0 false) (die0 n fun d => { d with mrun := some r }) (fun t => t.fab.mem.l2.isEmpty && (dieRegs t.fab 0).mlines == 1) = true := by
  decide

theorem witness_CyclicSchedule :
    let s := withNet (linked (bound (issuing 0))) [(4, .frame .frameIn), (5, .frame .doorbell), (6, .slotStart 0)]
    let a := fun t n => { s with keel := { s.keel with lastFrame := some t, time := n } }
    let b := fun i n => die0 (bound (issuing 0)) fun d => { d with schedTail := false, schedSlot := i, schedBudget := n }
    (let r := { s with keel := { s.keel with resetN := true } }
     r.keel.on = true ∧ r.keel.resetN = true ∧ r.keel.power.stopping = false ∧ r.keel.power.state ≠ 3) ∧
    csOpen s.keel s.fab m1 = true ∧
    (frameFirst s.fab 5 .doorbell = true ∧ selectedFrame s.keel .doorbell = false) ∧
    (frameFirst s.fab 4 .frameIn = true ∧ selectedFrame s.keel .frameIn = true) ∧
    (a 7 206).keel.time < 7 + usec ∧ 7 + usec ≤ (a 7 207).keel.time ∧ s.fab.gln.ports = [] ∧
    s.fab.net.find? (fun e => e.2 == .slotStart 0) = some (6, .slotStart 0) ∧
    (slotBudget (schedSlots (b 0 2).keel) 0 ≤ 2 ∧ (dieRegs (b 0 2).fab 0).schedTail = false ∧ domainOn (b 0 2).keel (computeDom 0 0) = true) ∧
    ((schedSlots (b 1 3).keel)[(1 + 1) % 2]?.getD 0).getLsbD 31 = true := by
  decide

theorem witness_HomeGrants :
    let r := Msg.home ln (.read 0)
    let w := Msg.home ln (.own 3 true)
    (Served (coh [] [] r) ∧ findDir (coh [] [] r).fab.mem ln = none ∧ astray (coh [] [] r).keel (coh [] [] r).fab 0 ln = false ∧
      0 < entryWays (coh [] [] r).keel 1) ∧
    (let s := coh [dir0 2 (some 1) none] [copy0 1 .M 1] r
     Served s ∧ findDir s.fab.mem ln = some (dir0 2 (some 1) none) ∧ astray s.keel s.fab 0 ln = false) ∧
    (let s := coh [dir0 (bit5 home0.die) none none] [copy0 home0.die .S 0] r
     Served s ∧ findDir s.fab.mem ln = some (dir0 (bit5 home0.die) none none) ∧ bit5 home0.die ≠ 0 ∧ astray s.keel s.fab 0 ln = false ∧
     findL2 s.fab.mem home0.die ln = some (copy0 home0.die .S 0)) ∧
    (let c := { copy0 0 .S 0 with slice := home0.slice + 1 }
     let s := coh [dir0 1 none none] [c] r
     Served s ∧ findDir s.fab.mem ln = some (dir0 1 none none) ∧ astray s.keel s.fab 0 ln = true ∧ findL2 s.fab.mem 0 ln = some c ∧
     (let q : Piece := { lane := 0, addr := 0, loc := { loc0 0 264 with c := true }, size := 8, asked := true, stamp := 0, data := none, fault := 0 }
      let w := withCores s fun x => { x with loads := [(5, { load0 none with pieces := [q] })] }
      Served w ∧ waitingPieces w.fab 0 ln = [(5, { load0 none with pieces := [q] }, 0, q)] ∧ c.d.poison.getLsbD (q.loc.off % 128 / 32) = false ∧
      findLoad w.fab 5 = some { load0 none with pieces := [q] })) ∧
    (let s := coh [dir0 0x1F none none] [] w
     Served s ∧ findDir s.fab.mem ln = some (dir0 0x1F none none) ∧ astray s.keel s.fab 3 ln = false ∧
     (agentsIn 0x1F).filter (· != 3) = [0, 1, 2, 4] ∧ ∀ x ∈ s.fab.net, x.2 ≠ .evict ln 3) ∧
    (let s := coh [dir0 8 none none] [copy0 3 .S 0] w
     Served s ∧ findDir s.fab.mem ln = some (dir0 8 none none) ∧ wbOut s.fab ln = false ∧ findL2 s.fab.mem 3 ln = some (copy0 3 .S 0) ∧
     (∀ x ∈ s.fab.net, x.2 ≠ .evict ln 3) ∧ (dir0 8 none none).present = bit5 3 ∧ granuleHeld s.fab ln = false) ∧
    let s := withCores (withMem (coh [dir0 1 none none] [copy0 0 .S 0] (.home ln (.own 0 true))) fun m => { m with
        resv := [{ gid := 0, lane := 0, loc := loc0 0 256, gran := 128, granule := true, use := 0 }] }) fun c => { c with
      sb := [(0, [{ entry0 (some 1) true with loc := { loc0 0 256 with c := true } }])] }
    Served s ∧ findDir s.fab.mem ln = some (dir0 1 none none) ∧ wbOut s.fab ln = false ∧ granuleHeld (ownResv s.fab 0 ln) ln = true := by
  and_intros <;> decide

theorem witness_HoldersAnswer :
    let i := Msg.inval ln 3
    (let s := coh [] [copy0 3 .M 1] i
     Served s ∧ s.fab.mem.holds = [] ∧ (copy0 3 .M 1).st = .M ∧ s.fab.net = [(4, i)]) ∧
    (let s := withNet (coh [] [] i) [(4, i), (9, .fill ln 2 3 .S (data0 0) none)]
     Served s ∧ s.fab.mem.holds = [] ∧ fillFor s.fab ln 3 (· == .M) = false ∧ s.fab.nextId = 100 ∧
     tfind s.fab.net 9 = some (.fill ln 2 3 .S (data0 0) none)) ∧
    (let e := dir0 0x11 none (some { req := .own 3 true, acks := [4], got := none, fwd := false, mem := false })
     let s := coh [e] [] (.invAck ln 4 (some (data0 1)))
     Served s ∧ findDir s.fab.mem ln = some e ∧ wbOut s.fab ln = false ∧ granuleHeld s.fab ln = false) ∧
    (let s := coh [] [copy0 3 .M 1] (.fwd ln 3 0)
     Served s ∧ findL2 s.fab.mem 3 ln = some (copy0 3 .M 1) ∧ s.fab.net = [(4, .fwd ln 3 0)]) ∧
    let e := dir0 8 (some 3) (some { req := .read 4, acks := [], got := none, fwd := true, mem := false })
    let s := coh [e] [copy0 3 .O 1] (.fwdNotify ln 3)
    Served s ∧ findDir s.fab.mem ln = some e ∧ wbOut s.fab ln = false := by
  and_intros <;> decide

theorem witness_LinesMove :
    (let s := coh [] [] (.fill ln home0.die 3 .E (data0 0) none)
     Served s ∧ (data0 0).valid ≠ 0 ∧ findL2 s.fab.mem 3 ln = none ∧ waitingPieces s.fab 3 ln = [] ∧ leftEntries s.fab 3 ln = [] ∧
     choose s.keel s.fab 3 home0.slice ln = .at_ 2 none) ∧
    (let s := coh [dir0 8 (some 3) none] [] (.wb ln 3 0 (data0 9))
     Served s ∧ granted s.keel s.fab 4 = true ∧ findDir s.fab.mem ln = some (dir0 8 (some 3) none) ∧ ln.kind ≤ 1 ∧ ln.idx * 128 + 128 ≤ 2 ^ 48 ∧ (data0 9).bytes.length = 128 ∧ (data0 9).poison = 0) ∧
    Served (coh [dir0 8 none none] [] (.evict ln 3)) ∧
    (let s := coh [dir0 8 none none] [] (.wbAck ln 3 0)
     Served s ∧ ∀ e ∈ s.fab.mem.dir, e.txn = none) := by
  and_intros <;> decide +kernel

/-- A read of 32 bytes of line 2 for a queue's TAIL, and an atomic addition of 4 bytes at its end for piece 0 of load 5. -/
def job0 : ReadJob := { sink := .tail 2, die := 0, parts := [{ loc := loc0 0 352, len := 32, data := none, fault := 0 }] }
def atom0 (off : Nat) : AtomicReq := { loc := loc0 0 off, op := 8, size := 4, a := 1, b := 0, who := some (0, 0), sink := .load 5 0 }

theorem witness_UncachedAccess :
    (let s := coh [] [] (.home ln (.readOnce 7 0))
     let s := { s with fab := { s.fab with jobs := [(7, job0)] } }
     NoneDue s.fab ∧ HasTurn s 4 ln ∧ tfind s.fab.net 4 = some (.home ln (.readOnce 7 0)) ∧
     findDir s.fab.mem ln = none ∧ findL2 s.fab.mem home0.die ln = none ∧ findEvb s.fab.mem home0.die ln = none ∧
     fillFor s.fab ln home0.die (fun st => st == .E || st == .M) = false ∧ job0.parts[0]? = some ⟨loc0 0 352, 32, none, 0⟩) ∧
    (let w : AgentWrite := { loc := loc0 0 4064, bytes := [some 1, none, some 3], hint := 0, target := 0, sink := .store 0 0 5 }
     let s := coh [] [] (.uncWrite w)
     Quiet s ∧ HasTurn s 4 ln ∧ granted s.keel s.fab 4 = true ∧ w.loc.off + w.bytes.length ≤ 2 ^ 48 ∧ s.fab.mem.lost = []) ∧
    (let s := withCores (coh [dir0 (bit5 home0.die) none none] [copy0 home0.die .S 0] (.home ln (.atomic (atom0 380)))) fun c =>
       { c with loads := [(5, load0 none)] }
     Served s ∧ findDir s.fab.mem ln = some (dir0 (bit5 home0.die) none none) ∧ findL2 s.fab.mem home0.die ln = some (copy0 home0.die .S 0) ∧
     (copy0 home0.die .S 0).d.poison = 0 ∧ wbOut s.fab ln = false ∧ s.fab.mem.lost = [] ∧ granuleHeld s.fab ln = false ∧
     fillFor s.fab ln home0.die (fun st => st == .E || st == .M) = false ∧ findLoad s.fab 5 = some (load0 none)) ∧
    (let s := withCores (coh [] [] (.farRead (atom0 380) 0)) fun c => { c with loads := [(5, load0 none)] }
     Served s ∧ tfind s.fab.net 4 = some (.farRead (atom0 380) 0) ∧ chanPaused s.keel s.fab ln = false ∧ s.fab.mem.dir = [] ∧ lineOf (atom0 380).loc = ln ∧
     (atom0 380).loc.off % 128 + (atom0 380).size ≤ 128 ∧ s.fab.mem.poison = [] ∧ s.fab.mem.lost = [] ∧ findLoad s.fab 5 = some (load0 none)) := by
  and_intros <;> decide

theorem witness_MemoryControllers :
    let e := fun a => dir0 0 none (some { req := .read a, acks := [], got := none, fwd := false, mem := true })
    let r := Msg.memRead (locOfLine ln) 128 (.fill 3 .S)
    let s := coh [e 3] [] r
    let two := withNet s [(4, .memRead (locOfLine ln) 128 (.piece 5 0)), (7, r)]
    let c := { Chan.fresh with trained := true, ues := List.replicate 16 0 }
    let t := withMem (issuing 0) fun x => { x with chans := [(31, c)] }
    (Quiet s ∧ inOrder s.keel s.fab 4 = true ∧ ln.kind = 0 ∧ s.fab.mem.poison = [] ∧ findDir s.fab.mem ln = some (e 3) ∧ granted s.keel s.fab 4 = true) ∧
    (Quiet two ∧ inOrder two.keel two.fab 7 = true ∧ tfind two.fab.net 7 = some r ∧ granted two.keel two.fab 7 = false) ∧
    (let x := coh [] [] (.farAt (atom0 380))
     Quiet x ∧ inOrder x.keel x.fab 4 = true ∧ tfind x.fab.net 4 = some (.farAt (atom0 380)) ∧ x.fab.mem.poison = [] ∧ granted x.keel x.fab 4 = true ∧
     (let y := withNet x [(4, .memRead (locOfLine ln) 128 (.piece 5 0)), (7, .farAt (atom0 380))]
      Quiet y ∧ tfind y.fab.net 7 = some (.farAt (atom0 380)) ∧ inOrder y.keel y.fab 7 = true ∧ granted y.keel y.fab 7 = false)) ∧
    (let l : Line := { kind := 0, part := 1, idx := 2 }
     let i := bound (issuing 0)
     waitingAt i.keel i.fab (channelOf i.keel l) = [] ∧ (waitingAt s.keel s.fab (channelOf s.keel l)).any (·.2.1 == l.part) = true ∧
     (2 ^ 43 + 8) / 2 ^ 43 = l.part ∧ (2 ^ 43 + 8) % 2 ^ 43 * 32 / 128 = l.idx) ∧
    ((7 : BitVec 4).getLsbD (2 % 4) = true) ∧
    ((chanOf t.fab 31).trained = true ∧ (chanOf t.fab 31).ues.length = 16 ∧
      ∀ x ∈ (chanOf t.fab 31).ues, (chanOf t.fab 31).ues.headD 0 ≤ x + 200000) ∧
    (chanOf (withMem t fun x => { x with chans := [(31, { c with retraining := true })] }).fab 31).retraining = true := by
  and_intros <;> decide

def waiter0 (n : Nat) : Waiter := { isQueue := false, ctx := 3, wslot := 0, n := n }
def ctr0 (value : Nat) : Counter :=
  { value := value, err := 0, errCount := 0, owner := 1, ctx := 3, paired := false, consumer := false, partner := 0, bound := 0, partnerSeen := 0
    cwait := [], owait := [], last := noLast, ref := { host := 1, dev := 0, dying := false } }
def op0 (kind : CntKind) (n : Nat) : CntOp :=
  { phys := 9, kind := kind, n := n, src := noLast, reply := .none, stamp := none }

/-- A state with counter 9 and one message. -/
def ctrAt (c : Counter) (m : Msg) : State := withNet (withTab (issuing 0) fun t => { t with ctrs := [(9, c)] }) [(4, m)]

theorem witness_CounterStations :
    let w := { ctr0 0xFFFF_FFF0 with cwait := [waiter0 0xFFFF_FFFF], owait := [waiter0 0xFFFF_FFF5] }
    let p := { ctr0 0xFFFF_FFFF with paired := true, bound := 0 }
    (cntInOrder (ctrAt w (.cnt (op0 .add 15))).fab 4 = true ∧ tfind (ctrAt w (.cnt (op0 .add 15))).fab.tab.ctrs 9 = some w ∧
      (ctrAt w (.cnt (op0 .add 15))).fab.tab.fences = [] ∧ w.value + (op0 .add 15).n ≤ 0xFFFFFFFF) ∧
    w.err = 0 ∧ 0xFFFFFFFF < (ctr0 0xFFFF_FFF0).value + (op0 .add 16).n ∧ (op0 .sub 5).n ≤ (ctr0 5).value ∧ (ctr0 5).value < (op0 .sub 6).n ∧
    (ctr0 5).cwait = [] ∧ (ctr0 5).owait = [] ∧ p.paired = true ∧ { p with value := (p.value + 1) % 2 ^ 32 }.boundBroken = false ∧
    { p with value := (0xFFFFFFFE + 1) % 2 ^ 32 }.boundBroken = true ∧ p.cwait = [] ∧ p.owait = [] ∧ p.err = 0 ∧
    tfind (ctrAt p (.cnt (op0 (.pairError 0) 0x0404))).fab.net 4 = some (.cnt (op0 (.pairError 0) 0x0404)) ∧ p.partner = 0 := by
  and_intros <;> decide

theorem witness_PairReports :
    let p := { ctr0 5 with paired := true, consumer := true, bound := 2, partner := 10 }
    cntInOrder (ctrAt p (.pair 9 10 7)).fab 4 = true ∧ { p with partnerSeen := 7 }.boundBroken = false ∧ { p with partnerSeen := 8 }.boundBroken = true ∧
    { p with partnerSeen := 4 }.boundBroken = true ∧ (ctrAt p (.pair 9 10 7)).fab.tab.fences = [] := by
  and_intros <;> decide

theorem witness_WaitsEnd :
    (cntInOrder (ctrAt (ctr0 5) (.waitReq 9 true (waiter0 5))).fab 4 = true ∧ (ctr0 5).err = 0 ∧ (waiter0 5).n ≤ (ctr0 5).value ∧
      (ctr0 5).value < (waiter0 6).n ∧ (ctr0 5).holds 5 = true ∧ (ctr0 5).holds 6 = false ∧ { ctr0 5 with err := 0x0402 }.err ≠ 0 ∧
      { ctr0 5 with paired := true }.cwait = [] ∧ (ctrAt (ctr0 5) (.waitReq 9 true (waiter0 5))).fab.tab.fences = []) ∧
    (let g := { group0 3 with paths := [(0, { path0 3 with st := .waitCounter 0 })]
                              waits := [(0, { phys := 9, consume := true, pred := 7, scope := 3, act := 1 })] }
     let s := withNet (issuing 0 3 g) [(4, .release (waiter0 5) true)]
     findGroup s.fab 0 = some g ∧ (tfind g.waits 0).isSome = true ∧
     g.paths.find? (fun p => p.2.st == .waitCounter 0) = some (0, { path0 3 with st := .waitCounter 0 }) ∧ loadsOf s.fab 0 = [] ∧
     ∀ q ∈ g.paths, ∀ a b n r sc ac, q.2.st ≠ .waitSlot a b n r sc ac) ∧
    (let g := { group0 3 with paths := [(0, { path0 3 with st := .waitRead 63 1 })] }
     let s := withNet (withTab (issuing 0 3 g) fun t => { t with ctrs := [(9, ctr0 5)] }) [(4, .cnt { op0 .read 0 with reply := .group 0 0 63 1 })]
     cntInOrder s.fab 4 = true ∧ findGroup s.fab 0 = some g ∧ tfind g.paths 0 = some { path0 3 with st := .waitRead 63 1 } ∧ loadsOf s.fab 0 = []) := by
  refine ⟨by decide, ⟨by decide, by decide, by decide, by decide, ?_⟩, by decide⟩
  simp

/-- A command of OP with fields, each at a byte with a length and a value (13 R383), in 192 bytes. -/
def cmdBytes (op : Nat) (fs : List (Nat × Nat × Nat)) : List Byte :=
  fs.foldl (fun b f => splice b f.1 (bytesLE f.2.1 f.2.2)) (bytesLE 8 (op * 2 ^ 56) ++ zeros 184)

def qcmd (b : List Byte) (stage : CmdStage) : QCmd := { bytes := b, stage := stage, sigOk := true, refs := [], left := 0 }

/-- An open queue of partition 1 whose ring lies in slot 1. -/
def queue0 (cmds : Table QCmd) : Queue :=
  { ctx := 3, part := 1, cls := 0, admin := true, prio := 1, unit := 0, die := 0, ring := 0x0001_0000_0000_0000, entries := 4, head := 3
    retired := 0, tail := 3, state := 0, abort := 0, tailRead := false, reading := false, held := false, limit := none, cmds := cmds
    ref := { host := 1, dev := 0, dying := false } }

/-- Queue 2, and its command 0 where there is one. -/
def queued (x : Queue) : State := withTab (linked (bound (issuing 0))) fun t => { t with queues := [(2, x)], ctrs := [(9, ctr0 5)] }
def started (op : Nat) (fs : List (Nat × Nat × Nat)) : State := queued (queue0 [(0, qcmd (cmdBytes op fs) .started)])
def bytesIn (s : State) : List Byte := ((findCmd s.fab 2 0).map (·.bytes)).getD []

/-- The code with which command 0 of queue 2 has acted after a command of the device, if it has. -/
def actedWith (c : Instr) (s : State) : Option Nat :=
  match exec c s with
  | .next t => (findCmd t.fab 2 0).bind fun c => match c.stage with
    | .acted code => some code
    | _ => none
  | _ => none

/-- Command 0 of queue 2 has started, with an opcode. -/
abbrev starts (s : State) (op : Nat) : Prop :=
  ∃ x c, Started s 2 0 op x c

theorem starts_of {s : State} {op : Nat}
    (h : ((findQueue s.fab 2).any fun x => (tfind x.cmds 0).any fun c => c.stage == .started && cmdOp c.bytes == op &&
      working s.keel s.fab x.part x.ctx) = true) : starts s op := by
  cases hx : findQueue s.fab 2 with
  | none => simp [hx] at h
  | some x =>
    cases hc : tfind x.cmds 0 with
    | none => simp [hx, hc] at h
    | some c =>
      simp only [hx, hc, Option.any_some, Bool.and_eq_true, beq_iff_eq] at h
      exact ⟨x, c, hx, hc, h.1.1, h.1.2, h.2⟩

theorem witness_QueuesAreRead :
    let s := queued (queue0 [])
    (Quiet s ∧ csOpen s.keel s.fab m1 = true ∧ actsFor s.keel m1 2 = false ∧ actsFor s.keel m1 1 = true ∧ findQueue s.fab 3 = none ∧
      findQueue s.fab 2 = some (queue0 []) ∧ heldPart s.keel 1 = false ∧ s.keel.power.retention = 0 ∧
      (findCtx s.fab (queue0 []).ctx).bind (·.ending) = none ∧
      okIs (ringAt s.fab 1 .load (queue0 []).ring 0 8) (loc0 0 0) = true) ∧
    (let y := queued { queue0 [] with reading := true }
     csOpen y.keel y.fab m1 = true ∧ actsFor y.keel m1 1 = true ∧ findQueue y.fab 2 = some { queue0 [] with reading := true }) ∧
    (let z := queued { queue0 [] with state := 2 }
     findQueue z.fab 2 = some { queue0 [] with state := 2 } ∧ ({ queue0 [] with state := 2 } : Queue).state ≠ 0) ∧
    (let t := fun v => withNet (queued (queue0 [])) [(4, .tailData 2 v 0)]
     Quiet (t 7) ∧ tfind (t 8).fab.net 4 = some (.tailData 2 8 0) ∧ (queue0 []).head + (queue0 []).entries < 8 ∧ (queue0 []).limit = none ∧
     tfind (t 3).fab.net 4 = some (.tailData 2 3 0) ∧ (queue0 []).head = 3 ∧
     okIs (ringAt (t 7).fab 1 .load (queue0 []).ring (64 + 64 * (3 % 4)) 64) (loc0 0 256) = true) ∧
    (let x := { queue0 [] with tail := 4, reading := true }
     let s := withNet (queued x) [(4, .cmdData 2 3 (cmdBytes 0x10 []) 0)]
     tfind x.cmds x.head = none ∧ x.head + 1 = x.tail ∧ okIs (ringAt s.fab 1 .store x.ring 8 8) (loc0 0 8) = true ∧
     acceptFault s.keel s.fab x (cmdBytes 0x10 []) = (true, none) ∧ auxReads s.fab 1 (cmdBytes 0x10 []) = [] ∧
     refsPast s.fab (cmdRefs s.fab x 2 (cmdBytes 0x10 [])) = false ∧ acceptFault s.keel s.fab x (cmdBytes 0x11 []) = (true, some 0x0601)) ∧
    (let x := { queue0 [] with tail := 4, reading := true, cls := 1, admin := false }
     let b := cmdBytes 0x02 [(16, 8, 0x0001_0000_0000_0200)]
     let s := withNet (queued x) [(4, .cmdData 2 3 b 0)]
     acceptFault s.keel s.fab x b = (true, none) ∧ auxReads s.fab 1 b = [(0x0001_0000_0000_0200, 64)] ∧
     okIs (checkAt s.fab 1 none .load 0x0001_0000_0000_0200 1 64) (loc0 0 512) = true) ∧
    (let x := { queue0 [] with tail := 4, reading := true, cls := 2, admin := false }
     let b := cmdBytes 0x03 [(16, 8, 0x0002_0000_0000_0000)]
     let s := withNet (queued x) [(4, .cmdData 2 3 b 0)]
     acceptFault s.keel s.fab x b = (true, none) ∧ auxReads s.fab 1 b = [] ∧ matrixPlace s.fab x (cmdAddr b 16) = some 0 ∧
     matrixPlace (withTab s fun t => { t with objs := [(2, objAll 1 2 4096 4)] }).fab x (cmdAddr b 16) = none) := by
  and_intros <;> decide +kernel

def fence0 (errword : Word64) : Fence :=
  { event := false, part := 1, owner := 3, phys := 9, target := 6, errword := errword, notifying := false, notify := 0, watchEn := false, watch := 0
    ref := { host := 1, dev := 0, dying := false } }

theorem witness_CommandsStartAndRetire :
    let w := cmdBytes 0x10 [(4, 4, 2 ^ 21 + 12)]
    let s := fun b st fe => withTab (queued (queue0 [(0, qcmd b st)])) fun t => { t with fences := [(12, fence0 fe)] }
    (mayRun (s (cmdBytes 0x10 []) .accepted 0).keel 1 = true ∧ cmdWaitEn (cmdBytes 0x10 []) = false ∧ cmdBarrier (cmdBytes 0x10 []) = false) ∧
    (runsHeld (cmdOp (cmdBytes 0x30 [])) = true ∧ runsHeld (cmdOp w) = false ∧ (s w .accepted 0).keel.power.stopping = false) ∧
    (cmdWaitEn w = true ∧ cmdFence w = 12 ∧ tfind (s w .accepted 0).fab.tab.fences 12 = some (fence0 0) ∧ (fence0 0).done = false ∧
      tfind (s w .accepted 0).fab.tab.ctrs 9 = some (ctr0 5) ∧ (fence0 0x8000_0000_0000_0000).done = true ∧ (fence0 0xC000_0000_0000_0000).errword.getLsbD 62 = true) ∧
    (let b := cmdBytes 0x10 [(4, 4, 2 ^ 20), (8, 8, 5 * 2 ^ 48 + 2 ^ 32)]
     Quiet (s b (.acted 0) 0) ∧ (queue0 []).ref.host ≠ 0 ∧ cmdSigEn b = true ∧
     translate (s b (.acted 0) 0).fab 3 (cmdSigCid b) .sig = some 9 ∧ cmdSigInc b = 5) ∧
    (let t := withNet (s w .accepted 0) [(4, .eventAck 3 1 0 0)]
     tfind t.fab.net 4 = some (.eventAck 3 1 0 0) ∧ (findCtx t.fab 3).map (·.evAcked) = some 0) ∧
    (let t := withNet (s w .accepted 0) [(4, .eventAck 3 2 0 0)]
     tfind t.fab.net 4 = some (.eventAck 3 2 0 0) ∧ (findCtx t.fab 3).map (·.evAcked) = some 0) ∧
    (let fe := { fence0 0x8000_0000_0000_0000 with notifying := true }
     let t := withNet (withTab (s w .accepted 0) fun t => { t with fences := [(12, fe)] }) [(4, .notifyAck 12 0 0)]
     tfind t.fab.net 4 = some (.notifyAck 12 0 0) ∧ epochOf t.fab .fence 12 = 0 ∧ tfind t.fab.tab.fences 12 = some fe) := by
  decide

theorem witness_EngineCommands :
    starts (started 0x10 []) 0x10 ∧
    (starts (started 0x01 []) 0x01 ∧ launchBlocks (bytesIn (started 0x01 [])) = 0) ∧
    (let s := started 0x01 [(32, 8, 2 * 2 ^ 32), (40, 8, 767 + 2 ^ 16)]
     starts s 0x01 ∧ launchBlocks (bytesIn s) = 2 ∧ launchCores (bytesIn s) = 1 ∧ launchCoreList (bytesIn s) = [767]) ∧
    (let q := fun op n => queue0 [(0, { qcmd (cmdBytes op [(16, 8, 0x0001_0000_0000_0200)]) .fetching with left := n })]
     let s := fun op n => withNet (queued (q op n)) [(4, .cmdData 2 0 (zeros n) 0)]
     Quiet (s 2 64) ∧ Quiet (s 4 128) ∧ tfind (s 2 64).fab.net 4 = some (.cmdData 2 0 (zeros 64) 0) ∧
     refsPast (s 2 64).fab (cmdRefs (s 2 64).fab (q 2 64) 2 (cmdBytes 2 [(16, 8, 0x0001_0000_0000_0200)] ++ zeros 64)) = false ∧
     refsPast (s 4 128).fab (cmdRefs (s 4 128).fab (q 4 128) 2 (cmdBytes 4 [(16, 8, 0x0001_0000_0000_0200)] ++ zeros 128)) = false ∧
     cmdOp (cmdBytes 2 [(16, 8, 0x0001_0000_0000_0200)] ++ zeros 64) = 2 ∧
     cmdOp (cmdBytes 4 [(16, 8, 0x0001_0000_0000_0200)] ++ zeros 128) = 4 ∧ (q 2 64).tail ≤ (q 2 64).head) ∧
    starts (started 0x02 []) 0x02 ∧ (started 0x02 []).fab.eng.cp = [] ∧ starts (started 0x04 []) 0x04 ∧
    (let s := started 0x03 [(16, 8, 0x0002_0000_0000_0000)]
     starts s 0x03 ∧
     arrayFull s.fab 0 = false ∧ arrayFull (onEng s.fab fun e => { e with
       mx := [(0, { MxArray.fresh with queue := List.replicate 40 (MxEntry.fresh 5 (.command 2 0) 3 1 1 0 [] 0) })] }) 0 = true) ∧
    (let s := started 0x08 [(16, 2, 1)]
     starts s 0x08 ∧ cmdN (bytesIn s) = 0 ∧ (translate s.fab 3 (cmdCid (bytesIn s)) .sig).isSome = true) ∧
    (let s := started 0x09 [(16, 2, 1)]
     starts s 0x09 ∧ cmdN (bytesIn s) = 0 ∧ (translate s.fab 3 (cmdCid (bytesIn s)) .set_).isSome = true) ∧
    (let s := started 0x09 [(16, 2, 1), (20, 4, 0xFFFF_FFFF)]
     starts s 0x09 ∧ translate s.fab 3 (cmdCid (bytesIn s)) .set_ = some 9 ∧ cmdN (bytesIn s) = 0xFFFF_FFFF) ∧
    actedWith (.counterSet 2 0) (started 0x0A []) = some 0x0401 ∧ starts (started 0x0B [(16, 2, 1)]) 0x0B ∧ starts (started 0x0C [(16, 2, 1)]) 0x0C := by
  and_intros <;> first | exact starts_of (by decide) | decide

/-- OBJ_CREATE of near memory (05 R128) in a slot, of a length, with read and write rights. -/
def createBytes (slot len : Nat) : List (Nat × Nat × Nat) :=
  [(16, 8, 2 ^ 52), (24, 8, 2 ^ 53 + 3 * 2 ^ 48 + len), (40, 2, slot), (42, 2, 3)]

theorem witness_ObjectCommands :
    let f := fun (s : State) g => withTab s g
    (let s := started 0x20 (createBytes 5 2048)
     starts s 0x20 ∧ tfind s.fab.tab.objs (half (bytesIn s) 40) = none ∧
     entryLegal s.keel s.fab 1 (cmdWord (bytesIn s) 16) (cmdWord (bytesIn s) 24) (cmdWord (bytesIn s) 32) = true ∧
     findCtx s.fab (half (bytesIn s) 42) = some ctx0) ∧
    actedWith (.objCreate 2 0) (started 0x20 (createBytes 1 2048)) = some 0x0602 ∧
    (let s := started 0x21 [(16, 2, 1), (24, 8, 2 ^ 53 + 2 ^ 48 + 128)]
     starts s 0x21 ∧ tfind s.fab.tab.objs (half (bytesIn s) 16) = some (objAll 1 0 4096 0) ∧
     entryLegal s.keel s.fab 1 (2 ^ 52) (cmdWord (bytesIn s) 24) 0 = true) ∧
    (let s := started 0x22 [(16, 2, 1), (18, 2, 3)]
     starts s 0x22 ∧ findCtx s.fab (half (bytesIn s) 18) = some ctx0 ∧ ctx0.retained.length < 4096 ∧ (objAll 1 0 4096 0).ref.host + 1 < 2 ^ 24 ∧
     actedWith (.objRetain 2 0) (f s fun t => { t with objs := [(1, { objAll 1 0 4096 0 with ref := { host := 2 ^ 24 - 1, dev := 0, dying := false } })] }) =
       some 0x0603) ∧
    (let s := started 0x24 [(16, 2, 16383), (18, 2, 3)]
     starts s 0x24 ∧ tfind s.fab.tab.ctrs (half (bytesIn s) 16) = none ∧ findCtx s.fab (half (bytesIn s) 18) = some ctx0) ∧
    actedWith (.cntAlloc 2 0) (started 0x24 [(16, 2, 9), (18, 2, 3)]) = some 0x0602 ∧
    (starts (started 0x25 [(16, 2, 3), (18, 2, 7)]) 0x25 ∧ actedWith (.cntMap 2 0) (started 0x25 [(16, 2, 3), (18, 2, 8)]) = some 0x0601 ∧
     actedWith (.cntMap 2 0) (started 0x25 [(16, 2, 3), (18, 2, 7)]) = some 0) ∧
    (let s := f (started 0x26 [(16, 2, 9), (18, 2, 10)]) fun t => { t with ctrs := [(9, ctr0 5), (10, ctr0 6)] }
     starts s 0x26 ∧ actedWith (.cntPair 2 0) s = some 0 ∧ s.fab.tab.fences = [] ∧
     actedWith (.cntPair 2 0) (started 0x26 [(16, 2, 9), (18, 2, 9)]) = some 0x0601) := by
  and_intros <;> first | exact starts_of (by decide) | decide

theorem witness_ReleaseCommands :
    let s := fun kd op (r : Ref) => withTab (started op [(16, 2, 9), (18, 2, 3)]) fun t => { t with
      ctxs := [(3, { ctx0 with holds := [(kd, 9)] })], objs := [(9, { objAll 1 0 4096 0 with ref := r })], ctrs := [(9, { ctr0 5 with ref := r })]
      fences := [(9, { fence0 0x8000_0000_0000_0000 with ref := r })] }
    starts (s .memory 0x23 ⟨1, 0, false⟩) 0x23 ∧ starts (s .counter 0x27 ⟨1, 1, false⟩) 0x27 ∧ starts (s .fence 0x2A ⟨2, 0, false⟩) 0x2A ∧
    refOf (s .memory 0x23 ⟨1, 0, false⟩).fab .memory 9 = some ⟨1, 0, false⟩ ∧ refOf (s .counter 0x27 ⟨1, 1, false⟩).fab .counter 9 = some ⟨1, 1, false⟩ ∧
    refOf (s .fence 0x2A ⟨2, 0, false⟩).fab .fence 9 = some ⟨2, 0, false⟩ ∧ (fence0 0x8000_0000_0000_0000).done = true ∧
    (fence0 0x8000_0000_0000_0000).notifying = false ∧ slotReady keel0 (s .memory 0x23 ⟨1, 0, false⟩).fab .memory 9 = true ∧
    slotReady keel0 (withTab (s .memory 0x23 ⟨1, 0, false⟩) fun t => { t with
      slotEpoch := [(slotKey .memory 9, { value := 7, lastAt := some 0, due := false })] }).fab .memory 9 = false ∧
    actedWith (.objRelease 2 0) (s .counter 0x23 ⟨1, 0, false⟩) = some 0x0601 ∧ actedWith (.objRelease 2 0) (s .memory 0x23 ⟨1, 0, false⟩) = some 0 := by
  and_intros <;> first | exact starts_of (by decide) | decide

theorem witness_FenceCommands :
    let b := fun slot target => started 0x28 [(16, 8, 9 * 2 ^ 32 + 3 * 2 ^ 48 + target), (40, 2, slot)]
    (starts (b 4 6) 0x28 ∧ tfind (b 4 6).fab.tab.fences (half (bytesIn (b 4 6)) 40) = none ∧
      tfind (b 4 6).fab.tab.ctrs (fld (cmdWord (bytesIn (b 4 6)) 16) 32 14) = some (ctr0 5) ∧ cmdAddr (bytesIn (b 4 6)) 24 = 0 ∧
      (ctr0 5).holds 6 = false ∧ (ctr0 5).holds 5 = true ∧ (ctr0 5).ref.dev + 1 < 2 ^ 24) ∧
    actedWith (.fenceCreate 2 0) (withTab (b 4 6) fun t => { t with ctrs := [(9, { ctr0 5 with ref := ⟨1, 2 ^ 24 - 1, false⟩ })] }) = some 0x0603 ∧
    actedWith (.fenceCreate 2 0) (withTab (b 4 6) fun t => { t with fences := [(4, fence0 0)] }) = some 0x0602 ∧
    actedWith (.fenceCreate 2 0) (withTab (b 4 6) fun t => { t with ctrs := [(9, { ctr0 5 with err := 0x0402 })] }) = some 0 ∧
    starts (withTab (started 0x29 [(16, 2, 4), (20, 4, 0x0605)]) fun t => { t with fences := [(4, fence0 0)] }) 0x29 := by
  and_intros <;> first | exact starts_of (by decide) | decide

theorem witness_ContextAndQueueCommands :
    (let s := fun i v => started 0x2C [(16, 2, i), (18, 2, v), (48, 4, 1), (64, 2, 0), (66, 2, 0)]
     starts (s 4 8) 0x2C ∧ refsPast (s 4 8).fab [(.memory, slotOf (cmdAddr (bytesIn (s 4 8)) 24))] = false ∧
     actedWith (.ctxCreate 2 0) (withTab (started 0x2C [(16, 2, 4), (18, 2, 8), (24, 8, 2 ^ 48)]) fun t => { t with
       objs := [(1, { objAll 1 0 4096 0 with ref := ⟨1, 2 ^ 24 - 1, false⟩ })] }) = some 0x0603 ∧ actedWith (.ctxCreate 2 0) (s 3 8) = some 0x0602 ∧ actedWith (.ctxCreate 2 0) (s 4 65535) = some 0x0606 ∧
     actedWith (.ctxCreate 2 0) (s 4 8) = some 0 ∧
     actedWith (.ctxCreate 2 0) (started 0x2C [(16, 2, 4), (48, 4, 1), (64, 2, 768), (66, 2, 1)]) = some 0x0604) ∧
    (let s := started 0x2D [(16, 2, 3), (18, 1, 1)]
     starts s 0x2D ∧ findCtx s.fab 3 = some ctx0 ∧ ctx0.ending = none ∧ numAt (bytesIn s) 18 1 = 1) ∧
    (let s := started 0x2D [(16, 2, 3)]
     starts s 0x2D ∧ numAt (bytesIn s) 18 1 = 0 ∧ (findQueue s.fab 2).all (fun y => y.part == 1 && y.ctx == 3 && y.state == 0) = true ∧
     okIs (ringAt s.fab 1 .load (queue0 []).ring 0 8) (loc0 0 0) = true) ∧
    (starts (started 0x2E [(16, 2, 5), (18, 2, 3)]) 0x2E ∧ refsPast (started 0x2E [(16, 2, 5), (18, 2, 3)]).fab [(.memory, 0)] = false ∧
     actedWith (.queueCreate 2 0) (withTab (started 0x2E [(16, 2, 5), (18, 2, 3), (24, 8, 2 ^ 48)]) fun t => { t with
       objs := [(1, { objAll 1 0 4096 0 with ref := ⟨1, 2 ^ 24 - 1, false⟩ })] }) = some 0x0603 ∧ actedWith (.queueCreate 2 0) (started 0x2E [(16, 2, 2)]) = some 0x0602) ∧
    (let s := withTab (started 0x2F [(16, 2, 6)]) fun t => { t with queues := t.queues ++ [(6, queue0 [])] }
     starts s 0x2F ∧ findQueue s.fab 6 = some (queue0 []) ∧ (queue0 []).ref.host = 1 ∧ (queue0 []).ref.dev = 0 ∧ slotReady s.keel s.fab .queue 6 = true) ∧
    (let s := withCores (started 0x30 []) fun c => { c with blocks := [(7, block0 [0])] }
     starts s 0x30 ∧ s.keel.power.stopping = false ∧ resetting s.fab 1 = false ∧ stoppedCtx s.fab 3 = false ∧ (partRec s.keel 1).isSome = true ∧ (tfind s.fab.cores.blocks 7).isSome = true) := by
  and_intros <;> first | exact starts_of (by decide) | decide

theorem witness_TeardownsAndResets :
    let td : Teardown := { abort := true, requester := 3, tag := 0, die := 0, stopped := true, released := false }
    let s := withTab (bound (issuing 0)) fun t => { t with
      ctxs := [(3, { ctx0 with ending := some td })], resets := [(1, { code := 0x0506, phase := 0, die := 0 })], ctrs := [] }
    let e : Epoch := { value := 255, lastAt := some 0, due := true }
    let r := { withTab (issuing 0) (fun t => { t with roles := [(bindRole 767 1, e)] }) with keel := { keel0 with time := 200000 } }
    (findCtx s.fab 3 = some { ctx0 with ending := some td } ∧ scopeQuiet s.fab ⟨1, some 3⟩ = true ∧ scopeQueues s.fab ⟨1, some 3⟩ = [] ∧
      (ctx0.shares.map (·.core)).Nodup ∧ s.fab.tab.roles = [] ∧ ctx0.holds = [] ∧ ctx0.retained = [] ∧ ctx0.ref.dev = 0 ∧
      s.fab.tab.releases = [] ∧ slotReady s.keel s.fab .context 3 = true) ∧
    (tfind s.fab.tab.resets 1 = some { code := 0x0506, phase := 0, die := 0 } ∧ scopeQuiet s.fab ⟨1, none⟩ = true ∧ linesQuiet s.fab 1 = true ∧ tetherHeld s.fab 1 = [] ∧ scopeQueues s.fab ⟨1, none⟩ = []) ∧
    (r.fab.tab.roles.filter (fun e => e.1 / 16 == 3 * 4096 + 767 && e.2.due) = [(bindRole 767 1, e)] ∧
      tfind r.fab.tab.roles (bindRole 767 1) = some e ∧ 0 + 200000 ≤ r.keel.time ∧ r.fab.tab.resets = [] ∧ r.fab.tab.releases = [] ∧ ∀ x ∈ r.fab.tab.ctxs, x.2.ending = none) := by
  decide

/-- A matrix descriptor (06 R160) of M = N = 1 and K = 129 with D at 512 in slot 2, counter 1; B in a format `bsp`. -/
def mxBytes (bsp m : Nat) : List Byte :=
  (splice (splice (bytesLE 8 (2 ^ 48 + 2 ^ 32 + 2 * 2 ^ 16) ++ zeros 56) 8 (bytesLE 8 (m * 2 ^ 51 + 2 ^ 38 + 129 * 2 ^ 22 + bsp * 2)))
    24 (bytesLE 8 (512 * 2 ^ 40)))

def mxEntry (bytes : List Byte) (accepted : Bool) (step : Nat) : MxEntry :=
  { MxEntry.fresh 5 (.group 0) 3 1 1 0x0002_0000_0000_0000 bytes 0 with accepted := accepted, step := step }

def mxState (a : MxArray) : State := { issuing 0 with fab := onEng (issuing 0).fab fun e => { e with mx := [(0, a)] } }

theorem witness_MatrixArray :
    let x := fun acc st => mxEntry (mxBytes 0 1) acc st
    let a := fun y => { MxArray.fresh with queue := [y] }
    let u := { mxEntry (mxBytes 4 1) true 0 with bmeta := bytesLE 8 1 }
    let s := mxState (a (x false 0))
    let r := mxState (a (x true 0))
    (arrayOf s.fab 0 = a (x false 0) ∧ coreOn s.keel 0 = true ∧ cutOn s.keel 0 = false ∧ s.fab.mem.badWords = [] ∧ working s.keel s.fab 1 3 = true ∧
      resetting s.fab 1 = false ∧ stoppedCtx s.fab 3 = false) ∧
    ((∃ c, mxCheck s.fab 1 3 0 (mxBytes 0 1) false = .ok c) ∧ mxSfEn (mxBytes 0 1) = false ∧ mxCheck s.fab 1 3 0 (zeros 64) false = .error 0x0401 ∧
      mxCheck s.fab 1 3 0 (splice (mxBytes 0 1) 63 [1]) false = .error 0x0301 ∧ (translate s.fab 3 (mxCid (splice (mxBytes 0 1) 63 [1])) .sig).isSome = true ∧ (x false 0).refs = [] ∧
      refsPast s.fab [(.memory, mxObj (mxBytes 0 1))] = false ∧ refsPast (withTab s fun t => { t with objs := [(2, { objAll 1 2 4096 3 with
        ref := ⟨1, 2 ^ 24 - 1, false⟩ })] }).fab [(.memory, mxObj (mxBytes 0 1))] = true) ∧
    (mxReady r.keel r.fab [x true 0] (x true 0) = true ∧ (stepTile r.fab.mem 0 (x true 0) 0).isSome = true ∧ (stepBeats (x true 0) 0).isSome = true ∧
      MxArray.fresh.bubble = none ∧ MxArray.fresh.cur = none ∧ MxArray.fresh.last = none ∧
      (some ((mxShape (x true 0).bytes).1 + 1, 0)).all (· == mxShape (x true 0).bytes) = false) ∧
    ((x true 0).step % blockSlots (x true 0).bytes + 1 < blockSlots (x true 0).bytes ∧ (stepTile r.fab.mem 0 (x true 0) 1).isSome = true ∧
      (x true 1).step + 1 = mxSteps (x true 1).bytes ∧ (stepBeats (x true 1) 1).isSome = true) ∧
    (needsDecode u 0 = true ∧ u.decoded = false ∧ u.step < mxSteps u.bytes) ∧
    (mxReady r.keel r.fab [x true 0] (x true 0) = true ∧ { a (x true 0) with bubble := some 5 }.bubble = some (x true 0).id) ∧
    { MxArray.fresh with inGap := true, ballast := true }.ramp = none ∧ { MxArray.fresh with inGap := true, ballast := true }.bubble = none ∧
    { MxArray.fresh with ramp := some 1 }.ramp = some 1 ∧ { x true 2 with finished := true }.finished = true := by
  and_intros <;> first | decide | exact ok_of (by decide) | exact err_of (by decide)

/-- A linear copy of 64 bytes inside slot 1 (05 R149), counter `cid`. -/
def cpBytes (cid : Nat) : List Byte :=
  splice (bytesLE 8 (2 ^ 48 + cid * 2 ^ 32 + 2 ^ 8) ++ bytesLE 8 0x0001_0000_0000_0000 ++ bytesLE 8 0x0001_0000_0000_0400 ++ zeros 40) 24
    (bytesLE 4 64 ++ bytesLE 4 1)

def cpDesc (cid : Nat) (accepted : Bool) (step : Nat) : CpDesc :=
  { CpDesc.fresh 5 (.group 0) 3 1 1 0x0002_0000_0000_0000 (cpBytes cid) 0 0 with
    accepted := accepted, step := step, source := loc0 0 0, dest := loc0 0 1024, room := 4096 }

def cpState (d : CpDesc) (cur : Option Nat) : State :=
  { issuing 0 with fab := onEng (issuing 0).fab fun e => { e with cp := [(0, { CopyEng.fresh with descs := [d], cur := cur })] } }

/-- A gather of the row that index 0 of AUX names (05 R545). -/
def gather0 : List Byte := splice (splice (cpBytes 1) 0 [2]) 40 (bytesLE 8 0x0001_0000_0000_0800)

theorem witness_CopyEngines :
    let d := cpDesc 1 false 0
    let s := cpState d none
    let w := { d with accepted := true, step := 1, writesOut := 1 }
    (Quiet s ∧ coreOn s.keel 0 = true ∧ working s.keel s.fab 1 3 = true ∧ translate s.fab 3 (cpCid (cpBytes 1)) .sig = some 9 ∧
      cpFields s.keel s.fab 1 (cpBytes 1) = true ∧ cpOp (cpBytes 1) ≤ 1 ∧ (∃ o, cpOperands s.fab d = .ok o) ∧ cpEmpty (cpBytes 1) = false ∧
      okWith (cpOperands s.fab d) (cpBounds d) = true ∧ d.refs = [] ∧ refsPast s.fab [(.memory, 1), (.memory, 1)] = false ∧ d.src.runs s.fab = true) ∧
    (let e := { d with bytes := splice (cpBytes 1) 28 (bytesLE 4 0) }
     cpEmpty e.bytes = true ∧ cpOp e.bytes ≤ 1 ∧ cpFields s.keel s.fab 1 e.bytes = true ∧ okE (cpOperands s.fab e) = true) ∧
    (let e := { d with bytes := gather0 }
     cpOp e.bytes = 2 ∧ cpEmpty e.bytes = false ∧ cpFields s.keel s.fab 1 e.bytes = true ∧
     okWith (cpOperands s.fab e) (fun o => cpBounds e o && decide (o.aux.kind ≤ 1) && !(partsOf (shift o.aux 0) (4 * cpRows e.bytes)).isEmpty) = true) ∧
    translate s.fab 3 (cpCid (cpBytes 2)) .sig = none ∧ cpFields s.keel s.fab 1 (splice (cpBytes 1) 0 [5]) = false ∧ 0 < cpSteps (cpDesc 1 true 0) ∧
    (let d := cpDesc 1 true 0
     let g := { cpDesc 1 true 0 with bytes := gather0, aux := loc0 0 2048 }
     indexed d = true ∧ indexed g = false ∧ stepRows g 0 ≠ [] ∧ g.aux.kind ≤ 1 ∧
     partsOf (shift g.aux (4 * (stepRows g 0).headD 0)) (4 * (stepRows g 0).length) ≠ []) ∧
    (let d := cpDesc 1 true 0
     cpOp d.bytes = 0 ∧ d.source.kind ≤ 1 ∧ (stepReads d d.step).flatMap (fun p => partsOf (shift d.source p.1) p.2) ≠ [] ∧
     mayRun (cpState d (some 5)).keel 1 = true) ∧
    (cpSteps w ≤ w.step ∧ w.readsOut = 0 ∧ w.writesOut = 1 ∧ w.spoilt = [] ∧ 1 < { w with writesOut := 2 }.writesOut) := by
  and_intros <;> first | decide | exact ok_of (by decide)

/-- A routing descriptor (07 R211): two tokens, two experts, TOPK 1, capacity 1, scores, lists and counts in slot 1, counter `cid`. -/
def rtBytes (cid : Nat) : List Byte :=
  bytesLE 8 (2 ^ 48 + cid * 2 ^ 32 + 2 ^ 20) ++ bytesLE 8 (2 * 2 ^ 47 + 2 * 2 ^ 34 + 2 ^ 17) ++
  bytesLE 8 0x0001_0000_0000_0000 ++ bytesLE 4 0 ++ bytesLE 4 8 ++ zeros 8 ++ bytesLE 8 0x0001_0000_0000_0100 ++ bytesLE 8 0x0001_0000_0000_0200 ++
  bytesLE 4 0 ++ bytesLE 4 32 ++ bytesLE 8 0x0001_0000_0000_0300 ++ bytesLE 8 0x0001_0000_0000_0400 ++ zeros 48

def rtRun (cid : Nat) (accepted : Bool) (phase : Nat) : RtRun :=
  { RtRun.fresh 5 (.group 0) 3 1 1 0x0002_0000_0000_0000 (rtBytes cid) 0 0 with
    accepted := accepted, phase := phase, caps := [1, 1], chosen := [[(0, 0)], [(0, 0)]], places := List.replicate 9 (loc0 0 0) }

def rtState (r : RtRun) (cur : Option Nat) : State :=
  { issuing 0 with fab := onEng (issuing 0).fab fun e => { e with rt := [(0, { RouteEng.fresh with runs := [r], cur := cur })] } }

theorem witness_RoutingEngines :
    let r := rtRun 1 false 0
    let q := { r with places := [] }
    let s := rtState q none
    let b := rtBytes 1
    let e := { q with bytes := splice b 14 (zeros 2) }
    let c := { q with bytes := splice (splice b 1 [0x20]) 32 (bytesLE 8 0x0001_0000_0000_0500) }
    (Quiet s ∧ coreOn s.keel 0 = true ∧ working s.keel s.fab 1 3 = true ∧ q.fault = 0 ∧ q.readsOut = 0 ∧ q.inbox = [] ∧ q.phase = 0 ∧ q.rooms = [] ∧
      q.refs = [] ∧ q.toLaunch = [] ∧ refsPast s.fab (((rtNamed b).filter (·.2.2.2)).map fun x => (.memory, slotOf x.2.1)) = false ∧ q.src.runs s.fab = true) ∧
    (translate s.fab 3 (rtCid b) .sig = some 9 ∧ rtFields b = true ∧ rtExch b = false ∧ (∃ xs, rtOperands s.fab q ((rtNamed b).take 1) = .ok xs) ∧
      rtSstride b % rtScoreBytes b = 0 ∧ (∃ xs, rtOperands s.fab q ((rtNamed b).drop 1) = .ok xs) ∧ rtEmpty b = false ∧ rtCaptab b = false ∧
      rtLaunch b = false ∧ 4 * rtCap b ≤ rtLstride b ∧
      okWith (rtOperands s.fab q (rtNamed b)) (fun xs => rtBounds { q with
        places := xs.map (·.1), rooms := xs.map (·.2), caps := List.replicate (rtExperts b) (rtCap b) }) = true) ∧
    (rtEmpty e.bytes = true ∧ rtFields e.bytes = true ∧ okE (rtOperands s.fab e (rtNamed e.bytes)) = true) ∧
    (rtCaptab c.bytes = true ∧ rtFields c.bytes = true ∧ okE (rtOperands s.fab c (rtNamed c.bytes)) = true ∧ rtEmpty c.bytes = false) ∧
    (translate s.fab 3 (rtCid (rtBytes 2)) .sig = none ∧ rtFields (splice b 5 [0x40]) = false ∧
      (let m := splice b 28 [2]
       rtFields m = true ∧ okE (rtOperands s.fab q ((rtNamed m).take 1)) = true ∧ rtSstride m % rtScoreBytes m ≠ 0)) ∧
    (0 < rtTokens b ∧ 0 < rtExperts b ∧ (rtPlace r 0).kind ≤ 1 ∧ rtNorm b = 0 ∧ rtQuiet (rtRun 1 true 7) = true) ∧
    (let g := { rtRun 1 true 5 with gathers := [(1, 0)], toLaunch := [1] }
     let core := 16 * 0 + tmCore (tmplAt (rtTable g 2) 1)
     let full := fun n (src : EngSrc) => onEng s.fab fun e => { e with
       mx := [(core, { MxArray.fresh with queue := List.replicate n (MxEntry.fresh 5 src 3 1 1 0 [] 0) })] }
     g.gathers.contains (1, 0) = true ∧ g.gwait = [] ∧ routedEntries (rtState g none).fab core < 8 ∧ arrayFull (rtState g none).fab core = false ∧
     8 ≤ routedEntries (full 8 (.routing 0 5 1)) core ∧ arrayFull (full 40 (.command 2 0)) core = true) := by
  and_intros <;> first | decide | exact ok_of (by decide)

/-- A flit (15 R423): TYPE, LEN, ACT, PART, TAG, then ADDR, word 2 and SUB. -/
def flit (ty len act part tag : Nat) (w1 : Word64) (w2 : Word64) (sub : Nat) : Flit :=
  { w0 := word [(56, ty), (52, len), (50, act), (46, part), (28, tag)], w1 := w1, w2 := w2, w3 := word [(0, sub)], data := zeros (32 * len) }

/-- Slot 1 in an address. -/
def a1 : Word64 := 0x0001_0000_0000_0000

def tethered : State := linked (bound (withTab (issuing 0) fun t => { t with objs := [(1, { objAll 1 0 4096 0 with c := true })] }))

def withLink (s : State) (g : Link → Link) : State := { s with fab := onLink s.fab g }

theorem witness_ControlSpaceAndDma :
    let s := tethered
    let f := flit 0x01 0 1 1 7 0x40 0 2
    let r := flit 0x03 0 1 1 4095 a1 0 8
    let w := flit 0x04 8 1 1 7 a1 0 0
    let a := flit 0x06 1 1 1 7 (a1 + 8) 0 0x91
    Quiet s ∧ (FlitArrives s 0x01 1 { f with w0 := f.w0 ||| 1 } ∧ flitOk { f with w0 := f.w0 ||| 1 } = false) ∧
    (FlitArrives (withLink s fun l => { l with downTags := [(1, 7)] }) 0x01 1 f ∧ isResponse 0x01 = false) ∧
    (FlitTaken s 0x01 0 f ∧ dmaWrites s.fab 0 = [] ∧ csAligned 0x40 4 = true ∧ attOf 0x40 = some 0 ∧ csAligned 0x42 4 = false) ∧
    FlitTaken s 0x02 0 (flit 0x02 0 1 1 7 0x40 5 3) ∧
    dmaWrites (withLink s fun l => { l with dma := [(9, { f := w, left := 1, fault := 0 })] }).fab 0 = [9] ∧
    (FlitTaken s 0x03 0 r ∧ reachOf s.keel r = .checked ∧ okIs (tetherCheck s.keel s.fab r .load 32 256) { loc0 0 0 with c := true } = true ∧
      s.keel.power.retention = 0) ∧
    reachOf s.keel (flit 0x03 0 0 1 7 a1 0 8) = .none ∧ errIs (tetherCheck s.keel s.fab (flit 0x03 0 1 1 7 0 0 8) .load 32 256) 0x0201 = true ∧
    (FlitTaken s 0x04 0 w ∧ okIs (tetherCheck s.keel s.fab w .store 32 256) { loc0 0 0 with c := true } = true ∧ w.hint ≠ 3) ∧
    FlitTaken s 0x05 1 (flit 0x05 1 1 1 7 a1 1 0) ∧
    (FlitTaken s 0x06 0 a ∧ fld a.sub 0 5 = 0x11 ∧ fld a.sub 5 2 = 0 ∧
      okIs (tetherCheck s.keel s.fab a .both 8 8) { loc0 0 8 with c := true } = true) := by
  and_intros <;> decide +kernel

/-- A state in which line 2 of slot 1 is the tether die's, as its owner or a sharer. -/
def tetherHolds (owner : Option Nat) : State :=
  withLink (withMem tethered fun x => { x with dir := [dir0 0x10 owner none] }) fun l => { l with coAddr := [(ln, a1 + 256)] }

def upstream (w : UpWhat) : State :=
  withLink (withCores tethered fun c => { c with loads := [(5, load0 none)] }) fun l => { l with upReq := [(7, { what := w, fl := flit 0xA0 0 1 1 7 a1 0 1, sent := 0 })] }

theorem witness_CoherentFlits :
    let s := tethered
    let ask := flit 0x10 0 1 1 7 (a1 + 256) 0 0
    Quiet s ∧ (FlitTaken s 0x10 0 ask ∧ reachOf s.keel ask ≠ .none ∧
      (match coCheck s.keel s.fab ask .load with
       | .ok l => l == ln
       | .error _ => false) = true ∧ errIs (coCheck s.keel s.fab (flit 0x10 0 1 1 7 (a1 + 64) 0 0) .load) 0x0204 = true) ∧
    FlitTaken s 0x11 1 (flit 0x11 0 0 1 7 a1 0 0) ∧ reachOf s.keel (flit 0x11 0 0 1 7 a1 0 0) = .none ∧
    (let own := flit 0x11 0 1 1 7 (a1 + 256) 0 0
     FlitTaken (tetherHolds none) 0x11 0 own ∧
     (heldLine (tetherHolds none).fab own).any (fun l => (findDir (tetherHolds none).fab.mem l).any (·.present.getLsbD 4)) = true) ∧
    (let w := flit 0x12 4 1 1 7 (a1 + 256) 1 0
     heldLine s.fab w = none ∧ heldLine (tetherHolds none).fab w = some ln ∧ FlitTaken (tetherHolds (some 4)) 0x12 0 w ∧
     (findDir (tetherHolds (some 4)).fab.mem ln).bind (·.owner) = some 4 ∧ (findDir (tetherHolds none).fab.mem ln).bind (·.owner) = none) ∧
    (FlitTaken (tetherHolds none) 0x13 0 (flit 0x13 0 1 1 7 (a1 + 256) 0 0) ∧ heldLine (tetherHolds none).fab (flit 0x13 0 1 1 7 (a1 + 256) 0 0) = some ln) ∧
    (FlitTaken s 0x18 0 (flit 0x18 0 0 0 7 0 0 0) ∧ tfind s.fab.link.upReq (0 * 4096 + 7) = none) ∧
    (FlitTaken (upstream (.snoopInv ln)) 0x18 0 (flit 0x18 4 0 0 7 0 1 0) ∧ Completes (upstream (.snoopInv ln)) 0 (flit 0x18 4 0 0 7 0 1 0) (.snoopInv ln)) ∧
    (let u := withMem (upstream (.snoopFwd ln 3)) fun x => { x with dir := [dir0 0x10 (some 4) none] }
     Completes u 0 (flit 0x18 4 0 0 7 0 0 0) (.snoopFwd ln 3) ∧ findDir u.fab.mem ln = some (dir0 0x10 (some 4) none) ∧
     (flit 0x18 4 0 0 7 0 0 0).len = 4 ∧ FlitTaken u 0x18 0 (flit 0x18 0 0 0 7 0 0 0) ∧ (flit 0x18 0 0 0 7 0 0 0).len = 0) ∧
    (let u := upstream (.piece 5 0)
     FlitTaken u 0x20 0 (flit 0x20 1 0 0 7 0 0 0) ∧ Completes u 0 (flit 0x20 1 0 0 7 0 0 0) (.piece 5 0) ∧ findLoad u.fab 5 = some (load0 none)) ∧
    (let u := upstream (.write (.store 0 0 5))
     FlitTaken u 0x21 0 (flit 0x21 0 0 0 7 0 0 0) ∧ Completes u 0 (flit 0x21 0 0 0 7 0 0 0) (.write (.store 0 0 5))) := by
  and_intros <;> decide +kernel

theorem witness_TetherLink :
    let s := tethered
    let q := withLink s fun l => { l with quiescing := true }
    let up := withLink s fun l => { l with modUp := 0xFF }
    let starting := fun st => { s with keel := { s.keel with start := st }, fab := { s.fab with link := Link.reset } }
    linkUp s.fab = true ∧ (q.fab.link.quiesced = false ∧ tetherIdle q.fab = true) ∧
    tetherIdle (withMem q fun x => { x with dir := [dir0 0x10 (some 4) none] }).fab = false ∧
    (up.fab.link.modUp.getLsbD 7 = true ∧ up.fab.link.retraining.contains 1 = false ∧ (2 : Word32).toNat / 2 % 2 = 1 ∧
      (3 : Word32).getLsbD 0 = true ∧ fld (3 : Word32).toNat 1 1 = 1) ∧
    (attUp up.fab.link.modUp 0 = true ∧ attUp up.fab.link.modUp 1 = true ∧ (0x0F : BitVec 8) &&& 0xF0 = 0) ∧
    (attUp (up.fab.link.modUp &&& ~~~0x33) 0 = true ∧ attUp (up.fab.link.modUp &&& ~~~0x33) 1 = true ∧
      attUp (up.fab.link.modUp &&& ~~~0x70) 1 = false) ∧
    (Quiet up ∧ up.fab.mem.dir = [] ∧ up.fab.net = [] ∧ up.fab.link.upReq = [] ∧ up.fab.link.upWait = [] ∧ up.fab.link.outWait = [] ∧
      up.fab.link.notes = [] ∧ sideCtxs up.fab = []) ∧
    (let r := withLink up fun l => { l with retraining := [1] }
     linkUp r.fab = true ∧ r.fab.link.retraining = [1] ∧ (0x0F : BitVec 8) &&& 0xF0 = 0) ∧
    (let u := withLink (upstream (.piece 5 0)) fun l => { l with upTime := 200000 }
     (upstream (.piece 5 0)).fab.link.upTime < 0 + 1000 * usec ∧ 0 + 1000 * usec ≤ u.fab.link.upTime ∧
     u.fab.link.state = 1 ∧ Quiet u ∧ u.fab.mem.dir = [] ∧ u.fab.net = [] ∧ u.fab.link.upReq.map (·.2.what) = [.piece 5 0] ∧ findLoad u.fab 5 = some (load0 none)) ∧
    (attUp (up.fab.link.modUp &&& ~~~0x0E) 0 = false ∧ (dir0 0x10 (some 4) none).owner = some 4 ∧ (partRec s.keel 1).isSome = true ∧ s.fab.tab.resets = []) ∧
    (let t := starting { Start.none with running := true, probeDone := true }
     domainOn t.keel 1 = true ∧ t.keel.power.stopping = false ∧ t.keel.start.linkDone = false ∧ attUp 0xF1 0 = false) ∧
    (let t := withTab (withLink s fun l => { l with state := 3 }) fun t => { t with ctxs := [] }
     t.keel.start.running = false ∧ t.fab.link.state = 3 ∧ attUp 0x33 0 = true ∧ attUp 0x33 1 = true ∧ t.fab.tab.ctxs = []) ∧
    (let t := starting { Start.none with running := true, imageDone := true }
     t.keel.time < t.keel.start.probedAt + 50 * msec ∧ t.keel.start.probedAt + 50 * msec ≤ { t.keel with time := 50 * msec }.time ∧
     t.keel.start.probeDone = false ∧ t.keel.start.linkDone = false ∧ t.keel.start.bridgesDone = false ∧ probeOk t.keel [] [] = false ∧
     1 ∈ configured t.keel ∧ needsTether t.keel 1 = true) := by
  and_intros <;> decide

/-- A frame (16 R451): TYPE, virtual channel, LEN, destination, OFFSET, word 4, word 5 and XCOUNT; it comes from 5 and names slot 1. -/
def frame (ty vc len dst off : Nat) (w4 w5 : Word64) (count : Nat := 0) : Frame :=
  { w0 := word [(56, ty), (54, vc), (46, 3), (42, len), (0, 7)], w1 := word [(32, 5), (0, dst)], w2 := word [(32, 1)], w3 := word [(0, off)], w4 := w4
    w5 := w5, w6 := word [(32, count)], w7 := 0, data := zeros (64 * len) }

/-- Address 8; input table 0 leads address 9 to port 1 and address 10 back; one route over port 0, and partition 0 of every peer speaks to partition 1. -/
def routes0 : RouteCfg :=
  { self := 8, hopLimit := 4, frameFwd := 0, origin := [word [(63, 1), (42, 1)]]
    inputs := [[word [(63, 1), (59, 1), (56, 4), (0, 9)], word [(63, 1), (56, 4), (0, 10)]]], pairs := [word [(63, 1), (52, 1)]] }

/-- The device with the routes bound and port 0 standing as given. -/
def ported (p : Port) : State :=
  let s := bound (issuing 0)
  { s with keel := { s.keel with image := some { image0 with routes := some routes0 } }, fab := onGln s.fab fun g => { g with ports := [(0, p)] } }

def up0 : Port := { Port.fresh with state := 2 }

/-- Whether a frame is admitted to bytes of partition 1's near memory from an offset, or refused with a code. -/
def admitsAt (s : State) (fr : Frame) (ok : MemObj → Bool) (align off : Nat) : Bool :=
  match admitFrame s.keel s.fab fr ok align with
  | .ok x => x.1 == loc0 0 off && x.2 == objAll 1 0 4096 0
  | .error _ => false

def refusesWith (s : State) (fr : Frame) (ok : MemObj → Bool) (align code : Nat) : Bool :=
  match admitFrame s.keel s.fab fr ok align with
  | .ok _ => false
  | .error c => c == code

/-- A transfer of source 5 and number 2 of which one frame came. -/
def rx0 (x : Option Frame) : RxXfer := { id := 40, src := 5, xfer := 2, frames := 1, left := 0, refused := 0, xend := x, sig := none }
def xend0 (count : Nat) (w5 : Word64) : Frame := frame 0x06 0 0 8 64 (word [(32, 2)]) w5 count

theorem witness_GlinenRequests :
    let s := ported up0
    let w := fun n off => frame 0x01 0 1 8 off (word [(0, n)]) 0
    let a := frame 0x03 0 1 8 64 (word [(16, 8)]) 0
    let x := frame 0x05 0 1 8 64 (word [(32, 2), (0, 4)]) 0
    Quiet s ∧ (portUp s.keel s.fab 0 = true ∧ (frame 0x01 2 1 8 0 0 0).ty = 0x01 ∧ frameOk (frame 0x01 2 1 8 0 0 0) = false) ∧
    (FrameDue s 0x01 0 (frame 0x01 0 1 9 0 0 0) ∧ longest 0 (routes0.inputs[0]!) 9 = some (0, word [(63, 1), (59, 1), (56, 4), (0, 9)]) ∧
      entryPort (word [(63, 1), (59, 1), (56, 4), (0, 9)]) = 1 ∧ (frame 0x01 0 1 9 0 0 0).hops = 3 ∧
      longest 0 (routes0.inputs[0]!) 10 = some (1, word [(63, 1), (56, 4), (0, 10)]) ∧ entryPort (word [(63, 1), (56, 4), (0, 10)]) = 0 ∧
      longest 0 (routes0.inputs[0]!) 11 = none) ∧
    (ForUs s 0x01 0 (w 8 64) ∧ refusesWith s (w 8 4096) (·.w) 1 0x0205 = true ∧
      refusesWith s { w 8 64 with w2 := word [(56, 1), (32, 1)] } (·.w) 1 0x0503 = true) ∧
    (admitsAt s (w 8 64) (·.w) 1 64 = true ∧ frameWrites s.keel (.glinen 0 (w 8 64)) (w 8 64) (loc0 0 64) ≠ [] ∧ frameWrites s.keel (.glinen 0 (w 0 64)) (w 0 64) (loc0 0 64) = []) ∧
    (ForUs s 0x02 0 (frame 0x02 0 0 8 64 (word [(0, 32)]) 0) ∧ admitsAt s (frame 0x02 0 0 8 64 (word [(0, 32)]) 0) (·.r) 1 64 = true) ∧
    (ForUs s 0x02 0 (frame 0x02 0 0 8 64 0 0) ∧ (frame 0x02 0 0 8 64 0 0).bytes = 0 ∧ admitsAt s (frame 0x02 0 0 8 64 0 0) (·.r) 1 64 = true ∧
      (frame 0x02 0 0 8 64 (word [(0, 32)]) 0).bytes = 32) ∧
    okWith (admitFrame s.keel (withTab s fun t => { t with objs := [(1, objAll 1 0 4094 0)] }).fab { a with w3 := 4092 }
      (fun o => o.r && o.w && o.a) 4) (fun x => decide (x.2.len < 4092 + 4)) = true ∧
    (ForUs s 0x03 0 a ∧ a.a64 = false ∧ admitsAt s a (fun o => o.r && o.w && o.a) 4 64 = true) ∧
    (ForUs s 0x04 0 (frame 0x04 0 0 8 64 0 1) ∧ admitsAt s (frame 0x04 0 0 8 64 0 1) (·.w) 1 64 = true ∧
      translate s.fab 3 (frCid (frame 0x04 0 0 8 64 0 1)) .sig = some 9 ∧ translate s.fab 3 (frCid (frame 0x04 0 0 8 64 0 2)) .sig = none) ∧
    (ForUs s 0x05 0 x ∧ findXfer s.fab 0 x.src x.xfer = none ∧ admitsAt s x (·.w) 1 64 = true ∧
      512 ≤ (portOf (ported { up0 with rx := List.replicate 512 { rx0 none with xfer := 9 } }).fab 0).rx.length ∧
      findXfer (ported { up0 with rx := List.replicate 512 { rx0 none with xfer := 9 } }).fab 0 x.src x.xfer = none ∧
      (portOf s.fab 0).rx.length < 512 ∧ findXfer (ported { up0 with rx := [rx0 none] }).fab 0 x.src x.xfer = some (rx0 none) ∧
      refusesWith s { x with w3 := 4096 } (·.w) 1 0x0205 = true) ∧
    (ForUs s 0x06 0 (xend0 1 0) ∧ frXcount (xend0 1 0) = 1 ∧ frXcount (xend0 2 0) = 2 ∧
      findXfer (ported { up0 with rx := [rx0 none] }).fab 0 5 2 = some (rx0 none) ∧
      admitsAt s (xend0 1 0) (fun _ => true) 1 64 = true ∧ frSigEn (xend0 1 0) = false ∧ translate s.fab 3 (frCid (xend0 1 0x8001)) .sig = some 9) ∧
    (findXfer (ported { up0 with rx := [rx0 (some (xend0 1 0x8001))] }).fab 0 5 2 = some (rx0 (some (xend0 1 0x8001))) ∧
      { rx0 (some (xend0 1 0x8001)) with left := 1 }.left ≠ 0 ∧ (rx0 none).sig = none ∧ { rx0 none with sig := some 9 }.refused = 0) ∧
    FrameDue s 0x07 0 (frame 0x07 0 0 0 64 0 0) := by
  and_intros <;> decide +kernel

/-- Port 0 with one outstanding entry under TAG 7 and a load that waits. -/
def asked (w : OutWhat) (tag : Nat := 7) : State :=
  let s := withCores (issuing 0) fun c => { c with loads := [(5, load0 none)] }
  let s := bound s
  { s with keel := { s.keel with image := some { image0 with routes := some routes0 } }
           fab := onGln s.fab fun g => { g with ports := [(0, { up0 with outst := [(tag, { route := 0, what := w })] })] } }

theorem witness_GlinenPorts :
    let s := ported up0
    let m : Mark := { act := 0, part := 0, i3c := false }
    let late := fun n : Nat => { s with keel := { s.keel with time := n } }
    (Quiet s ∧ s.fab.tab.fences = [] ∧ up0.waitq = [] ∧ up0.txq = []) ∧
    (∀ e ∈ [0x81, 0x84], ForUs (asked (.write (.store 0 0 5))) e 0 (frame e 2 0 8 0 0 0) ∧ (frame e 2 0 8 0 0 0).tag = 7) ∧
    (ForUs (asked (.piece 5 0)) 0x82 0 (frame 0x82 2 1 8 0 (word [(0, 8)]) 0) ∧ findLoad (asked (.piece 5 0)).fab 5 = some (load0 none)) ∧
    ForUs (asked (.xferCopy 0 1)) 0x86 0 (frame 0x86 2 0 8 0 0 0) ∧
    (((tfind (portOf (asked (.piece 5 0)).fab 0).outst 7).map (·.route)) = some 0 ∧ (routeSt (asked (.piece 5 0)).fab 0).down = false ∧
      (routeSt (onGln s.fab fun g => { g with routes := [(0, { RouteSt.fresh with down := true })] }) 0).down = true) ∧
    (tfind (portOf s.fab 0).outst 7 = none ∧ routeOf s.keel 5 = some (0, word [(63, 1), (42, 1)])) ∧
    (FrameDue s 0x00 0 (frame 0x00 0 0 0 0 0 0x8005) ∧ (frame 0x00 0 0 0 0 0 0x8005).w5.getLsbD 15 = true ∧ (up0.rxSeq + 1) / 640 = up0.rxSeq / 640) ∧
    (16 < ((List.replicate 17 0).filter fun x => decide (s.keel.time < x + 200000)).length ∧ up0.uncorrectable.length ≤ 16) ∧
    (portOf (ported { up0 with state := 3 }).fab 0).state = 3 ∧
    (portOn s.keel 0 = true ∧ (portOf (ported { up0 with state := 1 }).fab 0).state = 1) ∧
    (csOpen (linked s).keel (linked s).fab m = true ∧ systemMark m = true ∧ (portOf (linked (ported Port.fresh)).fab 0).state = 0) ∧
    ((originOf s.keel)[0]? = some (word [(63, 1), (42, 1)]) ∧ entryPort (word [(63, 1), (42, 1)]) = 0 ∧ (routeSt s.fab 0).down = false ∧
      (word [(63, 1), (42, 1)]).getLsbD 63 = true ∧ s.keel.time < (routeSt s.fab 0).timer + fld (word [(63, 1), (42, 1)]).toNat 42 14 * 2000 ∧
      (routeSt s.fab 0).timer + fld (word [(63, 1), (42, 1)]).toNat 42 14 * 2000 ≤ (late 2000).keel.time ∧
      (portOf (asked (.piece 5 0) 0).fab 0).outst = [(0, { route := 0, what := .piece 5 0 })]) ∧
    (let t := { late 20000 with fab := onGln s.fab fun g => { g with ports := [(0, { up0 with txq := [(0, frame 0x01 0 1 8 0 0 0)] })] } }
     (portOf t.fab 0).txq[0]? = some (0, frame 0x01 0 1 8 0 0 0) ∧ 0 + 100 * usec ≤ t.keel.time ∧ s.keel.time < 0 + 100 * usec) ∧
    (let p := { up0 with sent := [(0, 1, frame 0x01 0 1 8 0 0 0)] }
     p.sent[0]? = some (0, 1, frame 0x01 0 1 8 0 0 0) ∧ p.txq.length + 0 = 0) ∧
    (let t := fun n => linked { late n with fab := onGln s.fab fun g => { g with
       selA := (6, 0), routes := [(0, { RouteSt.fresh with down := true })] } }
     csOpen (t 5200000).keel (t 5200000).fab m = true ∧ s.keel.fuse.variant.ports = true ∧ routeHere (t 5200000).keel (t 5200000).fab 0 = true ∧
     (routeSt (t 0).fab (routeSel (t 0).fab 0).2).down = true ∧ (portOf (t 0).fab 0).state = 2 ∧ routeHere (linked s).keel (linked s).fab 0 = false) ∧
    (portUp s.keel s.fab 0 = true ∧ (frame 0x01 0 1 8 0 0 0).vc = 0 ∧ 1 + (frame 0x01 0 1 8 0 0 0).len ≤ min 256 (tgetD up0.credits 0 0 + 2) ∧
      (seqOfUnit (up0.unitsSent + (frame 0x01 0 1 8 0 0 0).len) + 4096 - up0.ackSeq) % 4096 ≤ 2048) := by
  and_intros <;> decide +kernel

/-- The device with every rail requested, and a change of its keel or power. -/
def railed : State := { bound (issuing 0) with keel := { (bound (issuing 0)).keel with railReq := 0xFF, pg := 0xFF } }
def keeled (g : Keel → Keel) : State := { railed with keel := g railed.keel }
def powered (g : Power → Power) : State := keeled fun k => { k with power := g k.power }

/-- An array of field 0 of die 0 that runs a step. -/
def active0 (s : State) : State := { s with fab := { s.fab with eng := { s.fab.eng with mx := [(0, { MxArray.fresh with cur := some 1 })] } } }

def cold : TempSample := { sail := List.replicate 4 [[50], [40], [30]], dram := List.replicate 4 (List.replicate 6 [40]) }

theorem witness_PowerLevels :
    let s := railed
    let hot := { cold with sail := [[[20, 105], [0], [0]], [], [], []] }
    let warm := { cold with dram := [[[30, 100]], [], [], []] }
    railBeyond s.keel { rails := [some (951, 1)] } = true ∧
    (railBeyond s.keel { rails := List.replicate 4 (some (580, 100)) } = false ∧ liveRails s.keel = [0, 1, 2, 3] ∧ s.keel.power.stopping = false ∧
      (∀ x ∈ liveRails s.keel, (List.replicate 4 (some (580, 100)))[x]? = some (some (580, 100)) ∧ (railOf s.keel x).est = false)) ∧
    (1 ≤ (railOf (powered fun p => { p with rails := [(1, { Rail.reset with outOfRange := 1 })] }).keel 1).outOfRange ∧ NoStop s) ∧
    ((s.keel.on && s.keel.railReq.getLsbD 4) = true ∧ ((List.replicate 10 (none : Option PmbusRead))[3]? = some none) ∧
      (List.replicate 10 (some ({ mv := 800, ma := 1000, temp := 40, status := 0 } : PmbusRead)))[9]? = some (some { mv := 800, ma := 1000, temp := 40, status := 0 })) ∧
    (let t := powered fun p => { p with rails := [(2, { Rail.reset with due := some true })] }
     (railOf t.keel 2).due = some true ∧ (railOf t.keel 2).stepAt = none ∧ s.keel.time < 0 + 2 * usec ∧ dieCut t.keel 2 = false) ∧
    (let t := active0 (powered fun p => { p with trackW := 5410, measW := 5410 })
     (railEstimates t.keel (activity t.keel t.fab)).sum = 0 ∧ t.keel.power.estAtSample.sum = 0 ∧ 0 < excess t.keel ∧ 0 ∈ activeDoms t.keel t.fab ∧ 4 < (levelOf t.keel 0).target ∧ excess s.keel = 0 ∧
     s.keel.power.trackW * 100 ≤ 98 * (powerCfg s.keel).pcapSust ∧ s.keel.power.raised = false ∧ 5 ∈ levelsOn s.keel) ∧
    (let t := powered fun p => { p with measW := 5401, vMinSince := some 0 }
     0 + 200000 ≤ ({ t.keel with time := 200000 } : Keel).time ∧ (powerCfg t.keel).pcapTrans < t.keel.power.measW) ∧
    (domainOn s.keel (levelDom 3) = true ∧ (levelOf s.keel 3).cut = false ∧
      (levelOf (powered fun p => { p with levels := [(3, { Level.reset with cut := true })] }).keel 3).cut = true ∧
      ((some 0 : Option Nat).any fun c => decide (s.keel.time < c + 8 * usec)) = true) ∧
    (tempBeyond s.keel { cold with sail := [[[116], [0], [0]], [], [], []] } = true ∧ tempBeyond s.keel { cold with dram := [[[106]], [], [], []] } = true) ∧
    (tempBeyond s.keel cold = false ∧ sailsOn s.keel = [0, 1, 2, 3] ∧ (∀ y ∈ sailsOn s.keel, hotT cold y < 105) ∧
      (∀ j ∈ dramsOn s.keel, dramT cold j < 100)) ∧
    (tempBeyond s.keel hot = false ∧ 105 ≤ hotT hot 0 ∧ (∀ j ∈ dramsOn s.keel, dramT hot j < 100)) ∧
    (tempBeyond s.keel warm = false ∧ 0 ∈ dramsOn s.keel ∧ 100 ≤ dramT warm 0 ∧ ∀ y ∈ sailsOn s.keel, hotT warm y < 105) ∧
    (tfind (powered fun p => { p with dramOver := [(0, 0)] }).keel.power.dramOver 0 = some 0 ∧ s.keel.time < 0 + msec ∧ 0 ∈ dramsOn s.keel) := by
  and_intros <;> decide +kernel

theorem witness_PowerStops :
    let s := keeled fun k => { k with coolantOk := true }
    let m : Mark := { act := 0, part := 0, i3c := false }
    let st := { Start.none with running := true, imageDone := true, probeDone := true }
    (s.keel.coolantOk = true ∧ s.keel.power.on ≠ 1 ∧ NoStop s) ∧
    (let t := { State.reset with keel := { State.reset.keel with coolantOk := true } }
     t.keel.resetN = false ∧ t.keel.power.on = 1 ∧ t.keel.resetFall = none) ∧
    (let r : ResetFall := { time := 0, running := true }
     let t := { State.reset with keel := { State.reset.keel with coolantOk := true, resetFall := some r } }
     t.keel.resetN = false ∧ t.keel.time < r.time + usec ∧ r.running = true ∧ t.keel.start.running = false ∧ NoStop t) ∧
    (s.keel.pg.getLsbD 7 = true ∧ s.keel.railReq.getLsbD 7 = true ∧ s.keel.power.stopping = false ∧
      (keeled fun k => { k with railReq := 0 }).keel.railReq.getLsbD 7 = false) ∧
    (let t := keeled fun k => { k with pg := 0x7F, start := st }
     { st with asked := [(7, 0)] }.running = true ∧ tfind { st with asked := [(7, 0)] }.asked 7 = some 0 ∧ t.keel.time < 0 + 10 * msec ∧
     t.keel.start.running = true ∧ t.keel.railReq.getLsbD 7 = true ∧ t.keel.pg.getLsbD 7 = false) ∧
    (powered fun p => { p with stopping := true }).keel.power.stopping = true ∧
    (let k := { s.keel with railReq := 0, pg := 0, start := st }
     k.on = true ∧ (k.start.running && k.start.imageDone && k.start.probeDone && k.coolantOk && !k.power.stopping) = true ∧ nextRails k ≠ []) ∧
    (keeled fun k => { k with on := false }).keel.on = false ∧
    (let t := withTab (linked (powered fun p => { p with state := 1 })) fun t => { t with ctxs := [] }
     let t := withCores t fun c => { c with groups := [] }
     csOpen t.keel t.fab m = true ∧ systemMark m = true ∧ (1 : Word32).toNat % 4 = 1 ∧ t.keel.power.state = 1 ∧ t.keel.power.retention = 0 ∧
     t.keel.sec.devStep = 0 ∧ idle t.fab = true ∧ idle (linked (issuing 0)).fab = false) ∧
    ((powered fun p => { p with retention := 1 }).keel.power.retention = 1 ∧ memQuiet s.fab = true ∧ (∀ p, p < 16 → tetherHeld s.fab p = []) ∧
      memQuiet (withNet s [(4, .memRead (loc0 0 0) 32 (.job 0 0))]).fab = false) ∧
    ((2 : Word32).toNat % 4 = 2 ∧ csOpen (linked (powered fun p => { p with retention := 2 })).keel (linked s).fab m = true) ∧
    ((powered fun p => { p with retention := 3 }).keel.power.retention = 3 ∧ Quiet s ∧ s.fab.tab.queues = [] ∧ liveRails s.keel ≠ [] ∧
      (let t := powered fun p => { p with rails := (List.range 4).map fun x => (x, { Rail.reset with reqMv := 1000 }) }
       ∀ x ∈ liveRails t.keel, (railCfg t.keel x).vTarget ≤ (railOf t.keel x).reqMv) ∧
      (let t := powered fun p => { p with rails := [(1, { Rail.reset with reqMv := 600 })] }
       1 ∈ liveRails t.keel ∧ (railOf t.keel 1).reqMv < (railCfg t.keel 1).vTarget)) := by
  and_intros <;> decide +kernel

/-- A header of the right form (18 R492) with a SEQ, one section and a LENGTH of 512 bytes. -/
def header0 (seq : Nat) : List Byte :=
  bytesLE 8 0x4746435241544F58 ++ bytesLE 4 1 ++ zeros 4 ++ bytesLE 8 seq ++ bytesLE 8 512 ++ bytesLE 4 1 ++ zeros 220

/-- Bytes in an erased NVM from an address on. -/
def nvmCells : Nat → List Byte → List Host.Cell
  | _, [] => []
  | a, b :: bs => (a, b) :: nvmCells (a + 1) bs

theorem nvm_reads (rest : List Host.Cell) : ∀ (bs : List Byte) (a : Nat),
    (List.range bs.length).map (fun i => cread Nvm.erased (nvmCells a bs ++ rest) (a + i)) = bs
  | [], _ => rfl
  | b :: bs, a => by
    have ih := nvm_reads rest bs (a + 1)
    rw [List.length_cons, List.range_succ_eq_map, List.map_cons, List.map_map]
    refine congr (congrArg List.cons ?_) (Eq.trans (List.map_congr_left fun i _ => ?_) ih)
    · simp [nvmCells, cread, tgetD, tfind]
    · simp [nvmCells, cread, tgetD, tfind, Nat.add_assoc, Nat.add_comm 1]

theorem nvm_skips (rest : List Host.Cell) (x : Nat) : ∀ (bs : List Byte) (a : Nat), a + bs.length ≤ x →
    cread Nvm.erased (nvmCells a bs ++ rest) x = cread Nvm.erased rest x
  | [], _, _ => rfl
  | b :: bs, a, h => by
    have : ¬ x = a := by simp only [List.length_cons] at h; omega
    have ih := nvm_skips rest x bs (a + 1) (by simp only [List.length_cons] at h; omega)
    simpa [nvmCells, cread, tgetD, tfind, this] using ih

/-- A start as it stands in its course, with a change of the keel. -/
def starting (st : Start) (g : Keel → Keel := id) : State := keeled fun k => g { k with start := { st with running := true } }

/-- Of an owner without keys, so that the signature fails whatever the ciphers are, with headers in both slots or in slot A alone. -/
def slotted (both : Bool) : State :=
  starting Start.none fun k => { k with
    fuse := { k.fuse with lifecycle := 2 }
    nvm := { k.nvm with answers := true, cells := nvmCells 0 (header0 1) ++ if both then nvmCells (2 ^ 25) (header0 2) else [] } }

theorem header_read (rest : List Host.Cell) (a : Nat) (h : List Byte) (hl : h.length = 256) :
    (List.range 256).map (fun i => cread Nvm.erased (nvmCells a h ++ rest) (a + i)) = h := by
  rw [← hl]; exact nvm_reads rest h a

theorem slotted_headers :
    slotHeader (slotted true).keel 0 = header0 1 ∧ slotHeader (slotted true).keel 1 = header0 2 ∧ slotHeader (slotted false).keel 0 = header0 1 ∧
    slotHeader (slotted false).keel 1 = List.replicate 256 0xFF := by
  have l1 : (header0 1).length = 256 := by decide +kernel
  have l2 : (header0 2).length = 256 := by decide +kernel
  refine ⟨header_read _ 0 _ l1, ?_, header_read _ 0 _ l1, ?_⟩
  · refine Eq.trans (List.map_congr_left fun i _ => nvm_skips _ _ _ _ ?_) ((congrArg (fun c => (List.range 256).map fun i => cread Nvm.erased c (2 ^ 25 + i))
      (List.append_nil _).symm).trans (header_read [] (2 ^ 25) (header0 2) l2))
    rw [l1]; change 0 + 256 ≤ 1 * 2 ^ 25 + i; omega
  · refine Eq.trans (List.map_congr_left fun i _ => nvm_skips _ _ _ _ ?_) (by decide +kernel :
      (List.range 256).map (fun i => cread Nvm.erased [] (2 ^ 25 + i)) = List.replicate 256 0xFF)
    rw [l1]; change 0 + 256 ≤ 1 * 2 ^ 25 + i; omega

/-- What the slots show: the order in which they are tried, and that their signature fails. -/
theorem slotted_slots :
    (slotOrder (slotted true).keel).filter (fun y => !Start.none.tried.contains y) = [1, 0] ∧
    (slotOrder (slotted false).keel).filter (fun y => !Start.none.tried.contains y) = [0] ∧
    slotBad (slotted true).keel 1 = some { code := 0x02, sectionIx := 0xFF, detail := 0 } ∧
    slotBad (slotted false).keel 0 = some { code := 0x02, sectionIx := 0xFF, detail := 0 } := by
  obtain ⟨h0, h1, h2, h3⟩ := slotted_headers
  have a0 : slotOk (slotted true).keel 0 = true := by unfold slotOk; rw [h0]; decide +kernel
  have a1 : slotOk (slotted true).keel 1 = true := by unfold slotOk; rw [h1]; decide +kernel
  have b0 : slotOk (slotted false).keel 0 = true := by unfold slotOk; rw [h2]; decide +kernel
  have b1 : slotOk (slotted false).keel 1 = false := by unfold slotOk; rw [h3]; decide +kernel
  have qa : slotSeq (slotted true).keel 1 > slotSeq (slotted true).keel 0 := by unfold slotSeq; rw [h0, h1]; decide +kernel
  refine ⟨by simp [slotOrder, a0, a1, qa, Start.none], ?_, by simp only [slotBad, a1, if_true]; decide +kernel, by simp only [slotBad, b0, if_true]; decide +kernel⟩
  unfold slotOrder
  split <;> simp [b0, b1, Start.none]

/-- Every part of a start but the link and the partitions has ended. -/
def almost : State :=
  let s := starting { Start.none with imageDone := true, probeDone := true, bridgesDone := true } fun k => { k with lpddrDone := true, tetherKind := 1, chan := 1 }
  withMem s fun m => { m with chans := [(0, { Chan.fresh with trained := true })] }

theorem witness_StartSteps :
    let s := railed
    let x : Bad := { code := 0x02, sectionIx := 0xFF, detail := 0 }
    let there : ChannelAnswer := { answers := true, cap := 1, ranks := 1, rateOk := true }
    let none_ : ChannelAnswer := { there with answers := false }
    let probed := starting { Start.none with imageDone := true, probeDone := true }
    let next := fun on : BitVec 20 => starting { Start.none with imageDone := true, probeDone := true } fun k => { k with
      coolantOk := true, tetherKind := 1, power := { k.power with on := on } }
    (s.keel.on = true ∧ s.keel.resetN = false ∧ s.keel.power.stopping = false ∧ s.keel.boot.moored = false) ∧
    ((keeled fun k => { k with resetN := true }).keel.power.on ≠ 1 ∧ ({ State.reset.keel with resetN := true } : Keel).power.on = 1) ∧
    ((slotOrder (slotted true).keel).filter (fun y => !Start.none.tried.contains y) = [1, 0] ∧ slotBad (slotted true).keel 1 = some x ∧
      (slotOrder (slotted false).keel).filter (fun y => !Start.none.tried.contains y) = [0] ∧ slotBad (slotted false).keel 0 = some x) ∧
    ((starting Start.none fun k => { k with nvm := { k.nvm with answers := false } }).keel.nvm.answers = false ∧
      (starting Start.none fun k => { k with nvm := { k.nvm with answers := true } }).keel.nvm.answers = true ∧ slotOrder (starting Start.none).keel = []) ∧
    (memsOn probed.keel = true ∧ (setBits 4 (2 : BitVec 4).toNat).filter (bridgeThere probed.keel) = [1] ∧
      (setBits 4 (0 : BitVec 4).toNat).filter (bridgeThere probed.keel) = []) ∧
    (mayTurnOn (next 0x80001).keel 1 = true ∧ mayTurnOn (next 0x88881).keel 2 = true ∧ mayTurnOn (next 0x88881).keel 3 = true ∧
      mayTurnOn (next 1).keel 7 = true ∧ mayTurnOn (next 0x88881).keel 18 = true) ∧
    (overCapacity probed.keel [there, none_, none_, none_] = [] ∧ populationBad [there, none_, none_, none_] = [1, 2, 3] ∧
      populationBad [none_, none_, none_, none_] = [] ∧ populationBad (List.replicate 4 there) = [] ∧
      overCapacity (starting Start.none fun k => { k with
        image := some { image0 with parts := [noPart, { part1 with lpdUnits := 25 }] } }).keel (List.replicate 4 there) = [0]) ∧
    (configured probed.keel = [1] ∧ partRec probed.keel 1 = some part1 ∧ (setBits 32 part1.lpdMask).filter (fun c => !(0 : Word32).getLsbD c) = [0]) ∧
    (almost.keel.chan.getLsbD 0 = true ∧ trainedOrFailed (withMem almost fun m => { m with chans := [] }).fab 0 = false ∧ partsOnChan almost.keel 0 = [1]) ∧
    (almost.keel.boot.ready.getLsbD 1 = false ∧ almost.keel.boot.failed.getLsbD 1 = false ∧ scrubbed almost.keel almost.fab 1 = true ∧
      (∀ o ∈ configured almost.keel, scrubsFirst almost.keel almost.fab o 1 = false) ∧ progsOf almost.keel 1 = [] ∧ Quiet almost ∧ lpdEnded almost.keel almost.fab = true ∧ allOn almost.keel = true) ∧
    (let t := { almost with keel := { almost.keel with image := some { image0 with parts := [noPart, part1, part1], localUnits := [] } } }
     1 ∈ configured t.keel ∧ scrubsFirst t.keel t.fab 1 2 = true) ∧
    (let t := fun time => keeled fun k => { k with start := { Start.none with retryAt := some 0 }, resetN := true, time := time }
     (t 0).keel.start.running = false ∧ (t 0).keel.time < 0 + 100 * msec ∧ 0 + 100 * msec ≤ (t (100 * msec)).keel.time) ∧
    (let t := fun time => starting Start.none fun k => { k with time := time }
     (t 0).keel.time < (t 0).keel.start.began + 2000 * msec ∧ (t 0).keel.start.began + 2000 * msec ≤ (t (2000 * msec)).keel.time) := by
  refine ⟨?_, ?_, ⟨slotted_slots.1, slotted_slots.2.2.1, slotted_slots.2.1, slotted_slots.2.2.2⟩, ?_, ?_, ?_, ?_, ?_, ?_, ?_, ?_, ?_, ?_⟩ <;> decide +kernel

/-- A public key, with which another program made the signatures of these tests by RFC 8032 (seed: 32 bytes 7). -/
def signer0 : List Byte := bytesLE 32 0x2cd2461469ea1e42927bbebeae764795f9c52e137b50f5be0a529ce2636c4aea

/-- A record of the right form (15 R433) with that key. -/
def record0 : List Byte := bytesLE 8 1 ++ signer0 ++ zeros 88

/-- Its signature over the nonce and the record. -/
def answer0 : List Byte := bytesLE 64 0xf1ea0a662a83fc8054f3195e5a7ff65dc07ea79fea1ff11ae2685be0df2e8bcc600dd788926c1f1da06a708366de714a25a2d56c0626c0dff6ba2b96957673e

/-- The answer verifies; over another nonce it does not. -/
theorem witness_probe :
    (let t := starting { Start.none with imageDone := true }
     t.keel.start.running = true ∧ t.keel.start.imageDone = true ∧ t.keel.start.probeDone = false ∧ t.keel.start.linkDone = false ∧
     probeOk t.keel record0 answer0 = true) ∧
    probeOk { keel0 with sec := { keel0.sec with probeNonce := List.replicate 32 1 } } record0 answer0 = false := by
  and_intros <;> decide +kernel

/-- The keel of an owner with a key. -/
def owned (nonce : Option (List Byte)) (staging : List Byte) : Keel :=
  (keeled fun k => { k with fuse := { k.fuse with lifecycle := 2, slots := [{ imageKey := signer0, debugKey := signer0 }] }
                            sec := { k.sec with nonce := nonce, staging := staging } }).keel

/-- Whether an image passes rests first on its signature; where it verifies, the version is next. -/
theorem witness_signature (k : Keel) (img key : List Byte) (hk : imageKey k = some key) (hs : k.fuse.minSvn ≤ imageSvn img) :
    signBad k img = [] ↔ Crypto.ed25519phVerify key imageContext (imageDigest img) (img.drop (img.length - 64)) = true := by
  unfold signBad
  rw [hk]
  cases h : Crypto.ed25519phVerify key imageContext (imageDigest img) (img.drop (img.length - 64)) <;> simp [h, badIf, Nat.not_lt.mpr hs]

/-- FIPS 180-4's example: the digest of "abc". -/
theorem test_sha512 : Crypto.sha512 (ascii "abc") =
    (bytesLE 64 0xddaf35a193617abacc417349ae20413112e6fa4e89a97ea20a9eeee64b55d39a2192992a274fc1a836ba3c23a3feebbd454d4423643ce80e2a9ac94fa54ca49f).reverse := by
  decide +kernel

/-- RFC 8032, 7.1: the signature of test 1, and the key of test 2. -/
theorem test_ed25519 : Crypto.ed25519Verify (bytesLE 32 0xd75a980182b10ab7d54bfed3c964073a0ee172f3daa62325af021a68f707511a).reverse []
    (bytesLE 64 0xe5564300c360ac729086e2cc806e828a84877f1eb8e5d974d873e065224901555fb8821590a33bacc61e39701cf9b46bd25bf5f0595bbe24655141438e7a100b).reverse =
      true ∧
    Crypto.publicKey (bytesLE 32 0x4ccd089b28ff96da9db6c346ec114e0f5b8a319f35aba624da8cf6ed4fb8a6fb).reverse =
      (bytesLE 32 0x3d4017c3e843895a92b70aa74d1b7ebc9c982ccf2ec4968cc0cd55f12af4660c).reverse := by
  and_intros <;> decide +kernel

/-- An Ed25519ph signature over that digest verifies with the image's context string, and not without one (18 R492). -/
theorem test_image_context :
    let sig := bytesLE 64 0x351219f765905b0d9678f104af88e5e7e32abc459bf414458c7bc0098994daa37e6ddbd28fe136cf133f3b4a085bc01ac4e628700f0f78e48c772fc1ca930b6
    Crypto.ed25519phVerify signer0 imageContext (Crypto.sha512 (ascii "abc")) sig = true ∧
    Crypto.ed25519phVerify signer0 [] (Crypto.sha512 (ascii "abc")) sig = false := by
  and_intros <;> decide +kernel

/-- A mailbox message: OP and ID, six zero bytes, and a body of whole words. -/
def ask (op : Nat) (body : List Byte) : List Byte := [BitVec.ofNat 8 op, 9] ++ zeros 6 ++ body

theorem witness_MailboxRequests :
    let s := keeled fun k => { k with nvm := { k.nvm with answers := true } }
    let k := s.keel
    let a := ask 0x02 (bytesLE 8 65536 ++ bytesLE 8 65536)
    let w := ask 0x03 (bytesLE 8 8 ++ zeros 8)
    let r := ask 0x04 (bytesLE 8 (48 * 2 ^ 48 + 8))
    let locked := starting { Start.none with imageDone := true }
    (∀ op ∈ [0x01, 0x02, 0x03, 0x04, 0x05, 0x06, 0x07, 0x10, 0x11, 0x12, 0x13, 0x14, 0x15, 0x16], Asks (starting Start.none) op (ask op [])) ∧
    (readingNvm (starting Start.none).keel = true ∧ readingNvm k = false ∧ k.nvmReply = none ∧ { k with nvmReply := some (false, []) }.nvmReply.isSome = true) ∧
    (Asks s 0x03 (ask 0x03 (zeros 8)) ∧ (ask 0x03 (zeros 8)).length < 24 ∧ fld (numAt (ask 0x04 (zeros 8)) 8 8) 48 8 = 0 ∧
      1 < numAt (ask 0x05 (bytesLE 8 2)) 8 1 ∧ { k.nvm with answers := false }.answers = false ∧ slotRuns locked.keel (nvmSlot w) = true) ∧
    (Asks s 0x02 (ask 0x02 (bytesLE 8 8 ++ bytesLE 8 65536)) ∧ nvmOff (ask 0x02 (bytesLE 8 8 ++ bytesLE 8 65536)) % 65536 ≠ 0) ∧
    (Asks s 0x02 a ∧ 24 ≤ a.length ∧ nvmOff a % 65536 = 0 ∧ numAt a 16 8 % 65536 = 0 ∧ nvmOff a + numAt a 16 8 ≤ k.nvm.size / 2 ∧
      k.nvm.answers = true ∧ slotRuns k (nvmSlot a) = false ∧ slotRuns locked.keel (nvmSlot a) = true) ∧
    (Asks s 0x03 w ∧ 24 ≤ w.length ∧ nvmOff w + (w.drop 16).length ≤ k.nvm.size / 2 ∧ slotRuns k (nvmSlot w) = false) ∧
    (Asks s 0x04 r ∧ fld (numAt r 8 8) 48 8 = 48 ∧ nvmOff r + 48 ≤ k.nvm.size / 2) ∧
    (Asks s 0x05 (ask 0x05 (zeros 8)) ∧ numAt (ask 0x05 (zeros 8)) 8 1 ≤ 1 ∧ keyed k = true ∧ keyed { k with fuse := { k.fuse with lifecycle := 3 } } = false) ∧
    (Asks s 0x06 (ask 0x06 []) ∧ k.boot.moored = false ∧ (keeled fun k => { k with boot := { k.boot with moored := true } }).keel.boot.moored = true) ∧
    (Asks s 0x07 (ask 0x07 []) ∧ k.boot.device = false ∧ (keeled fun k => { k with boot := { k.boot with device := true } }).keel.boot.device = true) ∧
    (Asks s 0x10 (ask 0x10 []) ∧ Asks s 0x11 (ask 0x11 (bytesLE 8 504 ++ zeros 8)) ∧
      numAt (ask 0x11 (bytesLE 8 504 ++ zeros 8)) 8 2 + ((ask 0x11 (bytesLE 8 504 ++ zeros 8)).drop 16).length ≤ 512 ∧
      512 < numAt (ask 0x11 (bytesLE 8 512 ++ zeros 8)) 8 2 + ((ask 0x11 (bytesLE 8 512 ++ zeros 8)).drop 16).length) ∧
    (Asks s 0x12 (ask 0x12 []) ∧ decide (k.fuse.lifecycle = 1 ∧ k.fuse.slots.length < 4) = true ∧ Asks s 0x13 (ask 0x13 []) ∧
      decide (k.fuse.lifecycle = 2) = false ∧ Asks s 0x14 (ask 0x14 []) ∧ keyed k = true ∧ k.sec.nonce = none) ∧
    (Asks s 0x15 (ask 0x15 (bytesLE 8 64)) ∧ numAt (ask 0x15 (bytesLE 8 64)) 8 1 = 64 ∧ k.fuse.dbgMin < 63) ∧
    (Asks s 0x16 (ask 0x16 (zeros 8)) ∧ 16 ≤ (ask 0x16 (zeros 8)).length ∧ Asks s 0x16 (ask 0x16 []) ∧ (ask 0x16 []).length < 16) ∧
    (keeled fun k => { k with nvmReply := some (false, []) }).keel.mboxOut = false ∧
    (keeled fun k => { k with mboxOut := true, mboxWait := [.mboxAck] }).keel.mboxWait = [.mboxAck] := by
  and_intros <;> decide +kernel

/-- A staged signature that verifies lets RELEASE_OWNERSHIP pass, and another RAISE_DBG_SVN; over another nonce it does not. -/
theorem witness_signed :
    let rel := owned (some (zeros 32)) (bytesLE 64 0xeb5ecbe1bcccc6590dda49b37516bd8d39dcc893dd1c64be3f592c390cc7a725110f4fb05e36d18658f42cb56a998ba94cd63469e60fe97995f5c1e739fbdb9 ++ zeros 448)
    let up := owned (some (zeros 32)) (bytesLE 64 0xd3e3b54d6a57fd73081bbccbecd44960dc20f3072fe41fc8da2294d2429cce4db06db67aa74a710887df73163266adeb4fe22f73b2b8cc8dbe2072bd6d765f3 ++ zeros 448)
    (keyed rel = true ∧ decide (rel.fuse.lifecycle = 2) = true ∧ rel.sec.nonce = some (zeros 32) ∧ debugKey rel = some signer0 ∧
      up.fuse.dbgMin < 1 ∧ up.sec.nonce = some (zeros 32)) ∧
    Crypto.ed25519Verify signer0 (zeros 32 ++ rel.sec.deviceId ++ [0x13]) (slice rel.sec.staging 0 64) = true ∧
    Crypto.ed25519Verify signer0 (zeros 32 ++ up.sec.deviceId ++ [0x15, 1]) (slice up.sec.staging 0 64) = true ∧
    Crypto.ed25519Verify signer0 (List.replicate 32 1 ++ rel.sec.deviceId ++ [0x13]) (slice rel.sec.staging 0 64) = false := by
  and_intros <;> decide +kernel

/-- A token of LEVEL 1 for partition 1 with both its signatures passes the checks of OPEN (19 R516, R518). -/
theorem witness_token :
    let token := bytesLE 4 0x01010001 ++ zeros 20 ++ signer0 ++ zeros 8
    let r := token ++ bytesLE 64 0x1f74b4c1cccecafd5d99ef2a1587a129a379c3c51dc27d46ac3a0b50c0606a594c6ccc89e0ed2f2c39e56266892290b3edb552022d607148fb4d6ce3397460d ++ bytesLE 64 0x8e30d37d0cb3cb49258a906287b1d13fb268fa822c2189aa2022ac7e707b9bb2adfb0356ca9395dd08a0a18eae5f89d7d96be6749e02d2c848602f70bc252d2
    let k := owned (some (zeros 32)) []
    openChecks { k with boot := { k.boot with imageOk := true } } k.sec.nonce r = 0 := by
  decide +kernel

/-- The device with its tether link up and partition 1 ready, and a change of what belongs to security. -/
def secured (g : Sec → Sec) : State := linked (keeled fun k => { k with boot := { k.boot with ready := 2 }, sec := g k.sec })

theorem witness_DebugAndAttestation :
    let s := secured id
    let r : OpenReq := { level := 1, part := 1, tsvn := 0, result := 0 }
    let i3c : Mark := { act := 0, part := 0, i3c := true }
    let d2 : Mark := { act := 2, part := 1, i3c := false }
    (∀ op ∈ [1, 2, 3, 4, 5, 6], DbgWrite s m1 (BitVec.ofNat 32 op) op ∧ DbgWrite s i3c (BitVec.ofNat 32 op) op) ∧
    (KeelWrite (secured fun x => { x with busy := true }) m1 ∧ (secured fun x => { x with busy := true }).keel.sec.busy = true) ∧
    (let t := secured fun x => { x with busy := true, openReq := some r }
     t.keel.sec.openReq = some r ∧ t.keel.sec.devStep = 0 ∧ r.part < 16 ∧ (partRec t.keel r.part).isSome = true ∧
     t.keel.boot.ready.getLsbD r.part = true ∧ t.keel.sec.psess.getLsbD r.part = false ∧ openLast t.keel { r with part := 2 } = 8 ∧
     t.keel.sec.device = false ∧ configured t.keel = [1] ∧ tfind t.fab.tab.resets 1 = none) ∧
    (let t := secured fun x => { x with devStep := 1 }
     t.keel.sec.devStep = 1 ∧ t.fab.tab.resets = [] ∧ (∀ q ∈ configured t.keel, linesQuiet t.fab q = true) ∧ t.fab.tab.queues = [] ∧
     (∃ q, q = 1 ∧ q ∈ configured t.keel ∧ partRec t.keel q = some part1 ∧ part1.tetherBytes ≠ 0) ∧
     configured (keeled fun k => { k with image := some { image0 with parts := [] } }).keel = []) ∧
    (let t := secured fun x => { x with devStep := 4, zeroWait := 2 }
     t.keel.sec.devStep = 4 ∧ t.keel.sec.zeroWait.getLsbD 1 = true ∧ (∀ o, o < 16 → o ≠ 1 → t.keel.sec.zeroWait.getLsbD o = false) ∧
     t.keel.time < t.keel.sec.zeroAt + 1000 * msec ∧
     t.keel.sec.zeroAt + 1000 * msec ≤ { t.keel with time := 1000 * msec }.time ∧ t.fab.tab.queues = []) ∧
    (let t := secured fun x => { x with zeroWait := 6 }
     (∃ o, o < 16 ∧ o ≠ 1 ∧ t.keel.sec.zeroWait.getLsbD o = true)) ∧
    (fld (0x103 : Word32).toNat 8 4 = 1 ∧ DbgWrite s m1 0x103 3 ∧ s.keel.sec.psess.getLsbD 1 = false ∧
      (secured fun x => { x with psess := 2 }).keel.sec.psess.getLsbD 1 = true) ∧
    (DbgWrite s m1 0x104 4 ∧ s.keel.sec.device = false ∧ (secured fun x => { x with device := true }).keel.sec.device = true) ∧
    (DbgWrite s d2 0x105 5 ∧ debugsFor s.keel d2 1 = false ∧ debugsFor (secured fun x => { x with psess := 2 }).keel d2 1 = true ∧
      DbgWrite (secured fun x => { x with psess := 2 }) d2 0x106 6) ∧
    ((secured fun x => { x with heldByPart := 2 }).keel.sec.held.getLsbD 1 = true ∧ partAtRest s.fab 1 = true ∧
      partAtRest (onEng s.fab fun e => { e with mx := [(0, { MxArray.fresh with queue := [mxEntry (mxBytes 0 1) true 0], cur := some 5 })] }) 1 = false) ∧
    (csOpen s.keel s.fab m1 = true ∧ bankOf s.keel m1 = some 1 ∧ (1 : Word32).getLsbD 0 = true ∧ (1 : Word32).getLsbD 29 = false ∧
      (attBank s.keel 1).busy = false ∧ s.keel.boot.ready.getLsbD 1 = true ∧ s.keel.power.retention = 0 ∧ railed.keel.boot.ready.getLsbD 1 = false) ∧
    s.keel.sec.devStep = 0 ∧ (secured fun x => { x with devStep := 1 }).keel.sec.devStep ≠ 0 ∧
    (attBank (secured fun x => { x with att := [(1, { attBank s.keel 1 with busy := true })] }).keel 1).busy = true := by
  and_intros <;> first | decide +kernel | exact ⟨1, by decide +kernel⟩ | exact ⟨2, by decide +kernel⟩

theorem witness_I3cAndRegisters :
    let s := linked (withTab railed fun t => { t with ctxs := [] })
    let m : Mark := { act := 0, part := 0, i3c := false }
    (s.keel.on = true ∧ s.keel.i3c.dyn = none ∧ (keeled fun k => { k with i3c := { k.i3c with dyn := some 9 } }).keel.i3c.dyn = some 9) ∧
    ((1 : BitVec 8).getLsbD 0 = true ∧ (bytesLE 4 0x1100).length = 4 ∧ leNat (bytesLE 4 0x1100) = 0x1100 ∧ leNat (bytesLE 4 0x1104) % 8 = 4 ∧
      0x10_0000 ≤ leNat (bytesLE 4 0x1003000)) ∧
    ((keeled fun k => { k with i3c := { k.i3c with dyn := some 9 } }).keel.i3c.dyn.isSome = true ∧ msgForm (ask 0x01 []) = true ∧ numAt (ask 0x01 []) 0 1 = 0x01 ∧ readingNvm s.keel = false) ∧
    (csOpen s.keel s.fab m = true ∧ systemMark m = true ∧ Quiet s ∧ csAligned 0x2106 4 = false ∧ 3 < s.keel.sails) ∧
    (csOpen s.keel s.fab m1 = true ∧ csOpen s.keel s.fab { m with i3c := true } = false) := by
  and_intros <;> decide +kernel

/-- The reset state is sound, so the two invariants start somewhere; and a step of it answers a next state. -/
theorem witness_sound : State.reset.keel.sound ∧ State.reset.fab.mem.wf = true ∧ ∃ t, step State.reset = .next t :=
  ⟨⟨⟨by decide, by decide, by decide, nofun⟩, nofun, rfl, by decide⟩, rfl, _, rfl⟩

/-- The idle step's hypotheses, and both outcomes of the commands that can fault. -/
theorem witness_steps :
    State.reset.pending = [] ∧ State.reset.keel.on = true ∧ State.reset.fab.link.csWait = [] ∧ State.reset.fab.mem.fatal = [] ∧
    railBeyond railed.keel { rails := [some (951, 1)] } = true ∧ railBeyond railed.keel { rails := [some (950, 1)] } = false ∧
    tempBeyond railed.keel { cold with dram := [[[106]], [], [], []] } = true ∧ tempBeyond railed.keel { cold with dram := [[[105]], [], [], []] } = false := by
  decide +kernel

/-! ### Well-formedness: each check refuses a command just beyond it and passes the one just within -/

/-- A command is well-formed with the last number below a bound, and refused with the bound. -/
def bounded (c : Nat → Instr) (n : Nat) : Bool := (c (n - 1)).wf && !(c n).wf

def marked (act part : Nat) : Mark := { act := act, part := part, i3c := false }
def badFlit (n : Nat) : Flit := { flit 0x01 0 1 1 7 0 0 0 with data := zeros n }
def badFrame (n : Nat) : Frame := { frame 0x01 0 1 8 0 0 0 with data := zeros n }

/-- A sample of every sensor of four sail dies (17 R481). -/
def sensors : TempSample := { sail := List.replicate 4 (List.replicate 3 (List.replicate 12 40)), dram := List.replicate 4 (List.replicate 6 (List.replicate 4 40)) }

theorem test_wf_groups :
    ([.integerArithmetic, .cmp, .predicateLogic, .mov, .movI32, .sel, .cvt, .xlane, .floatArithmetic, .sfLookup, .sfAccumulate, .sfNormalise,
      .sfRowRead, .sfStatsAccumulate, .sfMean, .sfVariance, .sfRms, .ld, .st, .ldTr, .atomic, .ldRes, .stCond, .fragLd, .fragSt, .lockAcq, .lockRel,
      .mxIssue, .cpIssue, .rtIssue, .fence, .cntSig, .cntCwait, .cntOwait, .cntSet, .cntRd, .barBlk, .nop, .br, .brJoin, .brInd, .call, .exit, .rdSrc,
      .parkDrainComplete] : List (GroupAt → Instr)).all (fun c =>
      bounded (fun n => c { at0 with core := n }) 768 && bounded (fun n => c { at0 with sub := n }) 4 && bounded (fun n => c { at0 with slot := n }) 16) = true ∧
    bounded (fun n => .lockRetryTimeout { at0 with slot := n } 0) 16 = true := by
  decide +kernel

theorem test_wf_units :
    ([.blockResident, .matrixDescriptorAccept, .tileDecodeComplete, .foldStepEnd, .gapLenExpiry, .ballastRampStep, .shapeChangeBubbleEnd,
      .matrixComplete] : List (Nat → Instr)).all (fun c => bounded c 768) = true ∧
    ([.snapshotComplete, .sftImageChecked, .sftPinsCleared, .flagScanComplete, .slotFrameStart, .slotBudgetExpiry] : List (Nat → Instr)).all (fun c => bounded c 4) = true ∧
    ([.copyDescriptorAccept, .copyStepEnd, .routeDescriptorAccept, .routingStepEnd, .routingComplete] : List (Nat → Instr)).all (fun c => bounded c 48) = true ∧
    ([.lpddrDriftCompensation, .lpddrOnlineRetrain, .driftCompensationComplete] : List (Nat → Instr)).all (fun c => bounded c 32) = true ∧
    ([.partitionResetComplete, .partitionScrubComplete, .tetherZeroAck, .partitionQuiesced, .attReportDone] : List (Nat → Instr)).all (fun c => bounded c 16) = true ∧
    ([.codewordUncorrectable, .portRetrainTrigger] : List (Nat → Instr)).all (fun c => bounded c 6) = true ∧
    ([.powerGoodRise, .powerGoodFall, .powerGoodTimeout] : List (Nat → Instr)).all (fun c => bounded c 8) = true ∧
    ([.levelSlopeStep, .droopTrip, .droopCutEnd] : List (Nat → Nat → Instr)).all (fun c => bounded (c · 2) 4 && bounded (c 3) 3) = true ∧
    (bounded (.storeBufferEntryTimeout · 0 0) 768 && bounded (.storeBufferEntryTimeout 0 · 0) 4 && bounded (.blockKillComplete · 0) 768 && bounded
      (.gatherComplete · 0) 48 && bounded (.gatherComplete 0 ·) 4096 && bounded (.reservationHoldExpiry · 0) 4 && bounded (.l2MaintenanceComplete ·
      true) 4 && bounded (.lpddrRetrainComplete · true) 32 && bounded (.lpddrTemperatureRead · true) 32 && bounded (.lpddrTrainingComplete · true) 32
      && bounded (fun n => .lpddrProbeComplete (List.replicate (n + 1) ⟨true, 1, 1, true⟩)) 32 && bounded .contextTeardownComplete 1024 && bounded
      (fun n => .epochAdvance (.copyEngine n 0)) 48 && bounded (fun n => .epochAdvance (.copyEngine 0 n)) 16 && bounded (fun n => .epochAdvance
      (.routingEngine n 0)) 48 && bounded (fun n => .epochAdvance (.routingEngine 0 n)) 16 && bounded (fun n => .epochAdvance (.coreBinding n)) 768 &&
      bounded .adapterRetryThreshold 8 && bounded .sidebandRetrainRequest 2 && bounded (.retrainComplete · 0 0) 2 && bounded (.transferComplete · 0 0)
      6 && bounded (.laneLockLost · 0) 6 && bounded (.laneLockLost 0 ·) 8 && bounded (.portRetrainComplete · true) 6 && bounded (.portTrainingComplete
      · true) 6 && bounded (.frameAgeExpiry · 0) 6 && bounded .routeTimeout 64 && bounded (.voltageStep · true) 4 && bounded .dramOvertempExpiry 24 &&
      bounded .nvmImageRead 2 && bounded .domainOn 20 && bounded (fun n => .creditReturn n 0 0) 6 && bounded (fun n => .creditReturn 0 n 0) 4) = true := by
  decide +kernel

theorem test_wf_marks :
    ([.replay, .kill, .snap, .sftGo, .flagScanStart, .flagSetClear, .flagClearAll, .l2LockApply, .l2CleanRange, .l2InvalidateRange,
      .l2CleanInvalidateRange, .l2CleanSetWay, .l2InvalidateSetWay, .l2CleanInvalidateSetWay] : List (Mark → Nat → Word32 → Instr)).all (fun c => bounded (fun n => c (marked n 0) 3 0) 4 && bounded (fun n => c (marked 3 n) 3 0) 16 && bounded (c (marked 3 15) · 0) 4) = true ∧
    ([.frameDoorbell, .linkRetrain, .retentionEnter, .retentionExit, .dbgChallenge, .dbgOpen, .dbgClose, .closeDevice, .dbgQuiesce, .dbgResume,
      .attGo] : List (Mark → Word32 → Instr)).all (fun c => bounded (fun n => c (marked n 15) 0) 4 && bounded (fun n => c (marked 3 n) 0) 16) = true ∧
    (bounded (fun n => .doorbellRing (marked n 0) 0 0 0) 4 && bounded (.doorbellRing m1 · 0 0) 16 && bounded (.doorbellRing m1 0 · 0) 4096 &&
      bounded (fun n => .portTrain (marked n 0) 0 0) 4 && bounded (.portTrain m1 · 0) 6 && bounded (fun n => .routeEnable (marked 0 n) 0 0) 16 &&
      bounded (.routeEnable m1 · 0) 2 && bounded (fun n => .registerWrite (marked n 0) 0 4 0) 4 && bounded (.registerWrite m1 0 · 0) 5 &&
      bounded (.registerWrite m1 0 · 0) 9) = true := by
  decide +kernel

theorem test_wf_messages :
    ([.commandStart, .commandRetire, .launch, .copy, .matrix, .route, .counterSignal, .counterDecrement, .counterSet, .counterReset, .counterRead,
      .markCmd, .objCreate, .objChange, .objRetain, .objRelease, .cntAlloc, .cntMap, .cntPair, .cntRelease, .fenceCreate, .fenceFail, .fenceRelease,
      .ctxCreate, .ctxDestroy, .queueCreate, .queueDestroy, .partReset] : List (Nat → Nat → Instr)).all (fun c => bounded (c · 0) 4096) = true ∧
    ([.csRd, .csWr, .dmaRd, .dmaWr, .dmaWrp, .dmaAtom, .coRds, .coOwn, .coWb, .coEvict, .snpRsp, .memRdata, .memWcmp] : List (Nat → Flit → Instr)).all (fun c => bounded (c · (badFlit 480)) 2 && !(c 0 (badFlit 33)).wf && !(c 0 (badFlit 512)).wf) = true ∧
    ([.glinenWr, .glinenRd, .glinenAtom, .glinenSig, .xwr, .xend, .glinenFrame, .linkctl, .wack, .rdata, .sigack, .xack] : List (Nat → Frame → Instr)).all (fun c => bounded (c · (badFrame 512)) 6 && !(c 0 (badFrame 65)).wf) = true ∧
    ([.getStatus, .nvmErase, .nvmWrite, .nvmRead, .nvmVerify, .restart, .commitSvn, .challenge, .stage, .takeOwnership, .releaseOwnership, .retire,
      .raiseDbgSvn, .getCert] : List (List Byte → Instr)).all (fun c => (c (zeros 8)).wf && (c (zeros 64)).wf && !(c (zeros 0)).wf && !(c (zeros 12)).wf && !(c (zeros 72)).wf) = true ∧
    (bounded (fun n => .avsbusSample { rails := List.replicate n none }) 5 && !(Instr.pmbusSample { rails := [] }).wf &&
      (Instr.pmbusSample { rails := List.replicate 10 none }).wf &&
      (Instr.temperatureSample sensors).wf && !(Instr.temperatureSample cold).wf && !(Instr.temperatureSample { sensors with dram := [[[1]]] }).wf &&
      !(Instr.temperatureSample { sensors with sail := List.replicate 5 (List.replicate 3 (List.replicate 12 40)) }).wf &&
      !(Instr.temperatureSample { sensors with dram := List.replicate 5 (List.replicate 6 (List.replicate 4 40)) }).wf) = true := by
  decide +kernel

/-! ### Effects worked out by hand from the manual -/

/-- Twice a finite value. -/
def twice : Machine.Num → Option Int
  | .fin neg sig e => some ((if neg then -1 else 1) * (sig * 2 ^ (e + 1).toNat : Nat))
  | _ => none

/-- The sixteen codes of F4 as 08 R231 lists them, doubled. -/
theorem test_f4_codes : (List.range 16).map (fun c => twice (decodeNum fmtF4 c)) =
    [some 0, some 1, some 2, some 3, some 4, some 6, some 8, some 12, none, some (-1), some (-2), some (-3), some (-4), some (-6), some (-8), some (-12)] := by
  decide

/-- 08 R230: F8a's largest finite value is 448, F6a's 28, F6b's 7.5. -/
theorem test_largest : twice (decodeNum fmtF8a 0x7E) = some 896 ∧ twice (decodeNum fmtF6a 0x1F) = some 56 ∧ twice (decodeNum fmtF6b 0x1F) = some 15 := by
  decide

/-- 04 R100, R90: I32 and U32 wrap without SAT and saturate with it; a signed minimum; the high half of a product. -/
theorem test_integers :
    intResult 0x00 2 false 0xFFFFFFFF 2 0 = 1 ∧ intResult 0x00 1 true 0x7FFFFFFF 1 0 = 0x7FFFFFFF ∧ intResult 0x01 2 true 1 2 0 = 0 ∧
    intResult 0x0C 1 false 0xFFFFFFFF 1 0 = 0xFFFFFFFF ∧ intResult 0x03 2 false 0xFFFFFFFF 0xFFFFFFFF 0 = 0xFFFFFFFE ∧
    intResult 0x0B 1 false 0x80000000 31 0 = 0xFFFFFFFF := by
  decide

/-- 08 R247: 1 + 2^-24 ties to even and is inexact; an infinity less itself is the canonical NaN and invalid; 2 × 3 is 6. -/
theorem test_floats :
    floatOp 0x40 0 0 0x3F800000 0x33800000 0 = (0x3F800000, fInexact) ∧ floatOp 0x40 0 0 0x7F800000 0xFF800000 0 = (0x7FC00000, fInvalid) ∧
    floatOp 0x41 0 0 0x40000000 0x40400000 0 = (0x40C00000, 0) := by
  decide +kernel

/-- 05 R133: what a group writes to its own local memory is what it reads back; the byte between and the core beside are as they were. -/
theorem test_local_memory : locByte (locWrite Mem.reset 5 64 [some 7, none, some 9]) 5 64 = 7 ∧
    locByte (locWrite Mem.reset 5 64 [some 7, none, some 9]) 5 65 = 0 ∧ locByte (locWrite Mem.reset 5 64 [some 7, none, some 9]) 6 64 = 0 := by
  decide

/-- 18 R501: a start begins when RESET_N rises. -/
theorem test_start : does .resetNRise State.reset (fun t => t.keel.resetN && t.keel.start.running) = true := by
  decide

/-- A command the queue holds runs before the ones behind it (log 1). -/
theorem test_queue :
    (match step { State.reset with pending := [.coolantOkRise, .resetNRise] } with
      | .next t => t.pending == [.resetNRise] && t.keel.coolantOk && !t.keel.resetN
      | _ => false) = true := by
  decide

end Sys2Proof.Tests
end

section
/-!
SUPPORT. Requests that arrive over the tether link (15 R422 to R427): what the rows of flits do with a flit that they discard or take, the answer
to a request whose tag has just been taken, the messages of a DMA access to near memory or LPDDR6, and the settling of O45.
-/
namespace Sys2Proof.Machine

/-! ### Where nothing waits -/

theorem tdel_absent {α : Type} {k : Nat} : ∀ {t : Table α}, tfind t k = none → tdel t k = t
  | [], _ => rfl
  | (k', v) :: t, h => by
    by_cases e : k = k'
    · simp [tfind, e] at h
    · rw [tfind, if_neg e] at h
      rw [tdel, if_neg e, tdel_absent h]

/-- With nothing due, settling waits for the reads that are not complete. -/
theorem settle_incomplete (k : Keel) {f : Fab} (hj : ∀ j ∈ f.jobs, j.2.complete = false) (hn : NoneDue f) : settle k f = f := by
  obtain ⟨hprogs, hfatal, hrel, hresets, hctxs⟩ := hn
  have hdone : f.jobs.filter (·.2.complete) = [] := List.filter_eq_nil_iff.2 fun j hm => by simp [hj j hm]
  simp [settle, beginFatal, tendPrograms, settleReleases, endWaiting_quiet k hresets hctxs, hdone, hprogs, hfatal, hrel]

theorem tendCs_none {k : Keel} {f : Fab} (h : f.link.csWait = []) : tendCs k f = (k, f) := by simp [tendCs, h]

/-! ### The rows of flits -/

/-- A flit of a broken form, or a request whose tag is in use, is counted and has no other effect (15 R425). -/
theorem flitRow_discards {s : State} {ty att : Nat} {fl : Flit} (run : Keel → Fab → Keel × Fab) (h : FlitArrives s ty att fl)
    (hbad : flitOk fl = false ∨
      (isResponse ty = false ∧ s.fab.link.quiescing = false ∧ s.fab.link.downTags.contains (att, fl.tag) = true)) :
    flitRow s ty att fl run = .next { s with fab := protoErr s.fab } := by
  obtain ⟨hon, hup, hatt, hretr, hcs, hty⟩ := h
  have hatt' : ¬ att ≥ 2 := by omega
  simp only [flitRow, onBoth, hon, hup, hatt', hretr, tendCs_none hcs, hty]
  by_cases hok : flitOk fl = true
  · obtain ⟨hreq, hopen, htag⟩ := hbad.resolve_left (by simp [hok])
    have hdup : tagBad s.fab att fl = true := by simp only [tagBad, htag, Bool.true_or]
    simp [hok, hreq, hopen, hdup]
  · simp [hok]

/-- A flit that is taken has the meaning of its row. -/
theorem flitRow_takes {s : State} {ty att : Nat} {fl : Flit} (run : Keel → Fab → Keel × Fab) (h : FlitTaken s ty att fl) :
    flitRow s ty att fl run = .next { s with keel := (run s.keel s.fab).1, fab := (run s.keel s.fab).2 } := by
  obtain ⟨⟨hon, hup, hatt, hretr, hcs, hty⟩, hok, hreq⟩ := h
  have hatt' : ¬ att ≥ 2 := by omega
  simp only [flitRow, onBoth, hon, hup, hatt', hretr, tendCs_none hcs, hty, hok]
  by_cases hr : isResponse ty = true
  · simp [hr]
  · obtain ⟨hopen, htag, -⟩ := hreq (by simpa using hr)
    have hshut : (s.fab.link.quiescing && ty != 0x12 && ty != 0x13) = false := by
      by_cases h2 : ty = 0x12
      · simp [h2]
      · by_cases h3 : ty = 0x13
        · simp [h3]
        · simp [hopen h2 h3]
    simp [hr, hshut, htag]

/-- A flit that is taken and acts on the fabric only: what its row leaves, where that completes no read and makes nothing due. -/
theorem flitFab_takes {s : State} {ty att : Nat} {fl : Flit} {run : Keel → Fab → Fab} {f : Fab} (hq : Quiet s) (h : FlitTaken s ty att fl)
    (hrun : run s.keel s.fab = f) (htab : f.tab = s.fab.tab) (hmem : f.mem = s.fab.mem) (hcs : f.link.csWait = s.fab.link.csWait)
    (hjobs : ∀ j ∈ f.jobs, j.2.complete = false) : flitFab s ty att fl run = .next { s with fab := f } := by
  have hdue : NoneDue f := by
    simp only [NoneDue, htab, hmem]
    exact hq.2
  obtain ⟨⟨-, -, -, -, hnone, -⟩, -⟩ := id h
  rw [flitFab, flitRow_takes _ h, hrun, settle_incomplete _ hjobs hdue, tendCs_none (hcs.trans hnone)]

/-! ### The answer to a request -/

/-- Noting a mark changes ACT_DOWNGRADES alone. -/
theorem noteMark_eq (k : Keel) (f : Fab) (m : Mark) :
    noteMark k f m = onLink f fun l => { l with downgrades := if downgraded k m then min 65535 (l.downgrades + 1) else l.downgrades } := by
  unfold noteMark
  split <;> rfl

@[simp] theorem taken_tab (s : State) (att : Nat) (fl : Flit) : (taken s att fl).tab = s.fab.tab := by simp [taken, noteMark_eq, takeTag]
@[simp] theorem taken_mem (s : State) (att : Nat) (fl : Flit) : (taken s att fl).mem = s.fab.mem := by simp [taken, noteMark_eq, takeTag]
@[simp] theorem taken_jobs (s : State) (att : Nat) (fl : Flit) : (taken s att fl).jobs = s.fab.jobs := by simp [taken, noteMark_eq, takeTag]
@[simp] theorem taken_free (s : State) (att : Nat) (fl : Flit) : (taken s att fl).free = s.fab.free := by simp [taken, noteMark_eq, takeTag]
@[simp] theorem taken_net (s : State) (att : Nat) (fl : Flit) : (taken s att fl).net = s.fab.net := by simp [taken, noteMark_eq, takeTag]
@[simp] theorem taken_nextId (s : State) (att : Nat) (fl : Flit) : (taken s att fl).nextId = s.fab.nextId := by simp [taken, noteMark_eq, takeTag]
@[simp] theorem taken_csWait (s : State) (att : Nat) (fl : Flit) : (taken s att fl).link.csWait = s.fab.link.csWait := by
  simp [taken, noteMark_eq, takeTag]
@[simp] theorem taken_dma (s : State) (att : Nat) (fl : Flit) : (taken s att fl).link.dma = s.fab.link.dma := by simp [taken, noteMark_eq, takeTag]

/-- Taking a request changes the link alone. -/
theorem taken_eq (s : State) (att : Nat) (fl : Flit) : taken s att fl = { s.fab with link := (taken s att fl).link } := by
  simp [taken, noteMark_eq, takeTag, onLink]

theorem fld_lt (v lo len : Nat) : fld v lo len < 2 ^ len := Nat.mod_lt _ (Nat.two_pow_pos len)

/-- The TAG of a flit that the device sends. -/
theorem upFlit_tag {tag : Nat} (h : tag < 2 ^ 12) (ty part status : Nat) (addr data : Word64) (code sub : Nat) (bytes : List Byte) :
    (upFlit ty part status tag addr data code sub bytes).tag = tag := by
  simp only [Flit.tag, upFlit, fld, BitVec.toNat_ofNat]
  omega

/-- The answer to a request that has just been taken leaves at once and frees its tag (15 R425). -/
theorem respond_taken {s : State} {ty att : Nat} {fl : Flit} (h : FlitTaken s ty att fl) (hreq : isResponse ty = false)
    (n rty status : Nat) (data : Word64) (code : Nat) (bytes : List Byte) :
    respond (spend (taken s att fl) n) att fl rty status data code 0 bytes = { noteMark s.keel s.fab (markOf fl) with
      free := s.fab.free + n, sent := s.fab.sent ++ [.flit att (upFlit rty fl.part status fl.tag fl.w1 data code 0 bytes)] } := by
  obtain ⟨⟨-, -, -, hretr, -, -⟩, -, htaken⟩ := h
  obtain ⟨-, htag, hdma⟩ := htaken hreq
  have hnew : (att, fl.tag) ∉ s.fab.link.downTags := by
    simp only [tagBad, Bool.or_eq_false_iff] at htag
    simpa using htag.1
  have herase : (s.fab.link.downTags ++ [(att, fl.tag)]).erase (att, fl.tag) = s.fab.link.downTags := by
    rw [List.erase_append_right _ hnew]; simp
  have hfree := upFlit_tag (fld_lt fl.w0.toNat 28 12) rty fl.part status fl.w1 data code 0 bytes
  change (upFlit rty fl.part status fl.tag fl.w1 data code 0 bytes).tag = fl.tag at hfree
  simp only [respond, spend, taken, noteMark_eq, takeTag, onLink, List.contains_append, List.contains_cons, beq_self_eq_true, Bool.true_or,
    Bool.or_true, if_true, hretr, Bool.false_eq_true, if_false, sendRsp, sendFlit, hfree, herase, tdel_absent hdma]

/-! ### Control-space accesses -/

/-- The fabric with one access that waits for the DMA writes before it. -/
def csWaiting (f : Fab) (att : Nat) (fl : Flit) : Fab :=
  onLink f fun l => { l with downTags := l.downTags ++ [(att, fl.tag)], csWait := [(att, dmaWrites f att, fl)] }

/-- Where no other access waits, a new one is looked at by itself. -/
theorem runCs_alone {k : Keel} {f : Fab} {att : Nat} {fl : Flit} (hcs : f.link.csWait = []) :
    runCs k f att fl = tendCsOf (k, csWaiting f att fl) att := by
  have hnew : (onLink (takeTag f att fl) fun l => { l with csWait := l.csWait ++ [(att, dmaWrites (takeTag f att fl) att, fl)] }) =
      csWaiting f att fl := by
    simp only [onLink, takeTag, csWaiting, hcs, List.nil_append]
    rfl
  rw [runCs, hnew]
  rfl

/-- No write that the access waits for has been performed since it came. -/
theorem csWaiting_same (f : Fab) (att : Nat) (fl : Flit) :
    (onLink (csWaiting f att fl) fun l => { l with csWait := l.csWait.map fun w =>
      if w.1 = att then (w.1, w.2.1.filter (dmaWrites (csWaiting f att fl) att).contains, w.2.2) else w }) = csWaiting f att fl := by
  have hall : (dmaWrites f att).filter (dmaWrites f att).contains = dmaWrites f att := List.filter_eq_self.2 fun a ha => by simpa using ha
  have hdma : dmaWrites (csWaiting f att fl) att = dmaWrites f att := rfl
  rw [hdma]
  simp only [onLink, csWaiting, List.map_cons, List.map_nil, if_true, hall]

/-- A control-space access with no DMA write before it is performed as it arrives (15 R426). -/
theorem runCs_ready {k : Keel} {f : Fab} {att : Nat} {fl : Flit} (hcs : f.link.csWait = []) (hdma : dmaWrites f att = []) :
    runCs k f att fl = performCs k (takeTag f att fl) att fl := by
  rw [runCs_alone hcs, tendCsOf]
  simp only [csWaiting_same]
  simp only [csWaiting, onLink, hdma, takeTag, List.find?_cons, beq_self_eq_true, List.erase_cons_head, hcs]

/-- One with DMA writes before it waits for them (15 R426). -/
theorem runCs_waits {k : Keel} {f : Fab} {att : Nat} {fl : Flit} (hcs : f.link.csWait = []) (hdma : dmaWrites f att ≠ []) :
    runCs k f att fl = (k, csWaiting f att fl) := by
  obtain ⟨w, ws, hws⟩ := List.exists_cons_of_ne_nil hdma
  rw [runCs_alone hcs, tendCsOf]
  simp only [csWaiting_same]
  simp only [csWaiting, onLink, hws, List.find?_cons, beq_self_eq_true]

/-- The size that SUB of a control-space access names (15 R424). -/
def csSize (fl : Flit) : Nat := if fl.sub = 2 then 4 else if fl.sub = 3 then 8 else 0

/-- The address of a control-space access. -/
def csAddr (fl : Flit) : Nat := fl.w1.toNat % 2 ^ 32

/-- An access of a wrong size, alignment or attachment changes nothing (00 R15, 15 R422). -/
theorem performCs_refuses {k : Keel} {f : Fab} {att : Nat} {fl : Flit}
    (h : csAligned (csAddr fl) (csSize fl) = false ∨ ∃ x, attOf (csAddr fl) = some x ∧ x ≠ att) :
    performCs k f att fl = (k, respond (noteMark k f (markOf fl)) att fl 0x81 1 0 0 0 []) := by
  have hbad : (!csAligned (csAddr fl) (csSize fl) || (attOf (csAddr fl)).any (· != att)) = true := by
    rcases h with h | ⟨x, hx, hne⟩
    · simp [h]
    · simp [hx, hne]
  exact if_pos hbad

/-- The access is of a right size and alignment, on an attachment that may carry it. -/
theorem cs_allowed {att : Nat} {fl : Flit} (hal : csAligned (csAddr fl) (csSize fl) = true) (hatt : ∀ x, attOf (csAddr fl) = some x → x = att) :
    ¬ (!csAligned (csAddr fl) (csSize fl) || (attOf (csAddr fl)).any (· != att)) = true := by
  cases hx : attOf (csAddr fl) with
  | none => simp [hal]
  | some x => simp [hal, hatt x hx]

/-- A read answers what the register holds. -/
theorem performCs_reads {k : Keel} {f : Fab} {att : Nat} {fl : Flit} (hty : fl.ty = 0x01)
    (hal : csAligned (csAddr fl) (csSize fl) = true) (hatt : ∀ x, attOf (csAddr fl) = some x → x = att) :
    performCs k f att fl = (k, respond (spend (noteMark k f (markOf fl)) 1) att fl 0x81 0
      (BitVec.ofNat 64 (csRead k (noteMark k f (markOf fl)) (markOf fl) (csAddr fl) (csSize fl))) 0 0 []) :=
  (if_neg (cs_allowed hal hatt)).trans (if_pos hty)

/-- A write is performed and answered. -/
theorem performCs_writes {k : Keel} {f : Fab} {att : Nat} {fl : Flit} {r : Keel × Fab} (hty : fl.ty = 0x02)
    (hal : csAligned (csAddr fl) (csSize fl) = true) (hatt : ∀ x, attOf (csAddr fl) = some x → x = att)
    (hr : r = csWrite k (noteMark k f (markOf fl)) (markOf fl) (csAddr fl) (csSize fl) (fl.w2.toNat % 2 ^ (8 * csSize fl))) :
    performCs k f att fl = (r.1, respond r.2 att fl 0x81 0 0 0 0 []) := by
  subst hr
  exact (if_neg (cs_allowed hal hatt)).trans (if_neg (by omega))

/-! ### DMA accesses -/

/-- Taking a request changes neither the objects nor the contexts that its check reads. -/
theorem tetherCheck_taken (s : State) (att : Nat) (fl : Flit) (u : Use) (align size : Nat) :
    tetherCheck s.keel (taken s att fl) fl u align size = tetherCheck s.keel s.fab fl u align size := by
  simp only [taken, noteMark_eq]
  rfl

/-- The data units of a refusal (15 R424). -/
def refusedUnits (ty : Nat) (req : Flit) : Nat :=
  if ty = 0x90 then 4 else if ty ≠ 0x83 then 0 else if req.ty = 0x03 then max 1 (min 8 req.sub) else 1

theorem refuseReq_taken {s : State} {ty att : Nat} {fl : Flit} (h : FlitTaken s ty att fl) (hreq : isResponse ty = false) (rty status code : Nat) :
    Refused s { s with fab := refuseReq (taken s att fl) att fl rty status code } att fl rty (refusedUnits rty fl) status code := by
  have hsent := respond_taken h hreq (32 * refusedUnits rty fl) rty status 0 code (freeBytes s.fab.free (32 * refusedUnits rty fl))
  rw [Refused, ← hsent, ← taken_free s att fl]
  rfl

/-- A row that refuses its request answers it and does nothing else. -/
theorem flitFab_refuses {s : State} {ty att : Nat} {fl : Flit} {run : Keel → Fab → Fab} {rty status code : Nat} (hq : Quiet s)
    (h : FlitTaken s ty att fl) (hreq : isResponse ty = false) (hrun : run s.keel s.fab = refuseReq (taken s att fl) att fl rty status code) :
    ∃ t, flitFab s ty att fl run = .next t ∧ Refused s t att fl rty (refusedUnits rty fl) status code := by
  have hr := refuseReq_taken h hreq rty status code
  have hf := congrArg State.fab hr
  simp only at hf
  refine ⟨_, flitFab_takes hq h hrun ?_ ?_ ?_ ?_, hr⟩
  all_goals rw [hf]; simp [noteMark_eq, hq.1]

/-- A DMA access that its mark or its operands forbid. -/
theorem dmaAccess_forbids {s : State} {att : Nat} {fl : Flit} {ok : Bool} (h : reachOf s.keel fl = .none ∨ ok = false)
    (rty : Nat) (u : Use) (align size : Nat) (run : Fab → Loc → Fab) :
    dmaAccess s.keel s.fab att fl rty ok u align size run = refuseReq (taken s att fl) att fl rty 1 0 := by
  have hno : (decide (reachOf s.keel fl = .none) || !ok) = true := by rcases h with h | h <;> simp [h]
  exact if_pos hno

/-- One that its mark and its operands allow and the object check refuses. -/
theorem dmaAccess_fails {s : State} {att : Nat} {fl : Flit} {u : Use} {align size code : Nat} {ok : Bool} (hr : reachOf s.keel fl ≠ .none)
    (hok : ok = true) (hcheck : tetherCheck s.keel s.fab fl u align size = .error code) (rty : Nat) (run : Fab → Loc → Fab) :
    dmaAccess s.keel s.fab att fl rty ok u align size run = refuseReq (taken s att fl) att fl rty 2 code := by
  rw [← tetherCheck_taken s att fl, taken] at hcheck
  simp [dmaAccess, hr, hok, hcheck, taken]

/-- One that the check lets through goes on from the fabric that has taken the request. -/
theorem dmaAccess_reaches {s : State} {att : Nat} {fl : Flit} {u : Use} {align size : Nat} {loc : Loc} {ok : Bool}
    (h : DmaReaches s fl u align size loc) (hok : ok = true) (rty : Nat) (run : Fab → Loc → Fab) :
    dmaAccess s.keel s.fab att fl rty ok u align size run = run (taken s att fl) loc := by
  obtain ⟨hr, hcheck, -, hret⟩ := h
  rw [← tetherCheck_taken s att fl, taken] at hcheck
  simp [dmaAccess, hr, hok, hcheck, hret, taken]

/-! ### Messages that go out together -/

theorem sendAll_cons (f : Fab) (m : Msg) (ms : List Msg) : sendAll f (m :: ms) = sendAll (send f m) ms := rfl

/-- The messages enter the net under the next numbers, and nothing else changes. -/
theorem sendAll_eq (ms : List Msg) (f : Fab) : sendAll f ms = { f with net := (sendAll f ms).net, nextId := f.nextId + ms.length } := by
  induction ms generalizing f with
  | nil => rfl
  | cons m ms ih =>
    rw [sendAll_cons, ih, List.length_cons, send_nextId, Nat.add_assoc, Nat.add_comm 1]
    rfl

theorem sendAll_net_below {ms : List Msg} {j : Nat} : ∀ {f : Fab}, j < f.nextId → tfind (sendAll f ms).net j = tfind f.net j := by
  induction ms with
  | nil => exact fun _ => rfl
  | cons m ms ih =>
    intro f hj
    rw [sendAll_cons, ih (by rw [send_nextId]; omega), send_net, if_neg (by omega)]

/-- Each stands under the number of its place. -/
theorem sendAll_net {ms : List Msg} {m : Msg} : ∀ {f : Fab} {i : Nat}, ms[i]? = some m → tfind (sendAll f ms).net (f.nextId + i) = some m := by
  induction ms with
  | nil => simp
  | cons m' ms ih =>
    intro f i h
    rw [sendAll_cons]
    cases i with
    | zero =>
      rw [sendAll_net_below (by rw [send_nextId]; omega), send_net, if_pos (Nat.add_zero _)]
      simpa using h
    | succ i =>
      have hrec := ih (f := send f m') (i := i) (by simpa using h)
      rwa [send_nextId, Nat.add_assoc, Nat.add_comm 1] at hrec

/-! ### Reads, writes and atomics of near memory and LPDDR6 -/

/-- The message by which a part of a read goes out. -/
def readMsg (k : Keel) (job i : Nat) (p : ReadPart) : Msg :=
  if cached k p.loc then .home (lineOf p.loc) (.readOnce job i) else .memRead p.loc p.len (.job job i)

/-- The message by which a write goes out. -/
def writeMsg (k : Keel) (w : AgentWrite) : Msg := if cached k w.loc then .home (lineOf w.loc) (.write w) else .uncWrite w

/-- A read of near memory or LPDDR6 goes out as one access for every part. -/
theorem startRead_memory (k : Keel) (f : Fab) (sink : ReadSink) {parts : List ReadPart} (die : Nat) (h : ∀ p ∈ parts, p.loc.kind ≤ 1) :
    startRead k f sink parts die =
      sendAll { f with jobs := tput f.jobs f.nextId { sink := sink, die := die, parts := parts }, nextId := f.nextId + 1 }
        (parts.mapIdx (readMsg k f.nextId)) := by
  have hlocal : (parts.map fun p => (p.loc, p.len)).filter (·.1.kind == 2) = [] := by
    rw [List.filter_eq_nil_iff]
    rintro x hx
    obtain ⟨p, hp, rfl⟩ := List.mem_map.1 hx
    have := h p hp
    simp only [beq_iff_eq]
    omega
  have hms : parts.mapIdx (readMsg k f.nextId) = (parts.mapIdx fun i p => (i, p)).map fun x => readMsg k f.nextId x.1 x.2 :=
    List.ext_getElem? fun i => by simp [Function.comp_def]
  rw [hms, sendAll, List.foldl_map, startRead]
  simp only [wideBeats, hlocal]
  refine List.foldl_ext _ _ _ fun g x hx => ?_
  obtain ⟨i, hi, rfl⟩ := List.mem_mapIdx.1 hx
  simp only [h _ (List.getElem_mem hi), if_true, readMsg]
  split <;> rfl

theorem agentWrite_memory (k : Keel) (f : Fab) {w : AgentWrite} (die : Nat) (h : w.loc.kind ≤ 1) : agentWrite k f w die = send f (writeMsg k w) := by
  simp only [agentWrite, h, if_true, writeMsg]
  split <;> rfl

/-- Writes of near memory or LPDDR6 go out one by one. -/
theorem agentWrites_memory (k : Keel) (f : Fab) {ws : List AgentWrite} (die : Nat) (h : ∀ w ∈ ws, w.loc.kind ≤ 1) :
    ws.foldl (fun f w => agentWrite k f w die) f = sendAll f (ws.map (writeMsg k)) := by
  rw [sendAll, List.foldl_map]
  exact List.foldl_ext _ _ _ fun g w hw => agentWrite_memory k g die (h w hw)

theorem startAtomic_memory (k : Keel) (f : Fab) (die : Nat) {a : AtomicReq} (h : a.loc.kind ≤ 1) :
    startAtomic k f die a false = send f (if cached k a.loc then .home (lineOf a.loc) (.atomic a) else .farAt a) := by
  have h01 : a.loc.kind = 0 ∨ a.loc.kind = 1 := by omega
  by_cases hc : cached k a.loc = true <;> rcases h01 with e | e <;> simp [startAtomic, e, hc]

/-- The parts of a read lie in the memory that the read is of, and none has its data. -/
theorem cutRead_parts : ∀ (fuel : Nat) (loc : Loc) (len : Nat), ∀ p ∈ cutRead loc fuel len, p.loc.kind = loc.kind ∧ p.data = none
  | 0, _, _, p, hp => by simp [cutRead] at hp
  | fuel + 1, loc, len, p, hp => by
    unfold cutRead at hp
    split at hp
    · simp at hp
    · split at hp
      · simp only [List.mem_singleton] at hp
        subst hp
        exact ⟨rfl, rfl⟩
      · rcases List.mem_cons.1 hp with rfl | hp
        · exact ⟨rfl, rfl⟩
        · exact (cutRead_parts fuel _ _ p hp :)

theorem partsOf_kind {loc : Loc} {len : Nat} {p : ReadPart} (hp : p ∈ partsOf loc len) : p.loc.kind = loc.kind := (cutRead_parts _ _ _ p hp).1

/-- A read that has just gone out is not complete. -/
theorem partsOf_incomplete (sink : ReadSink) (die : Nat) (loc : Loc) {len : Nat} (h : 0 < len) :
    ReadJob.complete { sink := sink, die := die, parts := partsOf loc len } = false := by
  have hne : partsOf loc len ≠ [] := by
    simp only [partsOf, cutRead, if_neg (by omega : ¬ len = 0)]
    split <;> simp
  obtain ⟨p, ps, hps⟩ := List.exists_cons_of_ne_nil hne
  have hp : p.data = none := (cutRead_parts _ _ _ p (hps ▸ List.mem_cons_self)).2
  simp [ReadJob.complete, hps, hp]

/-- The writes that a write is cut into lie in the memory that it is of. -/
theorem cutWrite_kind (sink : AckSink) (hint target : Nat) : ∀ (fuel : Nat) (loc : Loc) (bs : List (Option Byte)),
    ∀ w ∈ cutWrite sink hint target loc fuel bs, w.loc.kind = loc.kind
  | 0, _, _, w, hw => by simp [cutWrite] at hw
  | fuel + 1, loc, bs, w, hw => by
    unfold cutWrite at hw
    split at hw
    · simp at hw
    · rcases List.mem_cons.1 hw with rfl | hw
      · rfl
      · exact (cutWrite_kind sink hint target fuel _ _ w hw :)

/-! ### The rows of DMA accesses that go out -/

@[simp] theorem openDma_tab (f : Fab) (att : Nat) (fl : Flit) (n : Nat) : (openDma f att fl n).tab = f.tab := rfl
@[simp] theorem openDma_mem (f : Fab) (att : Nat) (fl : Flit) (n : Nat) : (openDma f att fl n).mem = f.mem := rfl
@[simp] theorem openDma_jobs (f : Fab) (att : Nat) (fl : Flit) (n : Nat) : (openDma f att fl n).jobs = f.jobs := rfl
@[simp] theorem openDma_net (f : Fab) (att : Nat) (fl : Flit) (n : Nat) : (openDma f att fl n).net = f.net := rfl
@[simp] theorem openDma_nextId (f : Fab) (att : Nat) (fl : Flit) (n : Nat) : (openDma f att fl n).nextId = f.nextId := rfl
@[simp] theorem openDma_link (f : Fab) (att : Nat) (fl : Flit) (n : Nat) : (openDma f att fl n).link =
    { f.link with dma := tput f.link.dma (att * 4096 + fl.tag) { f := fl, left := n, fault := 0 } } := rfl

/-- The fabric with a DMA access taken, of which `n` answers are awaited, differs in the link alone. -/
theorem openDma_taken (s : State) (att : Nat) (fl : Flit) (n : Nat) :
    openDma (taken s att fl) att fl n = { s.fab with link := (openDma (taken s att fl) att fl n).link } := by
  conv_lhs => rw [openDma, taken_eq]
  rfl

/-- Messages that a row sends after it has opened a DMA access. -/
theorem flitFab_sends {s : State} {ty att : Nat} {fl : Flit} {run : Keel → Fab → Fab} {f : Fab} {ms : List Msg} (hq : Quiet s)
    (h : FlitTaken s ty att fl) (hrun : run s.keel s.fab = sendAll f ms) (htab : f.tab = s.fab.tab) (hmem : f.mem = s.fab.mem)
    (hcs : f.link.csWait = s.fab.link.csWait) (hjobs : ∀ j ∈ f.jobs, j.2.complete = false) :
    flitFab s ty att fl run = .next { s with fab := sendAll f ms } := by
  refine flitFab_takes hq h hrun ?_ ?_ ?_ ?_ <;> rw [sendAll_eq]
  · exact htab
  · exact hmem
  · exact hcs
  · exact hjobs

/-- The fabric with a DMA read taken and its parts not yet asked for. -/
def dmaReading (s : State) (att : Nat) (fl : Flit) (loc : Loc) : Fab :=
  { openDma (taken s att fl) att fl 1 with
    jobs := tput s.fab.jobs s.fab.nextId { sink := .dma att fl.tag, die := att, parts := partsOf loc (32 * fl.sub) }
    nextId := s.fab.nextId + 1 }

/-- The row of a DMA read that reaches near memory or LPDDR6. -/
theorem dmaRd_goes {s : State} {att : Nat} {fl : Flit} {loc : Loc} (hq : Quiet s) (h : FlitTaken s 0x03 att fl) (h1 : 1 ≤ fl.sub)
    (h8 : fl.sub ≤ 8) (hr : DmaReaches s fl .load 32 (32 * fl.sub) loc) :
    flitFab s 0x03 att fl (fun k f => runDmaRd k f att fl) = .next { s with
      fab := sendAll (dmaReading s att fl loc) ((partsOf loc (32 * fl.sub)).mapIdx (readMsg s.keel s.fab.nextId)) } := by
  obtain ⟨-, -, hkind, -⟩ := id hr
  have hparts : ∀ p ∈ partsOf loc (32 * fl.sub), p.loc.kind ≤ 1 := fun p hp => partsOf_kind hp ▸ hkind
  have hrun : runDmaRd s.keel s.fab att fl =
      sendAll (dmaReading s att fl loc) ((partsOf loc (32 * fl.sub)).mapIdx (readMsg s.keel s.fab.nextId)) := by
    rw [runDmaRd, dmaAccess_reaches hr (by simp [h1, h8]), startRead_memory _ _ _ _ hparts]
    simp [dmaReading]
  have hwait := partsOf_incomplete (.dma att fl.tag) att loc (by omega : 0 < 32 * fl.sub)
  exact flitFab_sends hq h hrun (by simp [dmaReading]) (by simp [dmaReading]) (by simp [dmaReading])
    (by simp [dmaReading, hq.1, tput, hwait])

/-- The writes of a DMA write: the hint counts where it names a target that is present. -/
def dmaWriteList (k : Keel) (att : Nat) (fl : Flit) (loc : Loc) (bs : List (Option Byte)) : List AgentWrite :=
  writesOf (.dma att fl.tag) (if (fl.hint = 1 ∧ fl.target < 48 * k.sails) ∨ (fl.hint = 2 ∧ corePresent k fl.target = true)
    then fl.hint else 0) fl.target loc bs

/-- A DMA write goes out as one access for every line that it touches. -/
theorem dmaWriteOut_memory (k : Keel) (f : Fab) (att : Nat) (fl : Flit) {loc : Loc} (bs : List (Option Byte)) (hk : loc.kind ≤ 1) :
    dmaWriteOut k f att fl loc bs =
      sendAll (openDma f att fl (dmaWriteList k att fl loc bs).length) ((dmaWriteList k att fl loc bs).map (writeMsg k)) := by
  have hws : ∀ w ∈ dmaWriteList k att fl loc bs, w.loc.kind ≤ 1 := fun w hw => cutWrite_kind _ _ _ _ _ _ w hw ▸ hk
  rw [← agentWrites_memory k _ att hws]
  simp [dmaWriteOut, dmaWriteList]

/-- The row of a DMA write that reaches near memory or LPDDR6. -/
theorem dmaWriteRow_goes {s : State} {ty att size : Nat} {fl : Flit} {loc : Loc} (bs : List (Option Byte)) (hq : Quiet s) (h : FlitTaken s ty att fl)
    (hhint : fl.hint ≠ 3) (hr : DmaReaches s fl .store 32 size loc) :
    flitFab s ty att fl (fun k f => dmaAccess k f att fl 0x84 (fl.hint != 3) .store 32 size fun f loc => dmaWriteOut k f att fl loc bs) =
      .next { s with
        fab := sendAll (openDma (taken s att fl) att fl (dmaWriteList s.keel att fl loc bs).length)
          ((dmaWriteList s.keel att fl loc bs).map (writeMsg s.keel)) } := by
  obtain ⟨-, -, hkind, -⟩ := id hr
  have hrun := dmaAccess_reaches (att := att) hr (by simp [hhint] : (fl.hint != 3) = true) 0x84 fun f loc => dmaWriteOut s.keel f att fl loc bs
  exact flitFab_sends hq h (hrun.trans (dmaWriteOut_memory _ _ _ _ _ hkind)) (by simp) (by simp) (by simp) (by simp [hq.1])

/-- The atomic that DMA_ATOM asks for: its operands stand in word 2, or for a compare-and-swap in the data unit (15 R424). -/
def dmaAtomic (att : Nat) (fl : Flit) (loc : Loc) (size : Nat) : AtomicReq :=
  { loc := loc, op := fld fl.sub 0 5, size := size, who := none, sink := .dma att fl.tag
    a := BitVec.ofNat 128 (if fld fl.sub 0 5 = 0x11 then numAt fl.data 0 8 else fl.w2.toNat)
    b := BitVec.ofNat 128 (numAt fl.data 8 8) }

theorem leNat_lt : ∀ bs : List Byte, leNat bs < 256 ^ bs.length
  | [] => by simp [leNat]
  | b :: bs => by
    have hb := b.isLt
    have hrec := leNat_lt bs
    simp only [leNat, List.length_cons, Nat.pow_succ]
    omega

theorem numAt_lt (bs : List Byte) (i n : Nat) : numAt bs i n < 256 ^ n :=
  Nat.lt_of_lt_of_le (leNat_lt _) (Nat.pow_le_pow_right (by omega) (List.length_take_le _ _))

/-- An operand of 64 bits, widened. -/
theorem dmaAtomic_operand (fl : Flit) :
    (if fld fl.sub 0 5 = 0x11 then BitVec.ofNat 64 (numAt fl.data 0 8) else fl.w2).zeroExtend 128 =
      BitVec.ofNat 128 (if fld fl.sub 0 5 = 0x11 then numAt fl.data 0 8 else fl.w2.toNat) := by
  have hn := numAt_lt fl.data 0 8
  apply BitVec.eq_of_toNat_eq
  split
  · simp only [BitVec.toNat_setWidth, BitVec.toNat_ofNat]
    omega
  · simp

/-- A DMA atomic on its way, with its tag in use. -/
def dmaAtomOut (att : Nat) (fl : Flit) (k : Keel) (f : Fab) (loc : Loc) : Fab :=
  startAtomic k (openDma f att fl 1) att (dmaAtomic att fl loc (if bitAt fl.sub 7 then 8 else 4)) false

theorem runDmaAtom_eq (k : Keel) (f : Fab) (att : Nat) (fl : Flit) : runDmaAtom k f att fl =
    dmaAccess k f att fl 0x83 (fld fl.sub 5 2 == 0 && decide (0x08 ≤ fld fl.sub 0 5 ∧ fld fl.sub 0 5 ≤ 0x11)) .both
      (if bitAt fl.sub 7 then 8 else 4) (if bitAt fl.sub 7 then 8 else 4) (dmaAtomOut att fl k) := by
  simp only [runDmaAtom, dmaAtomic_operand]
  rfl

/-- The row of a DMA atomic that reaches near memory or LPDDR6. -/
theorem dmaAtom_goes {s : State} {att size : Nat} {fl : Flit} {loc : Loc} (hq : Quiet s) (h : FlitTaken s 0x06 att fl)
    (hsize : size = if bitAt fl.sub 7 then 8 else 4) (hzero : fld fl.sub 5 2 = 0) (hlo : 0x08 ≤ fld fl.sub 0 5) (hhi : fld fl.sub 0 5 ≤ 0x11)
    (hr : DmaReaches s fl .both size size loc) :
    flitFab s 0x06 att fl (fun k f => runDmaAtom k f att fl) = .next { s with
      fab := send (openDma (taken s att fl) att fl 1) (if cached s.keel loc then .home (lineOf loc) (.atomic (dmaAtomic att fl loc size))
        else .farAt (dmaAtomic att fl loc size)) } := by
  subst hsize
  obtain ⟨-, -, hkind, -⟩ := id hr
  have hrun : runDmaAtom s.keel s.fab att fl = dmaAtomOut att fl s.keel (taken s att fl) loc := by
    rw [runDmaAtom_eq, dmaAccess_reaches hr (by simp [hzero, hlo, hhi])]
  rw [dmaAtomOut, startAtomic_memory _ _ _ hkind] at hrun
  exact flitFab_takes hq h hrun (by simp [send]) (by simp [send]) (by simp [send]) (by simp [send, hq.1])

/-! ### The rows by their commands -/

section
variable (s : State) (att : Nat) (fl : Flit)

theorem exec_csRd : exec (.csRd att fl) s = flitRow s 0x01 att fl fun k f => runCs k f att fl := rfl
theorem exec_csWr : exec (.csWr att fl) s = flitRow s 0x02 att fl fun k f => runCs k f att fl := rfl
theorem exec_dmaRd : exec (.dmaRd att fl) s = flitFab s 0x03 att fl fun k f => runDmaRd k f att fl := rfl
theorem exec_dmaWr : exec (.dmaWr att fl) s = flitFab s 0x04 att fl fun k f => runDmaWr k f att fl := rfl
theorem exec_dmaWrp : exec (.dmaWrp att fl) s = flitFab s 0x05 att fl fun k f => runDmaWrp k f att fl := rfl
theorem exec_dmaAtom : exec (.dmaAtom att fl) s = flitFab s 0x06 att fl fun k f => runDmaAtom k f att fl := rfl
theorem exec_coRds : exec (.coRds att fl) s = flitFab s 0x10 att fl fun k f => runCoAsk k f att fl false := rfl
theorem exec_coOwn : exec (.coOwn att fl) s = flitFab s 0x11 att fl fun k f => runCoAsk k f att fl true := rfl
theorem exec_coWb : exec (.coWb att fl) s = flitFab s 0x12 att fl fun k f => runCoWb k f att fl := rfl
theorem exec_coEvict : exec (.coEvict att fl) s = flitFab s 0x13 att fl fun k f => runCoEvict k f att fl := rfl
theorem exec_snpRsp : exec (.snpRsp att fl) s = flitFab s 0x18 att fl fun k f => runSnpRsp k f att fl := rfl
theorem exec_memRdata : exec (.memRdata att fl) s = flitFab s 0x20 att fl fun k f => runMemRdata k f att fl := rfl
theorem exec_memWcmp : exec (.memWcmp att fl) s = flitFab s 0x21 att fl fun k f => runMemWcmp k f att fl := rfl

end

/-- The commands by which flits come down the link, with the TYPE of each (15 R424). -/
def downRows (att : Nat) (fl : Flit) : List (Nat × Instr) :=
  [(0x01, .csRd att fl), (0x02, .csWr att fl), (0x03, .dmaRd att fl), (0x04, .dmaWr att fl), (0x05, .dmaWrp att fl), (0x06, .dmaAtom att fl),
    (0x10, .coRds att fl), (0x11, .coOwn att fl), (0x12, .coWb att fl), (0x13, .coEvict att fl),
    (0x18, .snpRsp att fl), (0x20, .memRdata att fl), (0x21, .memWcmp att fl)]

/-- Each of them is a row of flits. -/
theorem downRows_exec (s : State) {att : Nat} {fl : Flit} {e : Nat × Instr} (he : e ∈ downRows att fl) :
    ∃ run, exec e.2 s = flitRow s e.1 att fl run := by
  simp only [downRows, List.mem_cons, List.not_mem_nil, or_false] at he
  rcases he with rfl | rfl | rfl | rfl | rfl | rfl | rfl | rfl | rfl | rfl | rfl | rfl | rfl
  exacts [⟨_, exec_csRd s att fl⟩, ⟨_, exec_csWr s att fl⟩, ⟨_, exec_dmaRd s att fl⟩, ⟨_, exec_dmaWr s att fl⟩, ⟨_, exec_dmaWrp s att fl⟩,
    ⟨_, exec_dmaAtom s att fl⟩, ⟨_, exec_coRds s att fl⟩, ⟨_, exec_coOwn s att fl⟩, ⟨_, exec_coWb s att fl⟩, ⟨_, exec_coEvict s att fl⟩,
    ⟨_, exec_snpRsp s att fl⟩, ⟨_, exec_memRdata s att fl⟩, ⟨_, exec_memWcmp s att fl⟩]

/-- A control-space access. -/
theorem csRows_exec (s : State) {att : Nat} {fl : Flit} {e : Nat × Instr} (he : e ∈ [(0x01, Instr.csRd att fl), (0x02, .csWr att fl)]) :
    isResponse e.1 = false ∧ exec e.2 s = flitRow s e.1 att fl fun k f => runCs k f att fl := by
  simp only [List.mem_cons, List.not_mem_nil, or_false] at he
  rcases he with rfl | rfl
  exacts [⟨rfl, exec_csRd s att fl⟩, ⟨rfl, exec_csWr s att fl⟩]

/-- A control-space access with no DMA write before it has the effect of its performance. -/
theorem csRow_performs {s : State} {ty att : Nat} {fl : Flit} (h : FlitTaken s ty att fl) (hdma : dmaWrites s.fab att = []) :
    flitRow s ty att fl (fun k f => runCs k f att fl) = .next { s with
      keel := (performCs s.keel (takeTag s.fab att fl) att fl).1, fab := (performCs s.keel (takeTag s.fab att fl) att fl).2 } := by
  obtain ⟨⟨-, -, -, -, hcs, -⟩, -⟩ := id h
  rw [flitRow_takes _ h, runCs_ready hcs hdma]

/-- The commands of DMA accesses: TYPE, command, TYPE and data units of the answer, use, alignment, size, and whether the operands are legal
(15 R424). -/
def dmaRows (att : Nat) (fl : Flit) : List (Nat × Instr × (Nat × Nat) × Use × Nat × Nat × Bool) :=
  [(0x03, .dmaRd att fl, (0x83, max 1 (min 8 fl.sub)), .load, 32, 32 * fl.sub, decide (1 ≤ fl.sub ∧ fl.sub ≤ 8)),
    (0x04, .dmaWr att fl, (0x84, 0), .store, 32, 32 * fl.len, fl.hint != 3), (0x05, .dmaWrp att fl, (0x84, 0), .store, 32, 32, fl.hint != 3),
    (0x06, .dmaAtom att fl, (0x83, 1), .both, if bitAt fl.sub 7 then 8 else 4, if bitAt fl.sub 7 then 8 else 4,
      fld fl.sub 5 2 == 0 && decide (0x08 ≤ fld fl.sub 0 5 ∧ fld fl.sub 0 5 ≤ 0x11))]

/-- Each of them is a request, a DMA access by its operands, and has as many data units in a refusal. -/
theorem dmaRows_exec (s : State) {att : Nat} {fl : Flit} {ty : Nat} {c : Instr} {rty units : Nat} {u : Use} {align size : Nat} {ok : Bool}
    (he : (ty, c, (rty, units), u, align, size, ok) ∈ dmaRows att fl) (hty : fl.ty = ty) :
    isResponse ty = false ∧ refusedUnits rty fl = units ∧
      ∃ run : Keel → Fab → Loc → Fab, exec c s = flitFab s ty att fl fun k f => dmaAccess k f att fl rty ok u align size (run k) := by
  simp only [dmaRows, List.mem_cons, List.not_mem_nil, or_false, Prod.mk.injEq] at he
  rcases he with ⟨rfl, rfl, ⟨rfl, rfl⟩, rfl, rfl, rfl, rfl⟩ | ⟨rfl, rfl, ⟨rfl, rfl⟩, rfl, rfl, rfl, rfl⟩ |
    ⟨rfl, rfl, ⟨rfl, rfl⟩, rfl, rfl, rfl, rfl⟩ | ⟨rfl, rfl, ⟨rfl, rfl⟩, rfl, rfl, rfl, rfl⟩
  · exact ⟨rfl, by simp [refusedUnits, hty], _, exec_dmaRd s att fl⟩
  · exact ⟨rfl, rfl, _, exec_dmaWr s att fl⟩
  · exact ⟨rfl, rfl, _, exec_dmaWrp s att fl⟩
  · refine ⟨rfl, by simp [refusedUnits, hty], dmaAtomOut att fl, ?_⟩
    simp only [exec_dmaAtom, runDmaAtom_eq]

/-- The commands of DMA writes: TYPE, command, size, and the bytes written. -/
def dmaWriteRows (att : Nat) (fl : Flit) : List (Nat × Instr × Nat × List (Option Byte)) :=
  [(0x04, .dmaWr att fl, 32 * fl.len, fl.data.map some),
    (0x05, .dmaWrp att fl, 32, fl.data.mapIdx fun i b => if fl.w2.getLsbD i then some b else none)]

theorem dmaWriteRows_exec (s : State) {att : Nat} {fl : Flit} {ty : Nat} {c : Instr} {size : Nat} {bs : List (Option Byte)}
    (he : (ty, c, size, bs) ∈ dmaWriteRows att fl) : exec c s = flitFab s ty att fl fun k f =>
      dmaAccess k f att fl 0x84 (fl.hint != 3) .store 32 size fun f loc => dmaWriteOut k f att fl loc bs := by
  simp only [dmaWriteRows, List.mem_cons, List.not_mem_nil, or_false, Prod.mk.injEq] at he
  rcases he with ⟨rfl, rfl, rfl, rfl⟩ | ⟨rfl, rfl, rfl, rfl⟩
  exacts [exec_dmaWr s att fl, exec_dmaWrp s att fl]

/-- Settles O45: a row discards or takes a flit, and a flit taken is answered, waits, or goes out as its messages. -/
theorem controlSpaceAndDma : Obligations.ControlSpaceAndDma := by
  unfold Obligations.ControlSpaceAndDma
  intro s att fl hq
  refine ⟨?_, ?_, ?_, ?_, ?_, ?_, ?_⟩
  · -- flits that are discarded (R425)
    intro e he harr hbad
    obtain ⟨run, hrun⟩ := downRows_exec s he
    exact hrun.trans (flitRow_discards run harr hbad)
  · -- control-space accesses with no DMA write before them: refused, a read, a write (R422, R426)
    rintro _ _ rfl rfl hdma
    refine ⟨?_, ?_, ?_⟩
    · intro e he htaken hbad
      obtain ⟨hreq, hrun⟩ := csRows_exec s he
      refine ⟨_, hrun.trans (csRow_performs htaken hdma), ?_⟩
      rw [performCs_refuses hbad]
      exact congrArg (fun f => { s with fab := f }) (respond_taken htaken hreq 0 0x81 1 0 0 [])
    · intro htaken hal hatt
      obtain ⟨⟨-, -, -, -, -, hty⟩, -⟩ := id htaken
      refine ⟨_, (exec_csRd s att fl).trans (csRow_performs htaken hdma), ?_⟩
      rw [performCs_reads hty hal hatt]
      exact congrArg (fun f => { s with fab := f }) (respond_taken htaken rfl 1 0x81 0 _ 0 [])
    · intro r htaken hal hatt hr
      obtain ⟨⟨-, -, -, -, -, hty⟩, -⟩ := id htaken
      rw [exec_csWr, csRow_performs htaken hdma, performCs_writes hty hal hatt hr]
  · -- control-space accesses that wait for DMA writes (R426)
    intro e he htaken hdma
    obtain ⟨⟨-, -, -, -, hcs, -⟩, -⟩ := id htaken
    rw [(csRows_exec s he).2, flitRow_takes _ htaken, runCs_waits hcs hdma]
    rfl
  · -- DMA accesses that are refused (R424, R427)
    rintro ⟨ty, c, ⟨rty, units⟩, u, align, size, ok⟩ he htaken
    obtain ⟨⟨-, -, -, -, -, hty⟩, -⟩ := id htaken
    obtain ⟨hreq, rfl, run, hrun⟩ := dmaRows_exec s he hty
    refine ⟨fun hno => ?_, fun code hr hok hcheck => ?_⟩
    · rw [hrun]
      exact flitFab_refuses hq htaken hreq (dmaAccess_forbids hno _ _ _ _ _)
    · rw [hrun]
      exact flitFab_refuses hq htaken hreq (dmaAccess_fails hr hok hcheck _ _)
  · -- DMA reads that go out
    intro loc htaken h1 h8 hr
    refine ⟨_, (exec_dmaRd s att fl).trans (dmaRd_goes hq htaken h1 h8 hr), ?_, ?_, ?_, ?_⟩
    · rw [sendAll_eq]
      exact tfind_tput_self _ _ _
    · intro i p hp
      exact sendAll_net (by rw [List.getElem?_mapIdx, hp]; rfl)
    · rw [sendAll_eq]
      simp [dmaReading]
    · rw [sendAll_eq, dmaReading, openDma_taken]
  · -- DMA writes that go out
    rintro loc ⟨ty, c, size, bs⟩ he ws htaken hhint hr rfl
    refine ⟨_, (dmaWriteRows_exec s he).trans (dmaWriteRow_goes bs hq htaken hhint hr), ?_, ?_, ?_⟩
    · intro i w hw
      replace hw : (dmaWriteList s.keel att fl loc bs)[i]? = some w := hw
      have hnet := sendAll_net (f := openDma (taken s att fl) att fl (dmaWriteList s.keel att fl loc bs).length)
        (show ((dmaWriteList s.keel att fl loc bs).map (writeMsg s.keel))[i]? = some (writeMsg s.keel w) by simp [hw])
      rw [openDma_nextId, taken_nextId] at hnet
      exact hnet
    · rw [sendAll_eq]
      simp [dmaWriteList]
    · rw [sendAll_eq, openDma_taken]
      simp [dmaWriteList]
  · -- DMA atomics that go out
    rintro loc _ _ htaken rfl hzero hlo hhi hr rfl
    refine ⟨_, (exec_dmaAtom s att fl).trans (dmaAtom_goes hq htaken rfl hzero hlo hhi hr), ?_, ?_, ?_⟩
    · simp [send, dmaAtomic]
    · simp [send]
    · rw [send, openDma_taken]

end Sys2Proof.Machine
end

section
/-!
SUPPORT. Blocks that become resident (03 R55, R56, R58): the registers of a group at its start, the block that BLOCK_RESIDENT takes, the placing of
its groups one after the other, each in a free slot of its sub-core, and the settling of O20.
-/
namespace Sys2Proof.Machine

/-! ### Tables -/

/-- What is found in a table is one of its entries. -/
theorem mem_of_tfind {α : Type} {k : Nat} {v : α} : ∀ {t : Table α}, tfind t k = some v → (k, v) ∈ t
  | [], h => by simp [tfind] at h
  | (k', v') :: t, h => by
    by_cases e : k = k'
    · simp_all [tfind]
    · rw [tfind, if_neg e] at h
      exact List.mem_cons_of_mem _ (mem_of_tfind h)

/-- An entry at a new key is one entry more of what it belongs to. -/
theorem length_filter_tput {α : Type} (p : Nat × α → Bool) {k : Nat} (v : α) : ∀ {t : Table α}, tfind t k = none →
    ((tput t k v).filter p).length = (t.filter p).length + if p (k, v) then 1 else 0
  | [], _ => by
    simp only [tput, List.filter_cons, List.filter_nil]
    split <;> rfl
  | (k', v') :: t, h => by
    have hne : k ≠ k' := by
      rintro rfl
      simp [tfind] at h
    rw [tfind, if_neg hne] at h
    rw [tput, if_neg hne]
    split
    · rw [List.filter_cons]
      split <;> simp
    · have ih := length_filter_tput p v h
      simp only [List.filter_cons]
      split
      · simp only [List.length_cons, ih]
        omega
      · exact ih

/-! ### The registers of a new group -/

/-- Cells written at every address below a bound read as written below it, and nowhere else. -/
theorem cread_writeRange {n : Nat} (v : Nat → BitVec n) (m r : Nat) :
    cread 0 ((List.range m).foldl (fun u i => cwrite 0 u i (v i)) []) r = if r < m then v r else 0 := by
  induction m with
  | zero => rfl
  | succ m ih =>
    rw [List.range_succ, List.foldl_append, List.foldl_cons, List.foldl_nil, cread_cwrite, ih]
    rcases Nat.lt_trichotomy r m with h | rfl | h
    · rw [if_neg (by omega), if_pos h, if_pos (by omega)]
    · rw [if_pos rfl, if_pos (by omega)]
    · rw [if_neg (by omega), if_neg (by omega), if_neg (by omega)]

section
variable (b : Block) (id n : Nat)

@[simp] theorem vget_newGroup (r l : Nat) : vget (newGroup b id n) r l = 0 := rfl

@[simp] theorem pget_newGroup (p l : Nat) : pget (newGroup b id n) p l = false := BitVec.getLsbD_zero

/-- The first 16 uniform registers hold the words of ARGS, and every other reads zero (03 R58). -/
theorem uget_newGroup (r : Nat) : uget (newGroup b id n) r = if r < 16 then BitVec.ofNat 32 (numAt b.args (4 * r) 4) else 0 :=
  cread_writeRange (fun r => BitVec.ofNat 32 (numAt b.args (4 * r) 4)) 16 r

end

/-! ### Slots -/

theorem coreOfGid_gidOf {core sub slot : Nat} (hsub : sub < 4) (hslot : slot < 16) : coreOfGid (gidOf core sub slot) = core := by
  simp only [coreOfGid, gidOf]
  omega

theorem subOf_lt (j0 g : Nat) : subOf j0 g < 4 := Nat.mod_lt _ (by omega)

/-- The slot that the next group on a sub-core takes. -/
def nextSlot (f : Fab) (core sub : Nat) : Nat := (freeSlots f core sub).headD 0

/-- A sub-core with no free slot holds 16 groups. -/
theorem groupsOn_full {f : Fab} {core sub : Nat} (h : freeSlots f core sub = []) : 16 ≤ (groupsOn f core sub).length := by
  have hheld : ∀ slot < 16, gidOf core sub slot ∈ (groupsOn f core sub).map (·.1) := by
    intro slot hslot
    have hsome : findGroup f (gidOf core sub slot) ≠ none := by
      simpa using List.filter_eq_nil_iff.1 h slot (List.mem_range.2 hslot)
    obtain ⟨g, hg⟩ := Option.ne_none_iff_exists'.1 hsome
    refine List.mem_map.2 ⟨_, List.mem_filter.2 ⟨mem_of_tfind hg, ?_⟩, rfl⟩
    simp only [gidOf, beq_iff_eq]
    omega
  have hnodup : ((List.range 16).map (gidOf core sub)).Nodup :=
    List.nodup_range.map fun x y hxy => by
      simp only [gidOf] at hxy
      omega
  have hsub : (List.range 16).map (gidOf core sub) ⊆ (groupsOn f core sub).map (·.1) := by
    intro gid hgid
    obtain ⟨slot, hslot, rfl⟩ := List.mem_map.1 hgid
    exact hheld slot (List.mem_range.1 hslot)
  simpa using (hnodup.subperm hsub).length_le

/-- On a sub-core with fewer than 16 groups the next slot is free. -/
theorem nextSlot_free {f : Fab} {core sub : Nat} (h : (groupsOn f core sub).length < 16) :
    nextSlot f core sub < 16 ∧ findGroup f (gidOf core sub (nextSlot f core sub)) = none := by
  obtain ⟨slot, rest, hfree⟩ := List.exists_cons_of_ne_nil fun hnil => Nat.not_le.2 h (groupsOn_full hnil)
  have hmem : slot ∈ freeSlots f core sub := hfree ▸ List.mem_cons_self
  have hnext : nextSlot f core sub = slot := by simp [nextSlot, hfree]
  simpa [freeSlots, hnext] using hmem

/-! ### Placing the groups of a block -/

/-- The groups among the first `n` of a block that come to a sub-core. -/
def comingTo (j0 sub n : Nat) : Nat := ((List.range n).filter fun g => subOf j0 g == sub).length

theorem comingTo_succ (j0 sub n : Nat) : comingTo j0 sub (n + 1) = comingTo j0 sub n + if subOf j0 n = sub then 1 else 0 := by
  by_cases h : subOf j0 n = sub <;> simp [comingTo, List.range_succ, h]

/-- A group that is still to come counts. -/
theorem comingTo_lt {j0 n m : Nat} (h : n < m) : comingTo j0 (subOf j0 n) n < comingTo j0 (subOf j0 n) m := by
  have hle : comingTo j0 (subOf j0 n) (n + 1) ≤ comingTo j0 (subOf j0 n) m :=
    ((List.range_sublist.2 h).filter _).length_le
  rw [comingTo_succ, if_pos rfl] at hle
  omega

/-- Where groups fit, a sub-core has slots for those that it holds and those that come to it. -/
theorem groupsFit_room {k : Keel} {f : Fab} {b : Block} (h : groupsFit k f b = true) {sub : Nat} (hsub : sub < 4) :
    (groupsOn f b.core sub).length + comingTo (firstSub f b.core) sub b.ngroups ≤ 16 := by
  simp only [groupsFit, List.all_eq_true, List.mem_range, Bool.and_eq_true, decide_eq_true_eq] at h
  obtain ⟨hslots, -⟩ := h sub hsub
  simp only [comingTo]
  omega

section
variable (b : Block) (id core j0 : Nat)

/-- Group `n` of a block takes a slot of its sub-core. -/
def placeGroup (st : Fab × List Nat) (n : Nat) : Fab × List Nat :=
  let gid := gidOf core (subOf j0 n) (nextSlot st.1 core (subOf j0 n))
  (onCores st.1 fun c => { c with groups := tput c.groups gid (newGroup b id n) }, st.2 ++ [gid])

/-- The first `n` groups of a block, placed. -/
def groupsPlaced (f : Fab) (n : Nat) : Fab × List Nat := (List.range n).foldl (placeGroup b id core j0) (f, [])

/-- The slot that group `n` of a block takes. -/
def slotFor (f : Fab) (n : Nat) : Nat :=
  gidOf core (subOf j0 n) (nextSlot (groupsPlaced b id core j0 f n).1 core (subOf j0 n))

theorem groupsPlaced_succ (f : Fab) (n : Nat) :
    groupsPlaced b id core j0 f (n + 1) = placeGroup b id core j0 (groupsPlaced b id core j0 f n) n := by
  simp only [groupsPlaced, List.range_succ, List.foldl_append, List.foldl_cons, List.foldl_nil]

theorem groupsPlaced_gids_succ (f : Fab) (n : Nat) :
    (groupsPlaced b id core j0 f (n + 1)).2 = (groupsPlaced b id core j0 f n).2 ++ [slotFor b id core j0 f n] := by
  rw [groupsPlaced_succ]
  rfl

theorem findGroup_groupsPlaced_succ (f : Fab) (n gid : Nat) : findGroup (groupsPlaced b id core j0 f (n + 1)).1 gid =
    if gid = slotFor b id core j0 f n then some (newGroup b id n) else findGroup (groupsPlaced b id core j0 f n).1 gid := by
  rw [groupsPlaced_succ]
  exact tfind_tput _ _ _ _

theorem groupsPlaced_length (f : Fab) (n : Nat) : (groupsPlaced b id core j0 f n).2.length = n := by
  induction n with
  | zero => rfl
  | succ n ih => rw [groupsPlaced_gids_succ, List.length_append, ih, List.length_singleton]

/-- Placing groups changes the table of groups alone. -/
theorem groupsPlaced_eq (f : Fab) (n : Nat) : (groupsPlaced b id core j0 f n).1 =
    onCores f fun c => { c with groups := (groupsPlaced b id core j0 f n).1.cores.groups } := by
  induction n with
  | zero => rfl
  | succ n ih =>
    rw [groupsPlaced_succ, placeGroup, ih]
    rfl

/-- A group that stands in the core once groups are placed stood there before, or is one of them. -/
theorem findGroup_groupsPlaced_cases {f : Fab} {n gid : Nat} {g : Group} (h : findGroup (groupsPlaced b id core j0 f n).1 gid = some g) :
    findGroup f gid = some g ∨ ∃ i, g = newGroup b id i := by
  induction n with
  | zero => exact .inl h
  | succ n ih =>
    rw [findGroup_groupsPlaced_succ] at h
    split at h
    · exact .inr ⟨n, (Option.some.inj h).symm⟩
    · exact ih h

end

/-- The first `n` groups of a block are placed whole: each in a slot of its own that was free, and no slot is emptied. -/
structure PlacedWhole (b : Block) (id core j0 : Nat) (f : Fab) (n : Nat) : Prop where
  nodup : (groupsPlaced b id core j0 f n).2.Nodup
  stands : ∀ i gid, (groupsPlaced b id core j0 f n).2[i]? = some gid → findGroup f gid = none ∧ coreOfGid gid = core ∧
    findGroup (groupsPlaced b id core j0 f n).1 gid = some (newGroup b id i)
  keeps : ∀ gid, findGroup (groupsPlaced b id core j0 f n).1 gid = none → findGroup f gid = none
  count : ∀ sub, (groupsOn (groupsPlaced b id core j0 f n).1 core sub).length = (groupsOn f core sub).length + comingTo j0 sub n

section
variable {b : Block} {id core j0 : Nat} {f : Fab} {n : Nat}

/-- One more group in a free slot is one more on its sub-core. -/
theorem groupsOn_groupsPlaced_succ (hslot : nextSlot (groupsPlaced b id core j0 f n).1 core (subOf j0 n) < 16)
    (hfree : findGroup (groupsPlaced b id core j0 f n).1 (slotFor b id core j0 f n) = none) (sub : Nat) :
    (groupsOn (groupsPlaced b id core j0 f (n + 1)).1 core sub).length =
      (groupsOn (groupsPlaced b id core j0 f n).1 core sub).length + if subOf j0 n = sub then 1 else 0 := by
  have hsub : (slotFor b id core j0 f n / 16 == core * 4 + sub) = decide (subOf j0 n = sub) := by
    rw [Bool.eq_iff_iff, beq_iff_eq, decide_eq_true_iff, slotFor, gidOf]
    omega
  have hput := length_filter_tput (fun g => g.1 / 16 == core * 4 + sub) (newGroup b id n) hfree
  simp only [hsub, decide_eq_true_iff] at hput
  rw [groupsPlaced_succ]
  exact hput

/-- One more group finds a slot, where its sub-core has room. -/
theorem PlacedWhole.succ (h : PlacedWhole b id core j0 f n)
    (hroom : (groupsOn f core (subOf j0 n)).length + comingTo j0 (subOf j0 n) n < 16) : PlacedWhole b id core j0 f (n + 1) := by
  obtain ⟨hslot, (hfree : findGroup _ (slotFor b id core j0 f n) = none)⟩ := nextSlot_free ((h.count (subOf j0 n)).trans_lt hroom)
  have hnew : ∀ i : Nat, (groupsPlaced b id core j0 f n).2[i]? ≠ some (slotFor b id core j0 f n) := by
    intro i hi
    obtain ⟨-, -, hstands⟩ := h.stands i _ hi
    simp [hfree] at hstands
  refine ⟨?_, ?_, ?_, ?_⟩
  · rw [groupsPlaced_gids_succ]
    refine List.nodup_append.2 ⟨h.nodup, List.nodup_singleton _, ?_⟩
    rintro gid hgid _ hlast rfl
    obtain ⟨i, hi⟩ := List.mem_iff_getElem?.1 hgid
    exact hnew i (List.mem_singleton.1 hlast ▸ hi)
  · intro i gid hi
    rw [groupsPlaced_gids_succ] at hi
    rw [findGroup_groupsPlaced_succ]
    rcases Nat.lt_or_ge i n with hlt | hge
    · rw [List.getElem?_append_left (by rwa [groupsPlaced_length])] at hi
      rw [if_neg (by rintro rfl; exact hnew i hi)]
      exact h.stands i gid hi
    · rw [List.getElem?_append_right (by rwa [groupsPlaced_length]), groupsPlaced_length, List.getElem?_singleton] at hi
      split at hi
      · cases hi
        obtain rfl : i = n := by omega
        rw [if_pos rfl]
        exact ⟨h.keeps _ hfree, coreOfGid_gidOf (subOf_lt j0 i) hslot, rfl⟩
      · cases hi
  · intro gid hgid
    rw [findGroup_groupsPlaced_succ] at hgid
    split at hgid
    · cases hgid
    · exact h.keeps gid hgid
  · intro sub
    rw [groupsOn_groupsPlaced_succ hslot hfree, h.count, comingTo_succ, Nat.add_assoc]

/-- A block whose groups fit on the sub-cores is placed whole. -/
theorem placedWhole (hroom : ∀ sub < 4, (groupsOn f core sub).length + comingTo j0 sub b.ngroups ≤ 16) :
    ∀ n ≤ b.ngroups, PlacedWhole b id core j0 f n
  | 0, _ => ⟨List.nodup_nil, fun _ _ h => by simp [groupsPlaced] at h, fun _ h => h, fun _ => rfl⟩
  | n + 1, hn => (placedWhole hroom n (by omega)).succ (by
      have := hroom _ (subOf_lt j0 n)
      have := comingTo_lt (j0 := j0) hn
      omega)

end

/-! ### BLOCK_RESIDENT -/

/-- The block that BLOCK_RESIDENT takes, with those of its level that stay. -/
def takenBlock (k : Keel) (f : Fab) (core : Nat) : Option (Block × List Block) :=
  [3, 2, 1, 0].findSome? fun l => takeBlock k f core [] (f.cores.waiting.filter fun b => b.level == l)

/-- The fabric once a block has left the waiting blocks and its number is taken. -/
def dequeued (f : Fab) (b : Block) : Fab := onCores { f with nextId := f.nextId + 1 } fun c => { c with waiting := c.waiting.erase b }

/-- A block with all its groups placed. -/
def placedBlock (f : Fab) (core : Nat) (b : Block) : Fab × List Nat := groupsPlaced b f.nextId core (firstSub f core) (dequeued f b) b.ngroups

/-- The block as it stands in the core. -/
def residentBlock (f : Fab) (core : Nat) (b : Block) : Block :=
  { b with gids := (placedBlock f core b).2, sliceAt := (slicePlace f b).getD 0 }

/-- The fabric with a block resident. -/
def resident (f : Fab) (core : Nat) (b : Block) : Fab :=
  onCores (placedBlock f core b).1 fun c => { c with blocks := tput c.blocks f.nextId (residentBlock f core b) }

/-- The place of a slice does not depend on groups. -/
theorem slicePlace_placedBlock (f : Fab) (core : Nat) (b : Block) : slicePlace (placedBlock f core b).1 b = slicePlace f b := by
  rw [placedBlock, groupsPlaced_eq]
  rfl

/-- BLOCK_RESIDENT makes the block that it takes resident. -/
theorem exec_blockResident {s : State} {core : Nat} {b : Block} {rest : List Block} (h : takenBlock s.keel s.fab core = some (b, rest)) :
    exec (.blockResident core) s = .next { s with fab := resident s.fab core b } := by
  have hrun : runBlockResident s.keel s.fab core = onCores (placedBlock s.fab core b).1 fun c => { c with
      blocks := tput c.blocks s.fab.nextId
        { b with gids := (placedBlock s.fab core b).2, sliceAt := (slicePlace (placedBlock s.fab core b).1 b).getD 0 } } := by
    unfold takenBlock at h
    simp only [runBlockResident, h]
    rfl
  rw [slicePlace_placedBlock] at hrun
  exact congrArg (fun f => Host.Outcome.next { s with fab := f }) hrun

/-- With no block to take it changes nothing. -/
theorem exec_blockResident_none {s : State} {core : Nat} (h : takenBlock s.keel s.fab core = none) :
    exec (.blockResident core) s = .next s := by
  have hrun : runBlockResident s.keel s.fab core = s.fab := by
    unfold takenBlock at h
    simp only [runBlockResident, h]
  exact congrArg (fun f => Host.Outcome.next { s with fab := f }) hrun

theorem takeBlock_mem {k : Keel} {f : Fab} {core : Nat} {b : Block} {left : List Block} : ∀ {before rest : List Block},
    takeBlock k f core before rest = some (b, left) → b ∈ rest
  | _, [], h => by simp [takeBlock] at h
  | before, x :: rest, h => by
    rw [takeBlock] at h
    split at h
    · cases h
      exact List.mem_cons_self
    · exact List.mem_cons_of_mem _ (takeBlock_mem h)

/-- The block that is taken waits. -/
theorem takenBlock_mem {k : Keel} {f : Fab} {core : Nat} {b : Block} {left : List Block} (h : takenBlock k f core = some (b, left)) :
    b ∈ f.cores.waiting := by
  obtain ⟨l, -, hl⟩ := List.exists_of_findSome?_eq_some h
  exact (List.mem_filter.1 (takeBlock_mem hl)).1

/-- A block that alone waits is taken, where it may become resident. -/
theorem takenBlock_alone {k : Keel} {f : Fab} {b : Block} (hw : f.cores.waiting = [b]) (hl : b.level ≤ 3)
    (hm : mayReside k f [] b = true) : takenBlock k f b.core = some (b, []) := by
  have hlevel : ∀ l, takeBlock k f b.core [] ([b].filter fun b => b.level == l) = if b.level = l then some (b, []) else none := by
    intro l
    by_cases h : b.level = l <;> simp [h, takeBlock, hm]
  obtain h | h | h | h : b.level = 3 ∨ b.level = 2 ∨ b.level = 1 ∨ b.level = 0 := by omega
  all_goals simp [takenBlock, hw, hlevel, h]

/-- A group that stands in the core once a block is resident stood there before, or is one of the block's. -/
theorem findGroup_resident_cases {f : Fab} {core gid : Nat} {b : Block} {g : Group} (h : findGroup (resident f core b) gid = some g) :
    findGroup f gid = some g ∨ ∃ i, g = newGroup b f.nextId i :=
  findGroup_groupsPlaced_cases b f.nextId core (firstSub f core) (f := dequeued f b) h

/-- A block that becomes resident adds groups and one block to the core, and takes one number. -/
theorem resident_eq (f : Fab) (core : Nat) (b : Block) : resident f core b = { f with
    nextId := f.nextId + 1
    cores := { f.cores with
      groups := (resident f core b).cores.groups, blocks := (resident f core b).cores.blocks, waiting := f.cores.waiting.erase b } } := by
  simp only [resident, placedBlock]
  rw [groupsPlaced_eq]
  rfl

theorem tfind_resident_blocks (f : Fab) (core : Nat) (b : Block) :
    tfind (resident f core b).cores.blocks f.nextId = some (residentBlock f core b) := tfind_tput_self _ _ _

/-- A block that may become resident is placed whole. -/
theorem placedWhole_of_mayReside {k : Keel} {f : Fab} {before : List Block} {b : Block} (h : mayReside k f before b = true) :
    PlacedWhole b f.nextId b.core (firstSub f b.core) (dequeued f b) b.ngroups := by
  have hfit : groupsFit k f b = true := by
    simp only [mayReside, Bool.and_eq_true] at h
    obtain ⟨⟨⟨⟨⟨⟨-, -⟩, hfit⟩, -⟩, -⟩, -⟩, -⟩ := h
    exact hfit
  exact placedWhole (f := dequeued f b) (fun sub hsub => groupsFit_room hfit hsub) _ le_rfl

/-- Settles O20: a new group is one that BLOCK_RESIDENT placed, and where the groups of a block fit each of them finds a free slot. -/
theorem blockBecomesResident : Obligations.BlockBecomesResident := by
  unfold Obligations.BlockBecomesResident
  refine ⟨?_, ?_⟩
  · -- the registers of a group that was not there before (R58)
    intro s t core gid g hexec hbefore hafter
    cases htaken : takenBlock s.keel s.fab core with
    | none =>
      cases (exec_blockResident_none htaken).symm.trans hexec
      simp [hbefore] at hafter
    | some taken =>
      obtain ⟨b, rest⟩ := taken
      cases (exec_blockResident htaken).symm.trans hexec
      obtain hold | ⟨i, rfl⟩ := findGroup_resident_cases hafter
      · simp [hbefore] at hold
      · refine ⟨vget_newGroup b _ i, pget_newGroup b _ i, fun r hr => ?_, b, takenBlock_mem htaken, fun r hr => ?_⟩
        · rw [uget_newGroup, if_neg (by omega)]
        · rw [uget_newGroup, if_pos hr]
  · -- a block that alone waits (R55, R56)
    rintro s _ b hwaiting rfl hlevel hmay
    have hwhole := placedWhole_of_mayReside hmay
    have herase : s.fab.cores.waiting.erase b = [] := by simp [hwaiting]
    refine ⟨_, residentBlock s.fab b.core b, exec_blockResident (takenBlock_alone hwaiting hlevel hmay), tfind_resident_blocks _ _ _, rfl,
      groupsPlaced_length _ _ _ _ _ _, hwhole.nodup, ?_, ?_, ?_⟩
    · rw [resident_eq]
      exact herase
    · intro n gid hgid
      obtain ⟨hfree, hcore, hstands⟩ := hwhole.stands n gid hgid
      exact ⟨hfree, hcore, _, hstands, rfl, rfl, rfl⟩
    · rw [← herase]
      exact congrArg (fun f => { s with fab := f }) (resident_eq s.fab b.core b)

end Sys2Proof.Machine
end
